-- ==== Sys2Proof/Word.lean ====
section
/-!
DEFINITION. The word types of the Z8 (spec/00_scope.md R4) and the sparse map used for every large store of the machine.
-/

namespace Sys2Proof

/-- One byte of memory. -/
abbrev Byte := BitVec 8

/-- The 32-bit word of registers, lanes and instructions. -/
abbrev Word := BitVec 32

/-- A 64-bit value: an address, a time, a pair of scalars. -/
abbrev Dword := BitVec 64

/-- A sparse store: key and value pairs, keys strictly rising; a key that is not listed reads as the store's default. -/
abbrev Sparse (α : Type) := List (Nat × α)

end Sys2Proof
end

