-- ==== Sys2Proof/Syntax.lean ====
section
/-!
DEFINITION. The instructions and events of the Z8: one constructor for each row of the operation table. An encoded row
carries the fields of its word (spec/05_encoding.md Table 5.1). An event row carries what comes from outside; what it acts on
inside the device is named by the state (`State.subject`, assumption 3). Rows without operands stand last.
-/

namespace Sys2Proof

/-- A host access to device memory over GortyLink (R318): one home action each. -/
inductive HostAccess where
  /-- A load of `width` bytes. -/
  | load (addr width : Nat)
  /-- A store of `width` bytes; a release store waits for the W of every earlier host store (R318). -/
  | store (addr width : Nat) (value : Dword) (release : Bool)
  /-- An atomic with the operation code of Table 5.6 and its operands. -/
  | atomic (addr op : Nat) (x y : Word)
  /-- The host offers a firmware image: header, which carries SVN and key, body and signature (R350 step 2). -/
  | image (header body sig : List Byte)
  deriving DecidableEq, Repr

/-- A request that arrives at this device from another device of the domain (R321-R323). -/
inductive DomainRequest where
  /-- A load of a line of context `ctx` at offset `off`, by port `port`, for a context whose lease length is `lease` (R233). -/
  | load (port ctx off lease : Nat)
  /-- A store of `width` bytes. -/
  | store (port ctx off width : Nat) (value : Dword)
  /-- An atomic with the operation code of Table 5.6. -/
  | atomic (port ctx off op : Nat) (x y : Word)
  /-- A wake of the line (R192). -/
  | wake (port ctx off : Nat)
  /-- The home action of a `wata` under a number of the requester's: the word is read, and watched where it equals `expect`. -/
  | wata (port ctx off number : Nat) (expect : Word)
  /-- The requester's watch under a number has ended on its side, by its budget (R190). -/
  | unwatch (port number : Nat)
  deriving DecidableEq, Repr

/-- What one rank of a collective announces to the others (R225): its parameters and the elements it sends. -/
structure CollFrame where
  id : Dword
  nrLog : Nat
  rank : Nat
  kind : Nat
  count : Nat
  type : Nat
  op : Nat
  round : Nat
  killed : Bool
  data : List Word
  port : Nat := 0
  deriving DecidableEq, Repr

/-- A transport frame that arrives from another domain (R325): the sender's device word, its number among the sender's frames to this
device, the number below which the sender has received every frame of this device, and what it carries, if anything. -/
structure EthFrame where
  peer : Nat
  number : Nat
  acked : Nat
  body : Option CollFrame
  deriving DecidableEq, Repr

/-- Every row of the operation table. -/
inductive Instr where
  /-- R103: Repeat prefix: issues the following body instruction up to 64 times, stepping the chosen register fields between repetitions. -/
  | rep (n : BitVec 6) (f : BitVec 3) (t : BitVec 2)
  /-- R111: Branches to X + 4·OFF when the condition holds on the group's Z, N, C and V. -/
  | bCond (c : BitVec 4) (o : BitVec 20)
  /-- R40: Each slice branches on its own MZ bit, and the group parts if the slices disagree. -/
  | bMz (o : BitVec 20)
  /-- R40: Each slice branches on its own MA bit, and the group parts if the slices disagree. -/
  | bMa (o : BitVec 20)
  /-- R111: Sets LINK to X + 4, increments CDEPTH and branches. -/
  | call (o : BitVec 20)
  /-- R112: Jumps to the checked 64-bit target held in sA+1:sA. -/
  | jmp (a : BitVec 9)
  /-- R42: The slice arrives at the rendezvous; the rendezvous completes once every slice it names has arrived or exited. -/
  | regang (d : BitVec 9) (a : BitVec 9)
  /-- R119: Raises cause 0x0D with TVAL set to the immediate. -/
  | ecall (i : BitVec 15)
  /-- R119: Raises cause 0x0E with TVAL set to the immediate. -/
  | trap (i : BitVec 15)
  /-- R119: Raises cause 0x0C with TVAL set to the immediate. -/
  | brk (i : BitVec 15)
  /-- R114: Writes MODE from sA after the checks of R52. -/
  | setmode (a : BitVec 9)
  /-- R114: Replaces the guard-predicate field of MODE. -/
  | msetGp (i : BitVec 3)
  /-- R114: Replaces the element-type field of MODE. -/
  | msetEt (i : BitVec 6)
  /-- R114: Replaces the rounding-mode field of MODE. -/
  | msetRm (i : BitVec 3)
  /-- R118: Reads a special register into sD, or into sD and sD+1 for a 64-bit register. -/
  | rdsr (d : BitVec 9) (s : BitVec 15)
  /-- R118: Writes a special register from sD, or from sD and sD+1, after the checks of R59. -/
  | wrsr (d : BitVec 9) (s : BitVec 15)
  /-- R123: Waits until the named engine class counter is at most n. -/
  | waitc (c : BitVec 2) (n : BitVec 8)
  /-- R269: Performs the release wait, reads and checks the launch record and its claims, and posts the launch or returns a status code. -/
  | lnch (d : BitVec 9) (a : BitVec 9)
  /-- R293: Performs the device-scope release wait, then registers the gang's arrival at the banner. -/
  | barrArrive (b : BitVec 8)
  /-- R293: Waits until the gang's phase of the banner completes, then performs the acquire at the completion time. -/
  | barrWait (b : BitVec 8)
  /-- R293: Performs an arrive followed by a wait on the banner. -/
  | barrSync (b : BitVec 8)
  /-- R128: Writes one marker entry to the tile's replay log. -/
  | logw (a : BitVec 9)
  /-- R129: Removes every translation of one page, or of the whole context, from all TLBs and walkers of the device. -/
  | tlbinv (a : BitVec 9)
  /-- R108: Scalar add, setting Z, N, C and V. -/
  | add (d : BitVec 9) (a : BitVec 9) (b : BitVec 6)
  /-- R108: Scalar subtract, setting Z, N, C and V. -/
  | sub (d : BitVec 9) (a : BitVec 9) (b : BitVec 6)
  /-- R108: Scalar multiply, low word. -/
  | mul (d : BitVec 9) (a : BitVec 9) (b : BitVec 6)
  /-- R108: Scalar signed multiply, high word. -/
  | mulh (d : BitVec 9) (a : BitVec 9) (b : BitVec 6)
  /-- R108: Scalar unsigned multiply, high word. -/
  | mulhN (d : BitVec 9) (a : BitVec 9) (b : BitVec 6)
  /-- R108: Scalar signed divide under R67. -/
  | div (d : BitVec 9) (a : BitVec 9) (b : BitVec 6)
  /-- R108: Scalar unsigned divide under R67. -/
  | divN (d : BitVec 9) (a : BitVec 9) (b : BitVec 6)
  /-- R108: Scalar signed remainder under R67. -/
  | rem (d : BitVec 9) (a : BitVec 9) (b : BitVec 6)
  /-- R108: Scalar unsigned remainder under R67. -/
  | remN (d : BitVec 9) (a : BitVec 9) (b : BitVec 6)
  /-- R108: Scalar AND. -/
  | and (d : BitVec 9) (a : BitVec 9) (b : BitVec 6)
  /-- R108: Scalar OR. -/
  | or (d : BitVec 9) (a : BitVec 9) (b : BitVec 6)
  /-- R108: Scalar XOR. -/
  | xor (d : BitVec 9) (a : BitVec 9) (b : BitVec 6)
  /-- R108: Scalar AND NOT. -/
  | andn (d : BitVec 9) (a : BitVec 9) (b : BitVec 6)
  /-- R108: Scalar shift left. -/
  | shl (d : BitVec 9) (a : BitVec 9) (b : BitVec 6)
  /-- R108: Scalar logical shift right. -/
  | shr (d : BitVec 9) (a : BitVec 9) (b : BitVec 6)
  /-- R108: Scalar arithmetic shift right. -/
  | sra (d : BitVec 9) (a : BitVec 9) (b : BitVec 6)
  /-- R108: Scalar rotate left. -/
  | rol (d : BitVec 9) (a : BitVec 9) (b : BitVec 6)
  /-- R108: Scalar signed minimum. -/
  | min (d : BitVec 9) (a : BitVec 9) (b : BitVec 6)
  /-- R108: Scalar signed maximum. -/
  | max (d : BitVec 9) (a : BitVec 9) (b : BitVec 6)
  /-- R108: Scalar unsigned minimum. -/
  | minN (d : BitVec 9) (a : BitVec 9) (b : BitVec 6)
  /-- R108: Scalar unsigned maximum. -/
  | maxN (d : BitVec 9) (a : BitVec 9) (b : BitVec 6)
  /-- R108: Sets the flags of sA − sB and writes no register. -/
  | cmp (a : BitVec 9) (b : BitVec 6)
  /-- R109: Scalar bit-field extract. -/
  | bfx (d : BitVec 9) (a : BitVec 9) (b : BitVec 6)
  /-- R109: Scalar bit-field insert. -/
  | bfi (d : BitVec 9) (a : BitVec 9) (b : BitVec 6)
  /-- R108: Copies sA to sD. -/
  | mov (d : BitVec 9) (a : BitVec 9)
  /-- R108: Counts the one bits of sA. -/
  | popc (d : BitVec 9) (a : BitVec 9)
  /-- R108: Counts the leading zeros of sA. -/
  | clz (d : BitVec 9) (a : BitVec 9)
  /-- R108: Counts the trailing zeros of sA. -/
  | ctz (d : BitVec 9) (a : BitVec 9)
  /-- R91: Writes sA to sD when the condition holds on the group's flags. -/
  | selCond (d : BitVec 9) (a : BitVec 9) (c : BitVec 4)
  /-- R110: Sets the flags of sD − imm and writes no register. -/
  | cmpi (d : BitVec 9) (i : BitVec 15)
  /-- R110: Adds the sign-extended immediate to sD, setting the add flags. -/
  | addi (d : BitVec 9) (i : BitVec 15)
  /-- R110: ANDs the immediate into sD. -/
  | andi (d : BitVec 9) (i : BitVec 15)
  /-- R110: ORs the immediate into sD. -/
  | ori (d : BitVec 9) (i : BitVec 15)
  /-- R110: XORs the immediate into sD. -/
  | xori (d : BitVec 9) (i : BitVec 15)
  /-- R91: Loads the sign-extended 18-bit immediate into sD. -/
  | ldi (d : BitVec 6) (i : BitVec 18)
  /-- R91: Writes the immediate into bits [15:0] of sD. -/
  | ldlo (d : BitVec 6) (i : BitVec 16)
  /-- R91: Writes the immediate into bits [31:16] of sD. -/
  | ldhi (d : BitVec 6) (i : BitVec 16)
  /-- R135: Vector integer add, linkable. -/
  | iaddV (d : BitVec 6) (a : BitVec 6) (b : BitVec 6) (l : BitVec 2)
  /-- R135: Vector integer add with a scalar operand. -/
  | iaddVs (d : BitVec 6) (a : BitVec 6) (b : BitVec 6) (l : BitVec 2)
  /-- R135: Vector integer subtract. -/
  | isubV (d : BitVec 6) (a : BitVec 6) (b : BitVec 6) (l : BitVec 2)
  /-- R135: Vector integer subtract with a scalar operand. -/
  | isubVs (d : BitVec 6) (a : BitVec 6) (b : BitVec 6) (l : BitVec 2)
  /-- R135: Vector multiply, low word. -/
  | imulV (d : BitVec 6) (a : BitVec 6) (b : BitVec 6) (l : BitVec 2)
  /-- R135: Vector multiply, low word, with a scalar operand. -/
  | imulVs (d : BitVec 6) (a : BitVec 6) (b : BitVec 6) (l : BitVec 2)
  /-- R135: Vector signed multiply, high word. -/
  | imulhV (d : BitVec 6) (a : BitVec 6) (b : BitVec 6) (l : BitVec 2)
  /-- R135: Vector signed multiply, high word, with a scalar operand. -/
  | imulhVs (d : BitVec 6) (a : BitVec 6) (b : BitVec 6) (l : BitVec 2)
  /-- R135: Vector unsigned multiply, high word. -/
  | imulhNV (d : BitVec 6) (a : BitVec 6) (b : BitVec 6) (l : BitVec 2)
  /-- R135: Vector unsigned multiply, high word, with a scalar operand. -/
  | imulhNVs (d : BitVec 6) (a : BitVec 6) (b : BitVec 6) (l : BitVec 2)
  /-- R135: Vector multiply-add into the destination. -/
  | imadV (d : BitVec 6) (a : BitVec 6) (b : BitVec 6) (l : BitVec 2)
  /-- R135: Vector multiply-add with a scalar operand. -/
  | imadVs (d : BitVec 6) (a : BitVec 6) (b : BitVec 6) (l : BitVec 2)
  /-- R135: Vector AND. -/
  | iandV (d : BitVec 6) (a : BitVec 6) (b : BitVec 6) (l : BitVec 2)
  /-- R135: Vector AND with a scalar operand. -/
  | iandVs (d : BitVec 6) (a : BitVec 6) (b : BitVec 6) (l : BitVec 2)
  /-- R135: Vector OR. -/
  | iorV (d : BitVec 6) (a : BitVec 6) (b : BitVec 6) (l : BitVec 2)
  /-- R135: Vector OR with a scalar operand. -/
  | iorVs (d : BitVec 6) (a : BitVec 6) (b : BitVec 6) (l : BitVec 2)
  /-- R135: Vector XOR. -/
  | ixorV (d : BitVec 6) (a : BitVec 6) (b : BitVec 6) (l : BitVec 2)
  /-- R135: Vector XOR with a scalar operand. -/
  | ixorVs (d : BitVec 6) (a : BitVec 6) (b : BitVec 6) (l : BitVec 2)
  /-- R135: Vector AND NOT. -/
  | iandnV (d : BitVec 6) (a : BitVec 6) (b : BitVec 6) (l : BitVec 2)
  /-- R135: Vector AND NOT with a scalar operand. -/
  | iandnVs (d : BitVec 6) (a : BitVec 6) (b : BitVec 6) (l : BitVec 2)
  /-- R135: Vector shift left. -/
  | ishlV (d : BitVec 6) (a : BitVec 6) (b : BitVec 6) (l : BitVec 2)
  /-- R135: Vector shift left by a scalar. -/
  | ishlVs (d : BitVec 6) (a : BitVec 6) (b : BitVec 6) (l : BitVec 2)
  /-- R135: Vector logical shift right. -/
  | ishrV (d : BitVec 6) (a : BitVec 6) (b : BitVec 6) (l : BitVec 2)
  /-- R135: Vector logical shift right by a scalar. -/
  | ishrVs (d : BitVec 6) (a : BitVec 6) (b : BitVec 6) (l : BitVec 2)
  /-- R135: Vector arithmetic shift right. -/
  | israV (d : BitVec 6) (a : BitVec 6) (b : BitVec 6) (l : BitVec 2)
  /-- R135: Vector arithmetic shift right by a scalar. -/
  | israVs (d : BitVec 6) (a : BitVec 6) (b : BitVec 6) (l : BitVec 2)
  /-- R135: Vector signed minimum. -/
  | iminV (d : BitVec 6) (a : BitVec 6) (b : BitVec 6) (l : BitVec 2)
  /-- R135: Vector signed minimum with a scalar operand. -/
  | iminVs (d : BitVec 6) (a : BitVec 6) (b : BitVec 6) (l : BitVec 2)
  /-- R135: Vector signed maximum. -/
  | imaxV (d : BitVec 6) (a : BitVec 6) (b : BitVec 6) (l : BitVec 2)
  /-- R135: Vector signed maximum with a scalar operand. -/
  | imaxVs (d : BitVec 6) (a : BitVec 6) (b : BitVec 6) (l : BitVec 2)
  /-- R135: Vector unsigned minimum. -/
  | iminNV (d : BitVec 6) (a : BitVec 6) (b : BitVec 6) (l : BitVec 2)
  /-- R135: Vector unsigned minimum with a scalar operand. -/
  | iminNVs (d : BitVec 6) (a : BitVec 6) (b : BitVec 6) (l : BitVec 2)
  /-- R135: Vector unsigned maximum. -/
  | imaxNV (d : BitVec 6) (a : BitVec 6) (b : BitVec 6) (l : BitVec 2)
  /-- R135: Vector unsigned maximum with a scalar operand. -/
  | imaxNVs (d : BitVec 6) (a : BitVec 6) (b : BitVec 6) (l : BitVec 2)
  /-- R138: Selects a or b in each lane by predicate pK. -/
  | iselV (k : BitVec 3) (d : BitVec 6) (a : BitVec 6) (b : BitVec 6) (l : BitVec 2)
  /-- R138: Selects a or a scalar in each lane by predicate pK. -/
  | iselVs (k : BitVec 3) (d : BitVec 6) (a : BitVec 6) (b : BitVec 6) (l : BitVec 2)
  /-- R137: Writes an integer comparison to a predicate in each active lane. -/
  | icmp (c : BitVec 4) (d : BitVec 3) (a : BitVec 6) (b : BitVec 6)
  /-- R139: Vector bitwise NOT. -/
  | inot (d : BitVec 6) (a : BitVec 6)
  /-- R139: Vector absolute value, clamped under SAT. -/
  | iabs (d : BitVec 6) (a : BitVec 6)
  /-- R139: Vector negate, clamped under SAT. -/
  | ineg (d : BitVec 6) (a : BitVec 6)
  /-- R139: Vector population count. -/
  | ipopc (d : BitVec 6) (a : BitVec 6)
  /-- R139: Vector count of leading zeros. -/
  | iclz (d : BitVec 6) (a : BitVec 6)
  /-- R139: Writes each lane's number within the gang. -/
  | lanei (d : BitVec 6)
  /-- R140: Vector bit-field extract, lane by lane. -/
  | ibfx (d : BitVec 6) (a : BitVec 6) (b : BitVec 6)
  /-- R140: Vector bit-field insert, lane by lane. -/
  | ibfi (d : BitVec 6) (a : BitVec 6) (b : BitVec 6)
  /-- R141: Broadcasts a scalar into every active lane of vD. -/
  | vbc (d : BitVec 6) (b : BitVec 6)
  /-- R151: Deskewed shuffle: each active lane receives the value of the lane it selects. -/
  | shfl (n : BitVec 4) (d : BitVec 6) (a : BitVec 6) (b : BitVec 6)
  /-- R152: Broadcasts the value of one lane to every active lane. -/
  | bcast (n : BitVec 4) (d : BitVec 6) (a : BitVec 6) (b : BitVec 6)
  /-- R153: Reads one lane's value into a scalar register. -/
  | vget (n : BitVec 4) (d : BitVec 6) (a : BitVec 6) (b : BitVec 6)
  /-- R154: Writes the mask of active lanes whose predicate is true to a scalar register. -/
  | ballot (n : BitVec 4) (d : BitVec 6) (a : BitVec 3)
  /-- R155: Writes to each lane the mask of active lanes holding an equal key. -/
  | matchv (n : BitVec 4) (d : BitVec 6) (a : BitVec 6)
  /-- R156: Intersects two lane lists and writes the advance counts to ADV. -/
  | isect (n : BitVec 4) (d : BitVec 6) (a : BitVec 6) (b : BitVec 6)
  /-- R146: Converts between INT32, UINT32, FP16 and BF16 on one side and FP32 on the other. -/
  | cvt (t : BitVec 4) (d : BitVec 6) (a : BitVec 6) (f : BitVec 6)
  /-- R147: Converts FP32 into the ET type and writes the result into byte lane K. -/
  | narrow (k : BitVec 2) (d : BitVec 6) (a : BitVec 6)
  /-- R148: Widens byte lane K of the ET type exactly to FP32. -/
  | widen (k : BitVec 2) (d : BitVec 6) (a : BitVec 6)
  /-- R142: FP32 add, linkable. -/
  | faddV (d : BitVec 6) (a : BitVec 6) (b : BitVec 6) (l : BitVec 2)
  /-- R142: FP32 add with a scalar operand. -/
  | faddVs (d : BitVec 6) (a : BitVec 6) (b : BitVec 6) (l : BitVec 2)
  /-- R142: FP32 subtract. -/
  | fsubV (d : BitVec 6) (a : BitVec 6) (b : BitVec 6) (l : BitVec 2)
  /-- R142: FP32 subtract with a scalar operand. -/
  | fsubVs (d : BitVec 6) (a : BitVec 6) (b : BitVec 6) (l : BitVec 2)
  /-- R142: FP32 multiply. -/
  | fmulV (d : BitVec 6) (a : BitVec 6) (b : BitVec 6) (l : BitVec 2)
  /-- R142: FP32 multiply with a scalar operand. -/
  | fmulVs (d : BitVec 6) (a : BitVec 6) (b : BitVec 6) (l : BitVec 2)
  /-- R142: FP32 fused multiply-add into vd. -/
  | ffmaV (d : BitVec 6) (a : BitVec 6) (b : BitVec 6) (l : BitVec 2)
  /-- R142: FP32 fused multiply-add with a scalar operand. -/
  | ffmaVs (d : BitVec 6) (a : BitVec 6) (b : BitVec 6) (l : BitVec 2)
  /-- R142: FP32 fused multiply-subtract. -/
  | ffmsV (d : BitVec 6) (a : BitVec 6) (b : BitVec 6) (l : BitVec 2)
  /-- R142: FP32 fused multiply-subtract with a scalar operand. -/
  | ffmsVs (d : BitVec 6) (a : BitVec 6) (b : BitVec 6) (l : BitVec 2)
  /-- R142: FP32 fused negated multiply-add. -/
  | fnmaV (d : BitVec 6) (a : BitVec 6) (b : BitVec 6) (l : BitVec 2)
  /-- R142: FP32 fused negated multiply-add with a scalar operand. -/
  | fnmaVs (d : BitVec 6) (a : BitVec 6) (b : BitVec 6) (l : BitVec 2)
  /-- R81: FP32 minimumNumber. -/
  | fminV (d : BitVec 6) (a : BitVec 6) (b : BitVec 6) (l : BitVec 2)
  /-- R81: FP32 minimumNumber with a scalar operand. -/
  | fminVs (d : BitVec 6) (a : BitVec 6) (b : BitVec 6) (l : BitVec 2)
  /-- R81: FP32 maximumNumber. -/
  | fmaxV (d : BitVec 6) (a : BitVec 6) (b : BitVec 6) (l : BitVec 2)
  /-- R81: FP32 maximumNumber with a scalar operand. -/
  | fmaxVs (d : BitVec 6) (a : BitVec 6) (b : BitVec 6) (l : BitVec 2)
  /-- R143: Clears bit 31 of the bit pattern. -/
  | fabs (d : BitVec 6) (a : BitVec 6)
  /-- R143: Inverts bit 31 of the bit pattern. -/
  | fneg (d : BitVec 6) (a : BitVec 6)
  /-- R143: Writes the one-hot class mask of an FP32 value. -/
  | fclass (d : BitVec 6) (a : BitVec 6)
  /-- R143: Rounds an FP32 value to an integral value under MODE.RM. -/
  | frnd (d : BitVec 6) (a : BitVec 6)
  /-- R144: Writes an FP compare result to a predicate. -/
  | fcmp (c : BitVec 4) (d : BitVec 3) (a : BitVec 6) (b : BitVec 6)
  /-- R145: Reciprocal, correctly rounded. -/
  | frcp (n : BitVec 4) (d : BitVec 6) (a : BitVec 6)
  /-- R145: Reciprocal square root, with fixed rounding. -/
  | frsq (n : BitVec 4) (d : BitVec 6) (a : BitVec 6)
  /-- R145: Square root, correctly rounded. -/
  | fsqrt (n : BitVec 4) (d : BitVec 6) (a : BitVec 6)
  /-- R145: Division, correctly rounded. -/
  | fdiv (n : BitVec 4) (d : BitVec 6) (a : BitVec 6) (b : BitVec 6)
  /-- R145: Computes 2^a with fixed rounding. -/
  | fexp2 (n : BitVec 4) (d : BitVec 6) (a : BitVec 6)
  /-- R145: Computes log2 a with fixed rounding. -/
  | flog2 (n : BitVec 4) (d : BitVec 6) (a : BitVec 6)
  /-- R145: Computes e^a with fixed rounding. -/
  | fexp (n : BitVec 4) (d : BitVec 6) (a : BitVec 6)
  /-- R145: Computes ln a with fixed rounding. -/
  | flog (n : BitVec 4) (d : BitVec 6) (a : BitVec 6)
  /-- R145: Computes sin(π·a) with fixed rounding. -/
  | fsinpi (n : BitVec 4) (d : BitVec 6) (a : BitVec 6)
  /-- R145: Computes cos(π·a) with fixed rounding. -/
  | fcospi (n : BitVec 4) (d : BitVec 6) (a : BitVec 6)
  /-- R149: Computes one Philox-4x32-10 block per lane into vd to vd+3. -/
  | rng (n : BitVec 4) (d : BitVec 6) (a : BitVec 6) (b : BitVec 6)
  /-- R172: Reversible FP add that pushes the exact error term. -/
  | rfadd (d : BitVec 6) (a : BitVec 6) (b : BitVec 6) (l : BitVec 2)
  /-- R171: Pops an FADD entry and restores the source operand. -/
  | unfadd (d : BitVec 6) (a : BitVec 6) (b : BitVec 6)
  /-- R172: Reversible FP multiply that pushes the exact error term. -/
  | rfmul (d : BitVec 6) (a : BitVec 6) (b : BitVec 6) (l : BitVec 2)
  /-- R171: Pops an FMUL entry and restores the multiplicand. -/
  | unfmul (d : BitVec 6) (a : BitVec 6) (b : BitVec 6)
  /-- R172: Reversible fused multiply-add that pushes the exact error term. -/
  | rfma (d : BitVec 6) (a : BitVec 6) (b : BitVec 6) (l : BitVec 2)
  /-- R171: Pops an FMA entry and restores the addend. -/
  | unfma (d : BitVec 6) (a : BitVec 6) (b : BitVec 6)
  /-- R172: Reversible narrowing that pushes the residual. -/
  | rnarrow (d : BitVec 6) (a : BitVec 6)
  /-- R171: Pops a NARROW entry and restores the FP32 source. -/
  | unnarrow (d : BitVec 6) (a : BitVec 6)
  /-- R173: Reversible shift right that pushes the bits shifted out. -/
  | rshr (d : BitVec 6) (a : BitVec 6) (b : BitVec 6)
  /-- R173: Pops a SHR entry and restores the shifted value. -/
  | unshr (d : BitVec 6) (a : BitVec 6) (b : BitVec 6)
  /-- R173: Reversible multiply by an odd scalar modulo 2^32. -/
  | rimul (d : BitVec 6) (a : BitVec 6) (b : BitVec 6) (l : BitVec 2)
  /-- R173: Pops an IMUL entry and multiplies by the inverse of the odd scalar. -/
  | unimul (d : BitVec 6) (a : BitVec 6) (b : BitVec 6)
  /-- R173: Reversible add modulo 2^32. -/
  | riadd (d : BitVec 6) (a : BitVec 6) (b : BitVec 6) (l : BitVec 2)
  /-- R173: Pops an IADD entry and subtracts the kept operand. -/
  | unniadd (d : BitVec 6) (a : BitVec 6) (b : BitVec 6)
  /-- R173: Reversible max with zero that pushes the source. -/
  | rmax0 (d : BitVec 6) (a : BitVec 6)
  /-- R173: Pops a MAX0 entry and writes the kept source. -/
  | unmax0 (d : BitVec 6) (a : BitVec 6)
  /-- R174: Pushes a MARK entry carrying sA[26:0] in every active lane. -/
  | rsmark (a : BitVec 9)
  /-- R174: Pops a matching MARK entry. -/
  | unmark (a : BitVec 9)
  /-- R175: Removes every entry down to and including the nearest matching mark. -/
  | rsdrop (a : BitVec 9)
  /-- R176: Writes the greatest remainder-stack depth over the gang's lanes. -/
  | rsdep (d : BitVec 9)
  /-- R179: Vector byte load, zero-extended, in the space that H selects. -/
  | ldB (n : BitVec 4) (d : BitVec 6) (a : BitVec 6) (b : BitVec 6) (h : BitVec 2)
  /-- R179: Vector byte load, sign-extended. -/
  | ldBs (n : BitVec 4) (d : BitVec 6) (a : BitVec 6) (b : BitVec 6) (h : BitVec 2)
  /-- R179: Vector half load, zero-extended. -/
  | ldH (n : BitVec 4) (d : BitVec 6) (a : BitVec 6) (b : BitVec 6) (h : BitVec 2)
  /-- R179: Vector half load, sign-extended. -/
  | ldHs (n : BitVec 4) (d : BitVec 6) (a : BitVec 6) (b : BitVec 6) (h : BitVec 2)
  /-- R179: Vector word load. -/
  | ldW (n : BitVec 4) (d : BitVec 6) (a : BitVec 6) (b : BitVec 6) (h : BitVec 2)
  /-- R183: Acquire word load read at home, self-invalidating older L1 lines. -/
  | ldAcqW (n : BitVec 4) (d : BitVec 6) (a : BitVec 6) (b : BitVec 6)
  /-- R179: Vector doubleword load into a register pair. -/
  | ldD (n : BitVec 4) (d : BitVec 6) (a : BitVec 6) (b : BitVec 6) (h : BitVec 2)
  /-- R179: Vector quadword load into four registers. -/
  | ldQ (n : BitVec 4) (d : BitVec 6) (a : BitVec 6) (b : BitVec 6) (h : BitVec 2)
  /-- R181: Vector byte store. -/
  | stB (d : BitVec 6) (a : BitVec 6) (b : BitVec 6) (h : BitVec 2)
  /-- R181: Vector half store. -/
  | stH (d : BitVec 6) (a : BitVec 6) (b : BitVec 6) (h : BitVec 2)
  /-- R181: Vector word store. -/
  | stW (d : BitVec 6) (a : BitVec 6) (b : BitVec 6) (h : BitVec 2)
  /-- R184: Release fence at the widest scope of the lanes' addresses, followed by a word store. -/
  | stRelW (d : BitVec 6) (a : BitVec 6) (b : BitVec 6)
  /-- R181: Vector doubleword store. -/
  | stD (d : BitVec 6) (a : BitVec 6) (b : BitVec 6) (h : BitVec 2)
  /-- R181: Vector quadword store. -/
  | stQ (d : BitVec 6) (a : BitVec 6) (b : BitVec 6) (h : BitVec 2)
  /-- R179: Scalar word load. -/
  | sldW (n : BitVec 4) (d : BitVec 6) (a : BitVec 6) (b : BitVec 6) (h : BitVec 2)
  /-- R183: Scalar acquire word load read at home. -/
  | sldAcq (n : BitVec 4) (d : BitVec 6) (a : BitVec 6) (b : BitVec 6)
  /-- R185: At SUP = 1, an untranslated physical word load with generation check. -/
  | sldWPhys (n : BitVec 4) (d : BitVec 6) (a : BitVec 6) (b : BitVec 6)
  /-- R179: Scalar doubleword load. -/
  | sldD (n : BitVec 4) (d : BitVec 6) (a : BitVec 6) (b : BitVec 6) (h : BitVec 2)
  /-- R181: Scalar word store. -/
  | sstW (d : BitVec 6) (a : BitVec 6) (b : BitVec 6) (h : BitVec 2)
  /-- R184: Scalar release fence followed by a word store. -/
  | sstRel (d : BitVec 6) (a : BitVec 6) (b : BitVec 6)
  /-- R185: At SUP = 1, an untranslated physical word store with generation check. -/
  | sstWPhys (d : BitVec 6) (a : BitVec 6) (b : BitVec 6)
  /-- R181: Scalar doubleword store. -/
  | sstD (d : BitVec 6) (a : BitVec 6) (b : BitVec 6) (h : BitVec 2)
  /-- R186: Per-lane atomic read-modify-write at the word's home, optionally returning the old value. -/
  | atom (n : BitVec 4) (d : BitVec 6) (a : BitVec 6) (r : BitVec 1) (o : BitVec 4) (h : BitVec 2)
  /-- R186: Scalar atomic read-modify-write at the word's home. -/
  | satom (n : BitVec 4) (d : BitVec 6) (r : BitVec 1) (o : BitVec 4) (b : BitVec 6) (h : BitVec 2)
  /-- R188: Waits until earlier stores are committed or completed, and GTC has reached HORIZON, at the scope. -/
  | fenceRel (s : BitVec 3)
  /-- R188: Waits for earlier loads, then self-invalidates L1 lines granted before T. -/
  | fenceAcq (s : BitVec 3)
  /-- R188: Performs the release wait and then the acquire action. -/
  | fenceAr (s : BitVec 3)
  /-- R190: Reads the word at home and parks the group on a watch while it equals sA. -/
  | wata (d : BitVec 6) (a : BitVec 6) (b : BitVec 6)
  /-- R192: Sends a wake to the home of a line behind the gang's earlier stores to it. -/
  | wake (b : BitVec 6)
  /-- R193: Makes each lane's line a zero line, as a store of zeros. -/
  | zfill (a : BitVec 6) (b : BitVec 6)
  /-- R194: Prefetches each lane's line into L1. -/
  | pf (a : BitVec 6) (b : BitVec 6)
  /-- R194: Prefetches each lane's line into L2 only. -/
  | pfL2 (a : BitVec 6) (b : BitVec 6)
  /-- R207: Per-lane copy of 4-byte elements through the copy engine. -/
  | cpy4 (n : BitVec 4) (g : BitVec 3) (p : BitVec 9) (d : BitVec 6)
  /-- R207: Per-lane copy of 8-byte elements. -/
  | cpy8 (n : BitVec 4) (g : BitVec 3) (p : BitVec 9) (d : BitVec 6)
  /-- R207: Per-lane copy of 16-byte elements. -/
  | cpy16 (n : BitVec 4) (g : BitVec 3) (p : BitVec 9) (d : BitVec 6)
  /-- R208: Strided block copy of rows. -/
  | bcpy (n : BitVec 4) (g : BitVec 3) (p : BitVec 9) (d : BitVec 6)
  /-- R209: Builds the unfolded convolution patch matrix along one image row. -/
  | wcpy (n : BitVec 4) (g : BitVec 3) (p : BitVec 9) (d : BitVec 6)
  /-- R210: Copies bytes to every target of a banner. -/
  | mcast (n : BitVec 4) (g : BitVec 3) (p : BitVec 9) (d : BitVec 6)
  /-- R211: Gathers indexed table elements to a destination. -/
  | gath (n : BitVec 4) (g : BitVec 3) (p : BitVec 9) (d : BitVec 6)
  /-- R212: Writes zeros over a range, making whole lines zero lines. -/
  | czero (n : BitVec 4) (g : BitVec 3) (p : BitVec 9) (d : BitVec 6)
  /-- R216: Loads a weight tile from the scratchpad and sets the gang's weight binding. -/
  | wldS (n : BitVec 4) (g : BitVec 3) (p : BitVec 9) (d : BitVec 6)
  /-- R216: Loads a weight tile from global memory and sets the gang's weight binding. -/
  | wldG (n : BitVec 4) (g : BitVec 3) (p : BitVec 9) (d : BitVec 6)
  /-- R217: One matrix K-step from vector-register activations into accumulator rows. -/
  | mma (n : BitVec 4) (g : BitVec 3) (p : BitVec 9) (d : BitVec 6)
  /-- R218: Runs T matrix steps from memory operands. -/
  | mloop (n : BitVec 4) (g : BitVec 3) (p : BitVec 9) (d : BitVec 6)
  /-- R219: Runs a quantised linear recurrence for T steps over M streams. -/
  | mrec (n : BitVec 4) (g : BitVec 3) (p : BitVec 9) (d : BitVec 6)
  /-- R220: Writes accumulator rows to memory. -/
  | accrd (n : BitVec 4) (g : BitVec 3) (p : BitVec 9) (d : BitVec 6)
  /-- R220: Reads accumulator rows from memory. -/
  | accwr (n : BitVec 4) (g : BitVec 3) (p : BitVec 9) (d : BitVec 6)
  /-- R220: Zeros accumulator rows. -/
  | accz (n : BitVec 4) (g : BitVec 3) (p : BitVec 9) (d : BitVec 6)
  /-- R221: Reads a bank's matrix progress word, optionally clearing NAN and INF. -/
  | mstat (n : BitVec 4) (p : BitVec 9) (d : BitVec 6)
  /-- R223: One all-reduce round over a communicator. -/
  | collAr (n : BitVec 4) (g : BitVec 3) (p : BitVec 9) (d : BitVec 6)
  /-- R223: One reduce-scatter round over a communicator. -/
  | collRs (n : BitVec 4) (g : BitVec 3) (p : BitVec 9) (d : BitVec 6)
  /-- R223: One all-gather round over a communicator. -/
  | collAg (n : BitVec 4) (g : BitVec 3) (p : BitVec 9) (d : BitVec 6)
  /-- R124: Resolves pennant k to true or false, deciding held engine commands. -/
  | pnset (k : BitVec 9) (a : BitVec 9)
  /-- R124: Returns pennant k to unset. -/
  | pnclr (k : BitVec 9)
  /-- R11: A write arriving at a tile window is checked against generations and applied at the gang's next boundary, or discarded and counted in DROP. -/
  | windowWriteArrival (addr : Dword) (data : Word)
  /-- R8: A legal host write to CCLK stops issue, drains the lanes and holds the engines for relock; an illegal one is discarded. -/
  | cclkWrite (cluster : Nat) (value : Word)
  /-- R344: Host write of a cluster power word sets BASE and SLEW; a rise of the target cadence applies at once. -/
  | clusterPowerWrite (cluster : Nat) (value : Word)
  /-- R346: Host write of a slack record is checked, and the record is enabled or disabled. -/
  | slackRecordWrite (ctx : Nat) (ctl hi lo notch : Word)
  /-- R348: A context sees a round of its communicator, of this slack: AVG is updated and the notch may move by one. -/
  | slackRound (ctx slack : Nat)
  /-- R316: Every lane of a training link is trained; the link goes UP and held traffic flows. -/
  | linkTrained (link : Nat)
  /-- R316: 2 ms into training with at least half the lanes trained, the link goes DEGRADED. -/
  | linkTrainDegraded (link : Nat)
  /-- R316: 10 ms into training with fewer than half the lanes trained, the link goes DOWN and traffic in flight is lost. -/
  | linkTrainTimeout (link : Nat)
  /-- R316: 1 ms after entering DOWN, or when reset ends, the link starts training. -/
  | linkDownRetry (link : Nat)
  /-- R316: A lane of an UP link is lost and the link becomes DEGRADED; R317: a DEGRADED link loses a further one. -/
  | linkLaneLost (link : Nat)
  /-- R316: A degraded link's lost lanes are retrained and it returns to UP; R317: with only some of them, LANES says how many are usable. -/
  | linkLanesRetrained (link : Nat)
  /-- R316: Fewer than half the lanes are usable; the link enters TRAINING and holds traffic. -/
  | linkLanesBelowHalf (link : Nat)
  /-- R318: A host load, store or atomic arrives over GortyLink and performs one home action. -/
  | hostAccess (kind : HostAccess)
  /-- R323: A domain request arrives at device D and is checked, translated and performed as one home action. -/
  | domainRequest (request : DomainRequest)
  /-- R325: A transport frame arrives over a link of Table 18.1 and is delivered in order to the collective engine. -/
  | ethFrameReceive (port : Nat) (frame : EthFrame)
  /-- R325: A frame unacknowledged for 50 µs is retransmitted. -/
  | ethRetransmitTimeout (index : Nat)
  /-- R325: After 100 ms without acknowledgement, the peer is lost and dependent collectives complete with 0x09. -/
  | ethPeerLost (peer : Nat)
  /-- R326: An IEEE 1588 message adjusts GTC across domains. -/
  | ptpSync (gtc : Dword)
  /-- R247: A host write to a record or configuration field that has no behaviour of its own stores the value. -/
  | registerWrite (addr : Nat) (value : Dword) (width : Nat)
  /-- R96: A word whose primary opcode is 0x00 or reserved reaches issue and raises illegal-instruction (0x01) at its own PC before any lane starts. -/
  | illegalInstruction (word : Word)
  /-- R111: Does nothing except close the slice's open lookahead windows. -/
  | nop
  /-- R111: Decrements CDEPTH and jumps to LINK. -/
  | ret
  /-- R45: Ends every slice of the issue group once its earlier instructions have committed; the gang leaves its hand-on chain. -/
  | exit
  /-- R120: Leaves the handler, restoring slice PCs, groups, MODE and flags from the trap registers. -/
  | tret
  /-- R120: Leaves the handler like tret, but steps the trapping group past the trapped instruction. -/
  | tretSkip
  /-- R121: Ends the executing gang, as an exit of every live slice. -/
  | tkillGang
  /-- R121: Stops every other gang of the grove, then exits all of the grove's gangs in ascending index. -/
  | tkillGrove
  /-- R122: Posts a record to the fault queue and parks the gang until the host wakes or kills it. -/
  | tpark
  /-- R115: Requests gear 0 for the tile, switching rails after the tile's issued lane instructions have drained. -/
  | gear0
  /-- R115: Requests gear 1 for the tile; the request is only recorded while the gear cap stands. -/
  | gear1
  /-- R115: After the drain and the 400 gear-1 lane-cycle rail change, sets GEAR, clears switching and resumes issue. Subject: unit is the tile. -/
  | gearSwitchComplete
  /-- R127: In a DET launch, drains the gang's held ordered atomics and completes once the drain is done. -/
  | flush
  /-- R161: After uncommitted pushes commit, moves the oldest on-chip entries of every lane into a new spill block. Subject: unit is the tile, slot is the slot, part is the slice. -/
  | remainderSpill
  /-- R162: After uncommitted pops commit, brings the lanes' top-block slot entries back on chip and releases empty blocks. Subject: unit is the tile, slot is the slot, part is the slice. -/
  | remainderRefill
  /-- R188: A fence's wait ends when its stores' W have returned and GTC reaches HORIZON (plus 8 at domain scope); the slice issues again. Subject: unit is the tile, slot is the slot, part is the slice. -/
  | fenceWaitComplete
  /-- R190: A write with W > t, or a wake, to the watched line ends the watch and readies the parked group. Subject: unit is the tile, slot is the slot, part is the slice. -/
  | wataUnpark
  /-- R190: GTC reaches t + sD and the watch ends. Subject: unit is the tile, slot is the slot, part is the slice. -/
  | wataBudgetExpiry
  /-- R29: A hand-on instruction waiting for its FIFO issues when an entry is delivered. Subject: unit is the tile, slot is the slot, part is the slice. -/
  | handonWaitResume
  /-- R197: Each engine lane cycle, the copy engine starts the next 64 B line of the next ready queue in its rotation. Subject: unit is the cluster. -/
  | copyLineStart
  /-- R203: After all units are applied and GTC exceeds their greatest W, writes the status word and decrements the class counter. Subject: unit is the tile, slot is the slot, part is the cls. -/
  | copyComplete
  /-- R215: An MTX queue head posts to the cluster reservation table once an entry is free. Subject: unit is the tile, slot is the slot. -/
  | mtxReservationPost
  /-- R215: The engine grants the next pass of a round and runs up to 64 steps, reloading weight latches if needed. Subject: unit is the cluster. -/
  | matrixPassGrant
  /-- R222: A pass ends; a finished matrix command writes its status word and decrements MTX. Subject: unit is the tile, slot is the slot. -/
  | matrixPassComplete
  /-- R282: At each aligned 64-fc window, the cluster's MTX acceptance limit moves by MSLEW. Subject: unit is the cluster. -/
  | mtxSlewWindow
  /-- R225: The ranks exchange their parameters before any data moves; a mismatch completes every rank with 0x08. Subject: unit is the tile, slot is the slot. -/
  | collExchange
  /-- R225: A rank's collective completes when its receive buffer holds the fixed-tree result. Subject: unit is the tile, slot is the slot. -/
  | collComplete
  /-- R181: A store line reaches its home, is serialised and receives its completion time W. Subject: unit is the tile, slot is the seq. -/
  | storeHomeArrival
  /-- R181: At GTC = W, the home applies the store's bytes. Subject: unit is the line. -/
  | storeApply
  /-- R181: W returns to the tile; the bytes leave the store queue and HORIZON takes up W. Subject: unit is the tile, slot is the seq. -/
  | storeCompletionReturn
  /-- R235: GTC reaches a listed W and the tile drops the completion-list entry. Subject: unit is the tile, slot is the line. -/
  | completionListExpiry
  /-- R186: An atomic executes at its word's home, serialised, and receives its W. Subject: unit is the tile, slot is the seq. -/
  | atomicHome
  /-- R233: A load request reads the line at home at time t and grants a lease. Subject: unit is the tile, slot is the slot, part is the id, item is the line. -/
  | loadHomeRead
  /-- R179: The last line of a load returns and the load commits all lanes at once. Subject: unit is the tile, slot is the slot, part is the id. -/
  | loadReturn
  /-- R233: An L1 copy stops answering loads once GTC passes its lease expiry. Subject: unit is the tile, slot is the line. -/
  | l1LeaseExpiry
  /-- R390: A missed instruction line arrives from home into the cluster instruction cache and the group becomes ready. Subject: unit is the tile, slot is the slot, part is the slice. -/
  | ifetchMissFill
  /-- R303: The die walker reads one entry per level and ends with a translation or a fault. Subject: unit is the index. -/
  | pageWalk
  /-- R306: On the first write to a ZH page, writes zero lines, clears ZH by compare-and-exchange and removes the old translations. Subject: unit is the index. -/
  | zeroPageClear
  /-- R331: Applies a flush point's held ordered atomics in key order; done when all W have returned and GTC has passed them. Subject: unit is the index. -/
  | detDrain
  /-- R333: When the tile's ordered-atomic buffer would overflow, drains the whole buffer before the atomic issues. Subject: unit is the tile. -/
  | forcedDrain
  /-- R293: After its release wait, the gang's arrival is registered at the banner. Subject: unit is the tile, slot is the slot. -/
  | barrierArrivalRegister
  /-- R296: Waiting gangs become ready by T + 40 ticks in gear 1, or by T + 160 ticks otherwise. Subject: unit is the tile, slot is the slot. -/
  | barrierRelease
  /-- R297: A gear-1 tile whose context gangs all wait switches to gear 0 and is marked sunk. Subject: unit is the tile. -/
  | tileSink
  /-- R298: When every unarrived live member stands on a gear-0 tile, the member tiles that were sunk switch back to gear 1. Subject: unit is the launch, slot is the banner. -/
  | bannerLift
  /-- R277: The dispatcher places the next grove on a fitting tile: scratchpad, slots, reset state, gear hint, self-invalidation. Subject: unit is the launch. -/
  | grovePlacement
  /-- R278: A pending gang takes a free active position on a row. Subject: unit is the tile, slot is the slot. -/
  | gangActivate
  /-- R280: An active gang whose every group waits is exchanged with the chosen pending gang in 16 fc. Subject: unit is the tile, slot is the out, part is the inc. -/
  | gangExchange
  /-- R280: An anchor gang pending for 1,024 fc displaces the youngest active gang of no anchor grove. Subject: unit is the tile. -/
  | forcedExchange
  /-- R285: After the last gang exits, drains held atomics, advances the granule counters and frees the slots. Subject: unit is the tile, slot is the launch, part is the grove. -/
  | groveRetire
  /-- R273: Once every after-word is satisfied, reads the banner table and moves the launch to ADMITTED. Subject: unit is the launch. -/
  | launchAdmission
  /-- R273: Every 1 µs, rereads a host-aperture after-word, or one whose watch table was full. Subject: unit is the launch, slot is the index. -/
  | afterWordPoll
  /-- R275: When the launch's stores, commands and drains are done, writes the completion word and enters the final state. Subject: unit is the launch. -/
  | launchDrainComplete
  /-- R253: Checks the context record, takes the tiles and banks, and places the launcher gangs. Subject: unit is the ctx. -/
  | ctxStart
  /-- R251: Stops dispatch, gangs and engine commands, drains the store queues and writes the save area. Subject: unit is the ctx. -/
  | ctxStop
  /-- R251: The save is written; SAVED, the record fields are written and the tiles and banks are freed, or FAILED on a memory error. Subject: unit is the ctx. -/
  | ctxSaveComplete
  /-- R252: Checks holders and the digest, retakes the resources and restores the saved state. Subject: unit is the ctx. -/
  | ctxResume
  /-- R252: The restore ends and issue restarts at the saved points. Subject: unit is the ctx. -/
  | ctxRestoreComplete
  /-- R250: Stops every gang and engine command, discards queued work, and moves the live launches to killed. Subject: unit is the ctx. -/
  | ctxKill
  /-- R248: When every gang has ended and the engines are idle, the context becomes ENDED and frees its tiles and banks. Subject: unit is the ctx. -/
  | ctxKillComplete
  /-- R256: Applies CTL priority, share, lease and gear cap. Subject: unit is the ctx. -/
  | ctxUpdate
  /-- R248: Returns an ENDED or FAILED context to CREATED. Subject: unit is the ctx. -/
  | ctxRelease
  /-- R312: Once a slot is free, writes a fault record, advances PUT and raises the interrupt. Subject: unit is the ctx. -/
  | faultQueuePost
  /-- R313: Host RESUME request: the gang performs tret or resumes, or the stalled engine unit retries. Subject: unit is the ctx. -/
  | fqResume
  /-- R313: Host DECLINE request: kills the grove, or completes the stalled command with 0x06. Subject: unit is the ctx. -/
  | fqDecline
  /-- R314: Host INVALIDATE request: removes the translations as tlbinv does. Subject: unit is the ctx. -/
  | fqInvalidate
  /-- R314: After the removal, and the stores and units translated through it, complete, writes ACK. Subject: unit is the ctx. -/
  | fqInvalidateAck
  /-- R313: Host KILL request: ends the record's grove, marks its launch killed and discards the stalled queue. Subject: unit is the ctx. -/
  | fqKill
  /-- R8: The cluster relocks and resumes every tile where it stopped. Subject: unit is the cluster. -/
  | cclkRelockComplete
  /-- R345: Each aligned 64-fc window, CAD falls by 1 toward the target. Subject: unit is the cluster. -/
  | cadenceStep
  /-- R341: After 2,048 consecutive idle gear-0 lane cycles, the tile raises the dormancy request. Subject: unit is the tile. -/
  | dormantRequest
  /-- R342: At the seal cycle, 8 lc after the request, the tile enters retention unless a wake message arrived. Subject: unit is the tile. -/
  | dormantSeal
  /-- R342: A wake message on a dormant tile sets the latch and the exit begins. Subject: unit is the tile. -/
  | dormantWake
  /-- R342: After 256 gear-0 lane cycles, the tile is ACTIVE and the latched messages act in arrival order. Subject: unit is the tile. -/
  | wakeComplete
  /-- R337: A full group of four entries is written as a log line, then PUT is released. Subject: unit is the tile. -/
  | logLineWrite
  /-- R337: 10 µs after a group's first entry, the partial group is written. Subject: unit is the tile. -/
  | logGroupTimeout
  /-- R350: Boot ROM trains links, verifies and measures the firmware, then the firmware derives identity and writes the boot block. -/
  | deviceReset
  /-- R353: Mailbox EXTEND request extends MR(IDX) with ARG. -/
  | mbExtend
  /-- R354: Mailbox REPORT request captures the MRs and starts a signed report to DEST. -/
  | mbReport
  /-- R353: The signed report is written and ACK is released. -/
  | reportComplete
  /-- R319: The host acknowledges over GortyLink a device store to the host aperture once it has applied the store, which can end a fence.rel.sys wait or a launch drain. Subject: unit is the tile, slot is the slot. -/
  | hostStoreAcknowledge
  /-- R98: The result of a non-memory long-latency instruction (special function, rng, cross-lane, mstat) becomes available, so it writes its destination if the lookahead window has already ended and releases scoreboard waiters. Subject: unit is the tile, slot is the slot, part is the id. -/
  | longLatencyResultReturn
  deriving DecidableEq, Repr

end Sys2Proof
end

