-- ==== Sys2Proof/WellFormed.lean ====
section
/-!
DEFINITION. Which instructions are well formed: the rules of R96 that depend on the word alone (links, register pairs and
quads, selectors, special-register numbers). The decoder refuses every word whose instruction is not.
-/

namespace Sys2Proof

/-- Width in bits of a special register of Table 3.7 by its number; `none` for a number the table does not hold (R59). -/
def srWidth (n : Nat) : Option Nat :=
  if n ≤ 3 then some 32
  else if n ≤ 5 then some 64
  else if n < 0x10 then none
  else if n ≤ 0x21 then some (if n = 0x12 ∨ n = 0x14 ∨ n = 0x15 then 64 else 32)
  else if n < 0x30 then none
  else if n = 0x30 then some 64
  else if n ≤ 0x39 then some 32
  else if n < 0x100 then none
  else if n = 0x101 ∨ n = 0x103 ∨ n = 0x104 ∨ n = 0x105 then some 32
  else if n ≤ 0x10F then some 64
  else none

/-- R59 checks 1 and 2: the number is in Table 3.7, and a 64-bit register has an even D. -/
def srRule (d : BitVec 9) (s : BitVec 15) : Bool :=
  match srWidth s.toNat with
  | none => false
  | some w => w == 32 || d.toNat % 2 == 0

/-- A register number divisible by `n`. -/
def multipleOf {k : Nat} (n : Nat) (r : BitVec k) : Bool := r.toNat % n == 0

/-- R22, R95: in the VS format a link can only replace A. -/
def vsLink (l : BitVec 2) : Bool := l.toNat ≤ 1

/-- R90, R94: an atomic with `.ret` carries a lookahead; one without has X zero. The operation is one of Table 5.6, and the
data register of `cas` is even. -/
def atomRule (n : BitVec 4) (d : BitVec 6) (r : BitVec 1) (o : BitVec 4) : Bool :=
  o.toNat ≤ 10 && (r == 1 || n == 0) && (o != 9 || multipleOf 2 d)

/-- Rows that are events rather than words. The illegal instruction stands for a word that no row holds. -/
def Instr.isEvent : Instr → Bool
  | .gearSwitchComplete => true
  | .remainderSpill => true
  | .remainderRefill => true
  | .fenceWaitComplete => true
  | .wataUnpark => true
  | .wataBudgetExpiry => true
  | .handonWaitResume => true
  | .windowWriteArrival _ _ => true
  | .copyLineStart => true
  | .copyComplete => true
  | .mtxReservationPost => true
  | .matrixPassGrant => true
  | .matrixPassComplete => true
  | .mtxSlewWindow => true
  | .collExchange => true
  | .collComplete => true
  | .storeHomeArrival => true
  | .storeApply => true
  | .storeCompletionReturn => true
  | .completionListExpiry => true
  | .atomicHome => true
  | .loadHomeRead => true
  | .loadReturn => true
  | .l1LeaseExpiry => true
  | .ifetchMissFill => true
  | .pageWalk => true
  | .zeroPageClear => true
  | .detDrain => true
  | .forcedDrain => true
  | .barrierArrivalRegister => true
  | .barrierRelease => true
  | .tileSink => true
  | .bannerLift => true
  | .grovePlacement => true
  | .gangActivate => true
  | .gangExchange => true
  | .forcedExchange => true
  | .groveRetire => true
  | .launchAdmission => true
  | .afterWordPoll => true
  | .launchDrainComplete => true
  | .ctxStart => true
  | .ctxStop => true
  | .ctxSaveComplete => true
  | .ctxResume => true
  | .ctxRestoreComplete => true
  | .ctxKill => true
  | .ctxKillComplete => true
  | .ctxUpdate => true
  | .ctxRelease => true
  | .faultQueuePost => true
  | .fqResume => true
  | .fqDecline => true
  | .fqInvalidate => true
  | .fqInvalidateAck => true
  | .fqKill => true
  | .cclkWrite _ _ => true
  | .cclkRelockComplete => true
  | .clusterPowerWrite _ _ => true
  | .cadenceStep => true
  | .slackRecordWrite _ _ _ _ _ => true
  | .slackRound _ _ => true
  | .dormantRequest => true
  | .dormantSeal => true
  | .dormantWake => true
  | .wakeComplete => true
  | .logLineWrite => true
  | .logGroupTimeout => true
  | .deviceReset => true
  | .mbExtend => true
  | .mbReport => true
  | .reportComplete => true
  | .linkTrained _ => true
  | .linkTrainDegraded _ => true
  | .linkTrainTimeout _ => true
  | .linkDownRetry _ => true
  | .linkLaneLost _ => true
  | .linkLanesRetrained _ => true
  | .linkLanesBelowHalf _ => true
  | .hostAccess _ => true
  | .domainRequest _ => true
  | .ethFrameReceive _ _ => true
  | .ethRetransmitTimeout _ => true
  | .ethPeerLost _ => true
  | .ptpSync _ => true
  | .registerWrite _ _ _ => true
  | .illegalInstruction _ => true
  | .hostStoreAcknowledge => true
  | .longLatencyResultReturn => true
  | _ => false

/-- R96: the checks that depend on the word alone. -/
def Instr.wellFormed : Instr → Bool
  | .bCond c _ => c != 15
  | .jmp a => multipleOf 2 a
  | .rdsr d s => srRule d s
  | .wrsr d s => srRule d s
  | .lnch _ a => multipleOf 2 a
  | .tlbinv a => multipleOf 2 a
  | .selCond _ _ c => c.toNat ≤ 13
  | .iaddVs _ _ _ l => vsLink l
  | .isubVs _ _ _ l => vsLink l
  | .imulVs _ _ _ l => vsLink l
  | .imulhVs _ _ _ l => vsLink l
  | .imulhNVs _ _ _ l => vsLink l
  | .imadVs _ _ _ l => vsLink l
  | .iandVs _ _ _ l => vsLink l
  | .iorVs _ _ _ l => vsLink l
  | .ixorVs _ _ _ l => vsLink l
  | .iandnVs _ _ _ l => vsLink l
  | .ishlVs _ _ _ l => vsLink l
  | .ishrVs _ _ _ l => vsLink l
  | .israVs _ _ _ l => vsLink l
  | .iminVs _ _ _ l => vsLink l
  | .imaxVs _ _ _ l => vsLink l
  | .iminNVs _ _ _ l => vsLink l
  | .imaxNVs _ _ _ l => vsLink l
  | .iselVs _ _ _ _ l => vsLink l
  | .icmp c _ _ _ => c.toNat ≤ 9
  | .cvt t _ _ f => t.toNat ≤ 4 && f.toNat ≤ 4 && (t == 2) != (f == 2)
  | .faddVs _ _ _ l => vsLink l
  | .fsubVs _ _ _ l => vsLink l
  | .fmulVs _ _ _ l => vsLink l
  | .ffmaVs _ _ _ l => vsLink l
  | .ffmsVs _ _ _ l => vsLink l
  | .fnmaVs _ _ _ l => vsLink l
  | .fminVs _ _ _ l => vsLink l
  | .fmaxVs _ _ _ l => vsLink l
  | .fcmp c _ _ _ => c.toNat ≤ 7
  | .rng _ d a b => multipleOf 4 d && multipleOf 2 a && multipleOf 2 b
  | .rimul _ _ _ l => vsLink l
  | .ldB _ _ _ b h => multipleOf 2 b && h != 2
  | .ldBs _ _ _ b h => multipleOf 2 b && h != 2
  | .ldH _ _ _ b h => multipleOf 2 b && h != 2
  | .ldHs _ _ _ b h => multipleOf 2 b && h != 2
  | .ldW _ _ _ b h => multipleOf 2 b && h != 2
  | .ldAcqW _ _ _ b => multipleOf 2 b
  | .ldD _ d _ b h => multipleOf 2 d && multipleOf 2 b && h != 2
  | .ldQ _ d _ b h => multipleOf 4 d && multipleOf 2 b && h != 2
  | .stB _ _ b h => multipleOf 2 b && h != 2
  | .stH _ _ b h => multipleOf 2 b && h != 2
  | .stW _ _ b h => multipleOf 2 b && h != 2
  | .stRelW _ _ b => multipleOf 2 b
  | .stD d _ b h => multipleOf 2 d && multipleOf 2 b && h != 2
  | .stQ d _ b h => multipleOf 4 d && multipleOf 2 b && h != 2
  | .sldW _ _ _ b h => multipleOf 2 b && h == 0
  | .sldAcq _ _ _ b => multipleOf 2 b
  | .sldWPhys _ _ _ b => multipleOf 2 b
  | .sldD _ d _ b h => multipleOf 2 d && multipleOf 2 b && h.toNat ≤ 1
  | .sstW _ _ b h => multipleOf 2 b && h == 0
  | .sstRel _ _ b => multipleOf 2 b
  | .sstWPhys _ _ b => multipleOf 2 b
  | .sstD d _ b h => multipleOf 2 d && multipleOf 2 b && h.toNat ≤ 1
  | .atom n d a r o _ => multipleOf 2 a && atomRule n d r o
  | .satom n d r o b _ => multipleOf 2 b && atomRule n d r o
  | .fenceRel s => s.toNat ≤ 4
  | .fenceAcq s => s.toNat ≤ 4
  | .fenceAr s => s.toNat ≤ 4
  | .wata _ _ b => multipleOf 2 b
  | .wake b => multipleOf 2 b
  | .zfill _ b => multipleOf 2 b
  | .pf _ b => multipleOf 2 b
  | .pfL2 _ b => multipleOf 2 b
  | .cpy4 _ _ p _ => multipleOf 2 p
  | .cpy8 _ _ p _ => multipleOf 2 p
  | .cpy16 _ _ p _ => multipleOf 2 p
  | .bcpy _ _ p _ => multipleOf 2 p
  | .wcpy _ _ p _ => multipleOf 2 p
  | .mcast _ _ p _ => multipleOf 2 p
  | .gath _ _ p _ => multipleOf 2 p
  | .czero _ _ p _ => multipleOf 2 p
  | .wldS _ _ p _ => multipleOf 2 p
  | .wldG _ _ p _ => multipleOf 2 p
  | .mma _ _ p _ => multipleOf 2 p
  | .mloop _ _ p _ => multipleOf 2 p
  | .mrec _ _ p _ => multipleOf 2 p
  | .accrd _ _ p _ => multipleOf 2 p
  | .accwr _ _ p _ => multipleOf 2 p
  | .accz _ _ p _ => multipleOf 2 p
  | .mstat _ p d => multipleOf 2 p && multipleOf 2 d
  | .collAr _ _ p _ => multipleOf 2 p
  | .collRs _ _ p _ => multipleOf 2 p
  | .collAg _ _ p _ => multipleOf 2 p
  | .pnset k _ => 1 ≤ k.toNat && k.toNat ≤ 7
  | .pnclr k => 1 ≤ k.toNat && k.toNat ≤ 7
  | _ => true

end Sys2Proof
end

