-- ==== Sys2Proof/Decode.lean ====
section
/-!
DEFINITION. The decoder, total on every word and rejecting by name, and after it the encoder, both from the encoding
tables of spec/05_encoding.md (Tables 5.1 to 5.6) as the operation table lists them.
-/

namespace Sys2Proof

/-- Why a word is not an instruction (R96). -/
inductive DecodeError where
  /-- The primary opcode is 0x00 or reserved in Table 5.3. -/
  | reservedOpcode
  /-- A selector holds a reserved value, or a field that must be zero is not. -/
  | reservedField
  /-- A link, register, selector or special-register rule is broken (R22, R49, R55, R90, R93-R95, R59 checks 1 and 2). -/
  | brokenRule
  deriving DecidableEq, Repr

/-- The bits `[lo + n - 1 : lo]` of a word. -/
def field (w : Word) (lo n : Nat) : BitVec n := w.extractLsb' lo n

/-- The row of the operation table whose fixed bits the word has. Rows of one opcode stand with the more specific first. -/
def decodeRow (w : Word) : Except DecodeError Instr :=
  match (field w 24 8).toNat with
  | 0x01 =>
    if w &&& 0xFF001FFF#32 == 0x01000000#32 then .ok (.rep (field w 18 6) (field w 15 3) (field w 13 2))
    else .error .reservedField
  | 0x02 =>
    if w &&& 0xFFFFFFFF#32 == 0x02000000#32 then .ok (.nop)
    else .error .reservedField
  | 0x03 => .ok (.bCond (field w 20 4) (field w 0 20))
  | 0x04 =>
    if w &&& 0xFFF00000#32 == 0x04000000#32 then .ok (.bMz (field w 0 20))
    else if w &&& 0xFFF00000#32 == 0x04100000#32 then .ok (.bMa (field w 0 20))
    else .error .reservedField
  | 0x05 =>
    if w &&& 0xFFF00000#32 == 0x05000000#32 then .ok (.call (field w 0 20))
    else .error .reservedField
  | 0x06 =>
    if w &&& 0xFFFF803F#32 == 0x06000000#32 then .ok (.jmp (field w 6 9))
    else .error .reservedField
  | 0x07 =>
    if w &&& 0xFFFFFFFF#32 == 0x07000000#32 then .ok (.ret)
    else .error .reservedField
  | 0x08 =>
    if w &&& 0xFF00003F#32 == 0x08000000#32 then .ok (.regang (field w 15 9) (field w 6 9))
    else .error .reservedField
  | 0x09 =>
    if w &&& 0xFFFFFFFF#32 == 0x09000000#32 then .ok (.exit)
    else .error .reservedField
  | 0x0A =>
    if w &&& 0xFFFF8000#32 == 0x0A000000#32 then .ok (.ecall (field w 0 15))
    else .error .reservedField
  | 0x0B =>
    if w &&& 0xFFFF8000#32 == 0x0B000000#32 then .ok (.trap (field w 0 15))
    else .error .reservedField
  | 0x0C =>
    if w &&& 0xFFFF8000#32 == 0x0C000000#32 then .ok (.brk (field w 0 15))
    else .error .reservedField
  | 0x0D =>
    if w &&& 0xFFFFFFFF#32 == 0x0D000000#32 then .ok (.tret)
    else .error .reservedField
  | 0x0E =>
    if w &&& 0xFFFFFFFF#32 == 0x0E000000#32 then .ok (.tretSkip)
    else .error .reservedField
  | 0x0F =>
    if w &&& 0xFFFFFFFF#32 == 0x0F000000#32 then .ok (.tkillGang)
    else if w &&& 0xFFFFFFFF#32 == 0x0F000001#32 then .ok (.tkillGrove)
    else .error .reservedField
  | 0x10 =>
    if w &&& 0xFFFFFFFF#32 == 0x10000000#32 then .ok (.tpark)
    else .error .reservedField
  | 0x11 =>
    if w &&& 0xFFFFFFFF#32 == 0x11000000#32 then .ok (.gear0)
    else if w &&& 0xFFFFFFFF#32 == 0x11000001#32 then .ok (.gear1)
    else .error .reservedField
  | 0x12 =>
    if w &&& 0xFFFF803F#32 == 0x12000000#32 then .ok (.setmode (field w 6 9))
    else .error .reservedField
  | 0x13 =>
    if w &&& 0xFFFFFFF8#32 == 0x13000000#32 then .ok (.msetGp (field w 0 3))
    else if w &&& 0xFFFFFFF8#32 == 0x13004000#32 then .ok (.msetRm (field w 0 3))
    else if w &&& 0xFFFFFFC0#32 == 0x13002000#32 then .ok (.msetEt (field w 0 6))
    else .error .reservedField
  | 0x14 => .ok (.rdsr (field w 15 9) (field w 0 15))
  | 0x15 => .ok (.wrsr (field w 15 9) (field w 0 15))
  | 0x16 =>
    if w &&& 0xFFFFFC00#32 == 0x16000000#32 then .ok (.waitc (field w 8 2) (field w 0 8))
    else .error .reservedField
  | 0x17 =>
    if w &&& 0xFF00003F#32 == 0x17000000#32 then .ok (.lnch (field w 15 9) (field w 6 9))
    else .error .reservedField
  | 0x18 =>
    if w &&& 0xFFFFFF00#32 == 0x18000000#32 then .ok (.barrArrive (field w 0 8))
    else if w &&& 0xFFFFFF00#32 == 0x18000100#32 then .ok (.barrWait (field w 0 8))
    else if w &&& 0xFFFFFF00#32 == 0x18000200#32 then .ok (.barrSync (field w 0 8))
    else .error .reservedField
  | 0x19 =>
    if w &&& 0xFFFFFFFF#32 == 0x19000000#32 then .ok (.flush)
    else .error .reservedField
  | 0x1A =>
    if w &&& 0xFFFF803F#32 == 0x1A000000#32 then .ok (.logw (field w 6 9))
    else .error .reservedField
  | 0x1B =>
    if w &&& 0xFFFF803F#32 == 0x1B000000#32 then .ok (.tlbinv (field w 6 9))
    else .error .reservedField
  | 0x20 => .ok (.add (field w 15 9) (field w 6 9) (field w 0 6))
  | 0x21 => .ok (.sub (field w 15 9) (field w 6 9) (field w 0 6))
  | 0x22 => .ok (.mul (field w 15 9) (field w 6 9) (field w 0 6))
  | 0x23 => .ok (.mulh (field w 15 9) (field w 6 9) (field w 0 6))
  | 0x24 => .ok (.mulhN (field w 15 9) (field w 6 9) (field w 0 6))
  | 0x25 => .ok (.div (field w 15 9) (field w 6 9) (field w 0 6))
  | 0x26 => .ok (.divN (field w 15 9) (field w 6 9) (field w 0 6))
  | 0x27 => .ok (.rem (field w 15 9) (field w 6 9) (field w 0 6))
  | 0x28 => .ok (.remN (field w 15 9) (field w 6 9) (field w 0 6))
  | 0x29 => .ok (.and (field w 15 9) (field w 6 9) (field w 0 6))
  | 0x2A => .ok (.or (field w 15 9) (field w 6 9) (field w 0 6))
  | 0x2B => .ok (.xor (field w 15 9) (field w 6 9) (field w 0 6))
  | 0x2C => .ok (.andn (field w 15 9) (field w 6 9) (field w 0 6))
  | 0x2D => .ok (.shl (field w 15 9) (field w 6 9) (field w 0 6))
  | 0x2E => .ok (.shr (field w 15 9) (field w 6 9) (field w 0 6))
  | 0x2F => .ok (.sra (field w 15 9) (field w 6 9) (field w 0 6))
  | 0x30 => .ok (.rol (field w 15 9) (field w 6 9) (field w 0 6))
  | 0x31 => .ok (.min (field w 15 9) (field w 6 9) (field w 0 6))
  | 0x32 => .ok (.max (field w 15 9) (field w 6 9) (field w 0 6))
  | 0x33 => .ok (.minN (field w 15 9) (field w 6 9) (field w 0 6))
  | 0x34 => .ok (.maxN (field w 15 9) (field w 6 9) (field w 0 6))
  | 0x35 =>
    if w &&& 0xFFFF8000#32 == 0x35000000#32 then .ok (.cmp (field w 6 9) (field w 0 6))
    else .error .reservedField
  | 0x36 => .ok (.bfx (field w 15 9) (field w 6 9) (field w 0 6))
  | 0x37 => .ok (.bfi (field w 15 9) (field w 6 9) (field w 0 6))
  | 0x38 =>
    if w &&& 0xFF00003F#32 == 0x38000000#32 then .ok (.mov (field w 15 9) (field w 6 9))
    else if w &&& 0xFF00003F#32 == 0x38000001#32 then .ok (.popc (field w 15 9) (field w 6 9))
    else if w &&& 0xFF00003F#32 == 0x38000002#32 then .ok (.clz (field w 15 9) (field w 6 9))
    else if w &&& 0xFF00003F#32 == 0x38000003#32 then .ok (.ctz (field w 15 9) (field w 6 9))
    else if w &&& 0xFF000030#32 == 0x38000010#32 then .ok (.selCond (field w 15 9) (field w 6 9) (field w 0 4))
    else .error .reservedField
  | 0x39 => .ok (.cmpi (field w 15 9) (field w 0 15))
  | 0x3A => .ok (.addi (field w 15 9) (field w 0 15))
  | 0x3B => .ok (.andi (field w 15 9) (field w 0 15))
  | 0x3C => .ok (.ori (field w 15 9) (field w 0 15))
  | 0x3D => .ok (.xori (field w 15 9) (field w 0 15))
  | 0x3E => .ok (.ldi (field w 18 6) (field w 0 18))
  | 0x3F =>
    if w &&& 0xFF030000#32 == 0x3F010000#32 then .ok (.ldlo (field w 18 6) (field w 0 16))
    else if w &&& 0xFF030000#32 == 0x3F020000#32 then .ok (.ldhi (field w 18 6) (field w 0 16))
    else .error .reservedField
  | 0x40 =>
    if w &&& 0xFFF00000#32 == 0x40000000#32 then .ok (.iaddV (field w 14 6) (field w 8 6) (field w 2 6) (field w 0 2))
    else if w &&& 0xFFF00000#32 == 0x40100000#32 then .ok (.iaddVs (field w 14 6) (field w 8 6) (field w 2 6) (field w 0 2))
    else .error .reservedField
  | 0x41 =>
    if w &&& 0xFFF00000#32 == 0x41000000#32 then .ok (.isubV (field w 14 6) (field w 8 6) (field w 2 6) (field w 0 2))
    else if w &&& 0xFFF00000#32 == 0x41100000#32 then .ok (.isubVs (field w 14 6) (field w 8 6) (field w 2 6) (field w 0 2))
    else .error .reservedField
  | 0x42 =>
    if w &&& 0xFFF00000#32 == 0x42000000#32 then .ok (.imulV (field w 14 6) (field w 8 6) (field w 2 6) (field w 0 2))
    else if w &&& 0xFFF00000#32 == 0x42100000#32 then .ok (.imulVs (field w 14 6) (field w 8 6) (field w 2 6) (field w 0 2))
    else .error .reservedField
  | 0x43 =>
    if w &&& 0xFFF00000#32 == 0x43000000#32 then .ok (.imulhV (field w 14 6) (field w 8 6) (field w 2 6) (field w 0 2))
    else if w &&& 0xFFF00000#32 == 0x43100000#32 then .ok (.imulhVs (field w 14 6) (field w 8 6) (field w 2 6) (field w 0 2))
    else .error .reservedField
  | 0x44 =>
    if w &&& 0xFFF00000#32 == 0x44000000#32 then .ok (.imulhNV (field w 14 6) (field w 8 6) (field w 2 6) (field w 0 2))
    else if w &&& 0xFFF00000#32 == 0x44100000#32 then .ok (.imulhNVs (field w 14 6) (field w 8 6) (field w 2 6) (field w 0 2))
    else .error .reservedField
  | 0x45 =>
    if w &&& 0xFFF00000#32 == 0x45000000#32 then .ok (.imadV (field w 14 6) (field w 8 6) (field w 2 6) (field w 0 2))
    else if w &&& 0xFFF00000#32 == 0x45100000#32 then .ok (.imadVs (field w 14 6) (field w 8 6) (field w 2 6) (field w 0 2))
    else .error .reservedField
  | 0x46 =>
    if w &&& 0xFFF00000#32 == 0x46000000#32 then .ok (.iandV (field w 14 6) (field w 8 6) (field w 2 6) (field w 0 2))
    else if w &&& 0xFFF00000#32 == 0x46100000#32 then .ok (.iandVs (field w 14 6) (field w 8 6) (field w 2 6) (field w 0 2))
    else .error .reservedField
  | 0x47 =>
    if w &&& 0xFFF00000#32 == 0x47000000#32 then .ok (.iorV (field w 14 6) (field w 8 6) (field w 2 6) (field w 0 2))
    else if w &&& 0xFFF00000#32 == 0x47100000#32 then .ok (.iorVs (field w 14 6) (field w 8 6) (field w 2 6) (field w 0 2))
    else .error .reservedField
  | 0x48 =>
    if w &&& 0xFFF00000#32 == 0x48000000#32 then .ok (.ixorV (field w 14 6) (field w 8 6) (field w 2 6) (field w 0 2))
    else if w &&& 0xFFF00000#32 == 0x48100000#32 then .ok (.ixorVs (field w 14 6) (field w 8 6) (field w 2 6) (field w 0 2))
    else .error .reservedField
  | 0x49 =>
    if w &&& 0xFFF00000#32 == 0x49000000#32 then .ok (.iandnV (field w 14 6) (field w 8 6) (field w 2 6) (field w 0 2))
    else if w &&& 0xFFF00000#32 == 0x49100000#32 then .ok (.iandnVs (field w 14 6) (field w 8 6) (field w 2 6) (field w 0 2))
    else .error .reservedField
  | 0x4A =>
    if w &&& 0xFFF00000#32 == 0x4A000000#32 then .ok (.ishlV (field w 14 6) (field w 8 6) (field w 2 6) (field w 0 2))
    else if w &&& 0xFFF00000#32 == 0x4A100000#32 then .ok (.ishlVs (field w 14 6) (field w 8 6) (field w 2 6) (field w 0 2))
    else .error .reservedField
  | 0x4B =>
    if w &&& 0xFFF00000#32 == 0x4B000000#32 then .ok (.ishrV (field w 14 6) (field w 8 6) (field w 2 6) (field w 0 2))
    else if w &&& 0xFFF00000#32 == 0x4B100000#32 then .ok (.ishrVs (field w 14 6) (field w 8 6) (field w 2 6) (field w 0 2))
    else .error .reservedField
  | 0x4C =>
    if w &&& 0xFFF00000#32 == 0x4C000000#32 then .ok (.israV (field w 14 6) (field w 8 6) (field w 2 6) (field w 0 2))
    else if w &&& 0xFFF00000#32 == 0x4C100000#32 then .ok (.israVs (field w 14 6) (field w 8 6) (field w 2 6) (field w 0 2))
    else .error .reservedField
  | 0x4D =>
    if w &&& 0xFFF00000#32 == 0x4D000000#32 then .ok (.iminV (field w 14 6) (field w 8 6) (field w 2 6) (field w 0 2))
    else if w &&& 0xFFF00000#32 == 0x4D100000#32 then .ok (.iminVs (field w 14 6) (field w 8 6) (field w 2 6) (field w 0 2))
    else .error .reservedField
  | 0x4E =>
    if w &&& 0xFFF00000#32 == 0x4E000000#32 then .ok (.imaxV (field w 14 6) (field w 8 6) (field w 2 6) (field w 0 2))
    else if w &&& 0xFFF00000#32 == 0x4E100000#32 then .ok (.imaxVs (field w 14 6) (field w 8 6) (field w 2 6) (field w 0 2))
    else .error .reservedField
  | 0x4F =>
    if w &&& 0xFFF00000#32 == 0x4F000000#32 then .ok (.iminNV (field w 14 6) (field w 8 6) (field w 2 6) (field w 0 2))
    else if w &&& 0xFFF00000#32 == 0x4F100000#32 then .ok (.iminNVs (field w 14 6) (field w 8 6) (field w 2 6) (field w 0 2))
    else .error .reservedField
  | 0x50 =>
    if w &&& 0xFFF00000#32 == 0x50000000#32 then .ok (.imaxNV (field w 14 6) (field w 8 6) (field w 2 6) (field w 0 2))
    else if w &&& 0xFFF00000#32 == 0x50100000#32 then .ok (.imaxNVs (field w 14 6) (field w 8 6) (field w 2 6) (field w 0 2))
    else .error .reservedField
  | 0x51 =>
    if w &&& 0xFF800000#32 == 0x51000000#32 then .ok (.iselV (field w 20 3) (field w 14 6) (field w 8 6) (field w 2 6) (field w 0 2))
    else if w &&& 0xFF800000#32 == 0x51800000#32 then .ok (.iselVs (field w 20 3) (field w 14 6) (field w 8 6) (field w 2 6) (field w 0 2))
    else .error .reservedField
  | 0x52 =>
    if w &&& 0xFF0E0003#32 == 0x52000000#32 then .ok (.icmp (field w 20 4) (field w 14 3) (field w 8 6) (field w 2 6))
    else .error .reservedField
  | 0x53 =>
    if w &&& 0xFFF03FFF#32 == 0x53500000#32 then .ok (.lanei (field w 14 6))
    else if w &&& 0xFFF000FF#32 == 0x53000000#32 then .ok (.inot (field w 14 6) (field w 8 6))
    else if w &&& 0xFFF000FF#32 == 0x53100000#32 then .ok (.iabs (field w 14 6) (field w 8 6))
    else if w &&& 0xFFF000FF#32 == 0x53200000#32 then .ok (.ineg (field w 14 6) (field w 8 6))
    else if w &&& 0xFFF000FF#32 == 0x53300000#32 then .ok (.ipopc (field w 14 6) (field w 8 6))
    else if w &&& 0xFFF000FF#32 == 0x53400000#32 then .ok (.iclz (field w 14 6) (field w 8 6))
    else .error .reservedField
  | 0x54 =>
    if w &&& 0xFFF00003#32 == 0x54000000#32 then .ok (.ibfx (field w 14 6) (field w 8 6) (field w 2 6))
    else .error .reservedField
  | 0x55 =>
    if w &&& 0xFFF00003#32 == 0x55000000#32 then .ok (.ibfi (field w 14 6) (field w 8 6) (field w 2 6))
    else .error .reservedField
  | 0x56 =>
    if w &&& 0xFFF03F03#32 == 0x56000000#32 then .ok (.vbc (field w 14 6) (field w 2 6))
    else .error .reservedField
  | 0x60 =>
    if w &&& 0xFF000003#32 == 0x60000000#32 then .ok (.shfl (field w 20 4) (field w 14 6) (field w 8 6) (field w 2 6))
    else .error .reservedField
  | 0x61 =>
    if w &&& 0xFF000003#32 == 0x61000000#32 then .ok (.bcast (field w 20 4) (field w 14 6) (field w 8 6) (field w 2 6))
    else .error .reservedField
  | 0x62 =>
    if w &&& 0xFF000003#32 == 0x62000000#32 then .ok (.vget (field w 20 4) (field w 14 6) (field w 8 6) (field w 2 6))
    else .error .reservedField
  | 0x63 =>
    if w &&& 0xFF0038FF#32 == 0x63000000#32 then .ok (.ballot (field w 20 4) (field w 14 6) (field w 8 3))
    else .error .reservedField
  | 0x64 =>
    if w &&& 0xFF0000FF#32 == 0x64000000#32 then .ok (.matchv (field w 20 4) (field w 14 6) (field w 8 6))
    else .error .reservedField
  | 0x65 =>
    if w &&& 0xFF000003#32 == 0x65000000#32 then .ok (.isect (field w 20 4) (field w 14 6) (field w 8 6) (field w 2 6))
    else .error .reservedField
  | 0x70 =>
    if w &&& 0xFF000003#32 == 0x70000000#32 then .ok (.cvt (field w 20 4) (field w 14 6) (field w 8 6) (field w 2 6))
    else .error .reservedField
  | 0x71 =>
    if w &&& 0xFFC000FF#32 == 0x71000000#32 then .ok (.narrow (field w 20 2) (field w 14 6) (field w 8 6))
    else .error .reservedField
  | 0x72 =>
    if w &&& 0xFFC000FF#32 == 0x72000000#32 then .ok (.widen (field w 20 2) (field w 14 6) (field w 8 6))
    else .error .reservedField
  | 0x80 =>
    if w &&& 0xFFF00000#32 == 0x80000000#32 then .ok (.faddV (field w 14 6) (field w 8 6) (field w 2 6) (field w 0 2))
    else if w &&& 0xFFF00000#32 == 0x80100000#32 then .ok (.faddVs (field w 14 6) (field w 8 6) (field w 2 6) (field w 0 2))
    else .error .reservedField
  | 0x81 =>
    if w &&& 0xFFF00000#32 == 0x81000000#32 then .ok (.fsubV (field w 14 6) (field w 8 6) (field w 2 6) (field w 0 2))
    else if w &&& 0xFFF00000#32 == 0x81100000#32 then .ok (.fsubVs (field w 14 6) (field w 8 6) (field w 2 6) (field w 0 2))
    else .error .reservedField
  | 0x82 =>
    if w &&& 0xFFF00000#32 == 0x82000000#32 then .ok (.fmulV (field w 14 6) (field w 8 6) (field w 2 6) (field w 0 2))
    else if w &&& 0xFFF00000#32 == 0x82100000#32 then .ok (.fmulVs (field w 14 6) (field w 8 6) (field w 2 6) (field w 0 2))
    else .error .reservedField
  | 0x83 =>
    if w &&& 0xFFF00000#32 == 0x83000000#32 then .ok (.ffmaV (field w 14 6) (field w 8 6) (field w 2 6) (field w 0 2))
    else if w &&& 0xFFF00000#32 == 0x83100000#32 then .ok (.ffmaVs (field w 14 6) (field w 8 6) (field w 2 6) (field w 0 2))
    else .error .reservedField
  | 0x84 =>
    if w &&& 0xFFF00000#32 == 0x84000000#32 then .ok (.ffmsV (field w 14 6) (field w 8 6) (field w 2 6) (field w 0 2))
    else if w &&& 0xFFF00000#32 == 0x84100000#32 then .ok (.ffmsVs (field w 14 6) (field w 8 6) (field w 2 6) (field w 0 2))
    else .error .reservedField
  | 0x85 =>
    if w &&& 0xFFF00000#32 == 0x85000000#32 then .ok (.fnmaV (field w 14 6) (field w 8 6) (field w 2 6) (field w 0 2))
    else if w &&& 0xFFF00000#32 == 0x85100000#32 then .ok (.fnmaVs (field w 14 6) (field w 8 6) (field w 2 6) (field w 0 2))
    else .error .reservedField
  | 0x86 =>
    if w &&& 0xFFF00000#32 == 0x86000000#32 then .ok (.fminV (field w 14 6) (field w 8 6) (field w 2 6) (field w 0 2))
    else if w &&& 0xFFF00000#32 == 0x86100000#32 then .ok (.fminVs (field w 14 6) (field w 8 6) (field w 2 6) (field w 0 2))
    else .error .reservedField
  | 0x87 =>
    if w &&& 0xFFF00000#32 == 0x87000000#32 then .ok (.fmaxV (field w 14 6) (field w 8 6) (field w 2 6) (field w 0 2))
    else if w &&& 0xFFF00000#32 == 0x87100000#32 then .ok (.fmaxVs (field w 14 6) (field w 8 6) (field w 2 6) (field w 0 2))
    else .error .reservedField
  | 0x88 =>
    if w &&& 0xFFF000FF#32 == 0x88000000#32 then .ok (.fabs (field w 14 6) (field w 8 6))
    else if w &&& 0xFFF000FF#32 == 0x88100000#32 then .ok (.fneg (field w 14 6) (field w 8 6))
    else if w &&& 0xFFF000FF#32 == 0x88200000#32 then .ok (.fclass (field w 14 6) (field w 8 6))
    else if w &&& 0xFFF000FF#32 == 0x88300000#32 then .ok (.frnd (field w 14 6) (field w 8 6))
    else .error .reservedField
  | 0x89 =>
    if w &&& 0xFF0E0003#32 == 0x89000000#32 then .ok (.fcmp (field w 20 4) (field w 14 3) (field w 8 6) (field w 2 6))
    else .error .reservedField
  | 0x8A =>
    if w &&& 0xFF0000FF#32 == 0x8A000000#32 then .ok (.frcp (field w 20 4) (field w 14 6) (field w 8 6))
    else .error .reservedField
  | 0x8B =>
    if w &&& 0xFF0000FF#32 == 0x8B000000#32 then .ok (.frsq (field w 20 4) (field w 14 6) (field w 8 6))
    else .error .reservedField
  | 0x8C =>
    if w &&& 0xFF0000FF#32 == 0x8C000000#32 then .ok (.fsqrt (field w 20 4) (field w 14 6) (field w 8 6))
    else .error .reservedField
  | 0x8D =>
    if w &&& 0xFF000003#32 == 0x8D000000#32 then .ok (.fdiv (field w 20 4) (field w 14 6) (field w 8 6) (field w 2 6))
    else .error .reservedField
  | 0x8E =>
    if w &&& 0xFF0000FF#32 == 0x8E000000#32 then .ok (.fexp2 (field w 20 4) (field w 14 6) (field w 8 6))
    else .error .reservedField
  | 0x8F =>
    if w &&& 0xFF0000FF#32 == 0x8F000000#32 then .ok (.flog2 (field w 20 4) (field w 14 6) (field w 8 6))
    else .error .reservedField
  | 0x90 =>
    if w &&& 0xFF0000FF#32 == 0x90000000#32 then .ok (.fexp (field w 20 4) (field w 14 6) (field w 8 6))
    else .error .reservedField
  | 0x91 =>
    if w &&& 0xFF0000FF#32 == 0x91000000#32 then .ok (.flog (field w 20 4) (field w 14 6) (field w 8 6))
    else .error .reservedField
  | 0x92 =>
    if w &&& 0xFF0000FF#32 == 0x92000000#32 then .ok (.fsinpi (field w 20 4) (field w 14 6) (field w 8 6))
    else .error .reservedField
  | 0x93 =>
    if w &&& 0xFF0000FF#32 == 0x93000000#32 then .ok (.fcospi (field w 20 4) (field w 14 6) (field w 8 6))
    else .error .reservedField
  | 0x94 =>
    if w &&& 0xFF000003#32 == 0x94000000#32 then .ok (.rng (field w 20 4) (field w 14 6) (field w 8 6) (field w 2 6))
    else .error .reservedField
  | 0xB0 =>
    if w &&& 0xFFF00003#32 == 0xB0100000#32 then .ok (.unfadd (field w 14 6) (field w 8 6) (field w 2 6))
    else if w &&& 0xFFF00000#32 == 0xB0000000#32 then .ok (.rfadd (field w 14 6) (field w 8 6) (field w 2 6) (field w 0 2))
    else .error .reservedField
  | 0xB1 =>
    if w &&& 0xFFF00003#32 == 0xB1100000#32 then .ok (.unfmul (field w 14 6) (field w 8 6) (field w 2 6))
    else if w &&& 0xFFF00000#32 == 0xB1000000#32 then .ok (.rfmul (field w 14 6) (field w 8 6) (field w 2 6) (field w 0 2))
    else .error .reservedField
  | 0xB2 =>
    if w &&& 0xFFF00003#32 == 0xB2100000#32 then .ok (.unfma (field w 14 6) (field w 8 6) (field w 2 6))
    else if w &&& 0xFFF00000#32 == 0xB2000000#32 then .ok (.rfma (field w 14 6) (field w 8 6) (field w 2 6) (field w 0 2))
    else .error .reservedField
  | 0xB3 =>
    if w &&& 0xFFF000FF#32 == 0xB3000000#32 then .ok (.rnarrow (field w 14 6) (field w 8 6))
    else if w &&& 0xFFF000FF#32 == 0xB3100000#32 then .ok (.unnarrow (field w 14 6) (field w 8 6))
    else .error .reservedField
  | 0xB4 =>
    if w &&& 0xFFF00003#32 == 0xB4000000#32 then .ok (.rshr (field w 14 6) (field w 8 6) (field w 2 6))
    else if w &&& 0xFFF00003#32 == 0xB4100000#32 then .ok (.unshr (field w 14 6) (field w 8 6) (field w 2 6))
    else .error .reservedField
  | 0xB5 =>
    if w &&& 0xFFF00003#32 == 0xB5100000#32 then .ok (.unimul (field w 14 6) (field w 8 6) (field w 2 6))
    else if w &&& 0xFFF00000#32 == 0xB5000000#32 then .ok (.rimul (field w 14 6) (field w 8 6) (field w 2 6) (field w 0 2))
    else .error .reservedField
  | 0xB6 =>
    if w &&& 0xFFF00003#32 == 0xB6100000#32 then .ok (.unniadd (field w 14 6) (field w 8 6) (field w 2 6))
    else if w &&& 0xFFF00000#32 == 0xB6000000#32 then .ok (.riadd (field w 14 6) (field w 8 6) (field w 2 6) (field w 0 2))
    else .error .reservedField
  | 0xB7 =>
    if w &&& 0xFFF000FF#32 == 0xB7000000#32 then .ok (.rmax0 (field w 14 6) (field w 8 6))
    else if w &&& 0xFFF000FF#32 == 0xB7100000#32 then .ok (.unmax0 (field w 14 6) (field w 8 6))
    else .error .reservedField
  | 0xB8 =>
    if w &&& 0xFFFF803F#32 == 0xB8000000#32 then .ok (.rsmark (field w 6 9))
    else .error .reservedField
  | 0xB9 =>
    if w &&& 0xFFFF803F#32 == 0xB9000000#32 then .ok (.unmark (field w 6 9))
    else .error .reservedField
  | 0xBA =>
    if w &&& 0xFFFF803F#32 == 0xBA000000#32 then .ok (.rsdrop (field w 6 9))
    else .error .reservedField
  | 0xBB =>
    if w &&& 0xFF007FFF#32 == 0xBB000000#32 then .ok (.rsdep (field w 15 9))
    else .error .reservedField
  | 0xC0 => .ok (.ldB (field w 20 4) (field w 14 6) (field w 8 6) (field w 2 6) (field w 0 2))
  | 0xC1 => .ok (.ldBs (field w 20 4) (field w 14 6) (field w 8 6) (field w 2 6) (field w 0 2))
  | 0xC2 => .ok (.ldH (field w 20 4) (field w 14 6) (field w 8 6) (field w 2 6) (field w 0 2))
  | 0xC3 => .ok (.ldHs (field w 20 4) (field w 14 6) (field w 8 6) (field w 2 6) (field w 0 2))
  | 0xC4 =>
    if w &&& 0xFF000003#32 == 0xC4000002#32 then .ok (.ldAcqW (field w 20 4) (field w 14 6) (field w 8 6) (field w 2 6))
    else .ok (.ldW (field w 20 4) (field w 14 6) (field w 8 6) (field w 2 6) (field w 0 2))
  | 0xC5 => .ok (.ldD (field w 20 4) (field w 14 6) (field w 8 6) (field w 2 6) (field w 0 2))
  | 0xC6 => .ok (.ldQ (field w 20 4) (field w 14 6) (field w 8 6) (field w 2 6) (field w 0 2))
  | 0xC7 =>
    if w &&& 0xFFF00000#32 == 0xC7000000#32 then .ok (.stB (field w 14 6) (field w 8 6) (field w 2 6) (field w 0 2))
    else .error .reservedField
  | 0xC8 =>
    if w &&& 0xFFF00000#32 == 0xC8000000#32 then .ok (.stH (field w 14 6) (field w 8 6) (field w 2 6) (field w 0 2))
    else .error .reservedField
  | 0xC9 =>
    if w &&& 0xFFF00003#32 == 0xC9000002#32 then .ok (.stRelW (field w 14 6) (field w 8 6) (field w 2 6))
    else if w &&& 0xFFF00000#32 == 0xC9000000#32 then .ok (.stW (field w 14 6) (field w 8 6) (field w 2 6) (field w 0 2))
    else .error .reservedField
  | 0xCA =>
    if w &&& 0xFFF00000#32 == 0xCA000000#32 then .ok (.stD (field w 14 6) (field w 8 6) (field w 2 6) (field w 0 2))
    else .error .reservedField
  | 0xCB =>
    if w &&& 0xFFF00000#32 == 0xCB000000#32 then .ok (.stQ (field w 14 6) (field w 8 6) (field w 2 6) (field w 0 2))
    else .error .reservedField
  | 0xCC =>
    if w &&& 0xFF000003#32 == 0xCC000002#32 then .ok (.sldAcq (field w 20 4) (field w 14 6) (field w 8 6) (field w 2 6))
    else if w &&& 0xFF000003#32 == 0xCC000001#32 then .ok (.sldWPhys (field w 20 4) (field w 14 6) (field w 8 6) (field w 2 6))
    else .ok (.sldW (field w 20 4) (field w 14 6) (field w 8 6) (field w 2 6) (field w 0 2))
  | 0xCD => .ok (.sldD (field w 20 4) (field w 14 6) (field w 8 6) (field w 2 6) (field w 0 2))
  | 0xCE =>
    if w &&& 0xFFF00003#32 == 0xCE000002#32 then .ok (.sstRel (field w 14 6) (field w 8 6) (field w 2 6))
    else if w &&& 0xFFF00003#32 == 0xCE000001#32 then .ok (.sstWPhys (field w 14 6) (field w 8 6) (field w 2 6))
    else if w &&& 0xFFF00000#32 == 0xCE000000#32 then .ok (.sstW (field w 14 6) (field w 8 6) (field w 2 6) (field w 0 2))
    else .error .reservedField
  | 0xCF =>
    if w &&& 0xFFF00000#32 == 0xCF000000#32 then .ok (.sstD (field w 14 6) (field w 8 6) (field w 2 6) (field w 0 2))
    else .error .reservedField
  | 0xD0 =>
    if w &&& 0xFF000080#32 == 0xD0000000#32 then .ok (.atom (field w 20 4) (field w 14 6) (field w 8 6) (field w 6 1) (field w 2 4) (field w 0 2))
    else .error .reservedField
  | 0xD1 =>
    if w &&& 0xFF002000#32 == 0xD1000000#32 then .ok (.satom (field w 20 4) (field w 14 6) (field w 12 1) (field w 8 4) (field w 2 6) (field w 0 2))
    else .error .reservedField
  | 0xD2 =>
    if w &&& 0xFFFFF8FF#32 == 0xD2004000#32 then .ok (.fenceRel (field w 8 3))
    else if w &&& 0xFFFFF8FF#32 == 0xD2008000#32 then .ok (.fenceAcq (field w 8 3))
    else if w &&& 0xFFFFF8FF#32 == 0xD200C000#32 then .ok (.fenceAr (field w 8 3))
    else .error .reservedField
  | 0xD3 =>
    if w &&& 0xFFF00003#32 == 0xD3000000#32 then .ok (.wata (field w 14 6) (field w 8 6) (field w 2 6))
    else .error .reservedField
  | 0xD4 =>
    if w &&& 0xFFFFFF03#32 == 0xD4000000#32 then .ok (.wake (field w 2 6))
    else .error .reservedField
  | 0xD5 =>
    if w &&& 0xFFFFC003#32 == 0xD5000000#32 then .ok (.zfill (field w 8 6) (field w 2 6))
    else .error .reservedField
  | 0xD6 =>
    if w &&& 0xFFFFC003#32 == 0xD6000000#32 then .ok (.pf (field w 8 6) (field w 2 6))
    else if w &&& 0xFFFFC003#32 == 0xD6000001#32 then .ok (.pfL2 (field w 8 6) (field w 2 6))
    else .error .reservedField
  | 0xE0 =>
    if w &&& 0xFF000003#32 == 0xE0000000#32 then .ok (.cpy4 (field w 20 4) (field w 17 3) (field w 8 9) (field w 2 6))
    else if w &&& 0xFF000003#32 == 0xE0000001#32 then .ok (.cpy8 (field w 20 4) (field w 17 3) (field w 8 9) (field w 2 6))
    else if w &&& 0xFF000003#32 == 0xE0000002#32 then .ok (.cpy16 (field w 20 4) (field w 17 3) (field w 8 9) (field w 2 6))
    else .error .reservedField
  | 0xE1 =>
    if w &&& 0xFF000003#32 == 0xE1000000#32 then .ok (.bcpy (field w 20 4) (field w 17 3) (field w 8 9) (field w 2 6))
    else .error .reservedField
  | 0xE2 =>
    if w &&& 0xFF000003#32 == 0xE2000000#32 then .ok (.wcpy (field w 20 4) (field w 17 3) (field w 8 9) (field w 2 6))
    else .error .reservedField
  | 0xE3 =>
    if w &&& 0xFF000003#32 == 0xE3000000#32 then .ok (.mcast (field w 20 4) (field w 17 3) (field w 8 9) (field w 2 6))
    else .error .reservedField
  | 0xE4 =>
    if w &&& 0xFF000003#32 == 0xE4000000#32 then .ok (.gath (field w 20 4) (field w 17 3) (field w 8 9) (field w 2 6))
    else .error .reservedField
  | 0xE5 =>
    if w &&& 0xFF000003#32 == 0xE5000000#32 then .ok (.czero (field w 20 4) (field w 17 3) (field w 8 9) (field w 2 6))
    else .error .reservedField
  | 0xE6 =>
    if w &&& 0xFF000003#32 == 0xE6000000#32 then .ok (.wldS (field w 20 4) (field w 17 3) (field w 8 9) (field w 2 6))
    else if w &&& 0xFF000003#32 == 0xE6000001#32 then .ok (.wldG (field w 20 4) (field w 17 3) (field w 8 9) (field w 2 6))
    else .error .reservedField
  | 0xE7 =>
    if w &&& 0xFF000003#32 == 0xE7000000#32 then .ok (.mma (field w 20 4) (field w 17 3) (field w 8 9) (field w 2 6))
    else .error .reservedField
  | 0xE8 =>
    if w &&& 0xFF000003#32 == 0xE8000000#32 then .ok (.mloop (field w 20 4) (field w 17 3) (field w 8 9) (field w 2 6))
    else .error .reservedField
  | 0xE9 =>
    if w &&& 0xFF000003#32 == 0xE9000000#32 then .ok (.mrec (field w 20 4) (field w 17 3) (field w 8 9) (field w 2 6))
    else .error .reservedField
  | 0xEA =>
    if w &&& 0xFF000003#32 == 0xEA000000#32 then .ok (.accrd (field w 20 4) (field w 17 3) (field w 8 9) (field w 2 6))
    else if w &&& 0xFF000003#32 == 0xEA000001#32 then .ok (.accwr (field w 20 4) (field w 17 3) (field w 8 9) (field w 2 6))
    else if w &&& 0xFF000003#32 == 0xEA000002#32 then .ok (.accz (field w 20 4) (field w 17 3) (field w 8 9) (field w 2 6))
    else .error .reservedField
  | 0xEB =>
    if w &&& 0xFF0E0003#32 == 0xEB000000#32 then .ok (.mstat (field w 20 4) (field w 8 9) (field w 2 6))
    else .error .reservedField
  | 0xEC =>
    if w &&& 0xFF000003#32 == 0xEC000000#32 then .ok (.collAr (field w 20 4) (field w 17 3) (field w 8 9) (field w 2 6))
    else if w &&& 0xFF000003#32 == 0xEC000001#32 then .ok (.collRs (field w 20 4) (field w 17 3) (field w 8 9) (field w 2 6))
    else if w &&& 0xFF000003#32 == 0xEC000002#32 then .ok (.collAg (field w 20 4) (field w 17 3) (field w 8 9) (field w 2 6))
    else .error .reservedField
  | 0xED =>
    if w &&& 0xFF00003F#32 == 0xED000000#32 then .ok (.pnset (field w 15 9) (field w 6 9))
    else .error .reservedField
  | 0xEE =>
    if w &&& 0xFF007FFF#32 == 0xEE000000#32 then .ok (.pnclr (field w 15 9))
    else .error .reservedField
  | _ => .error .reservedOpcode

/-- R96: the instruction a word is, or why it is none. Registers beyond Nv and Ns are checked when it executes. -/
def decode (w : Word) : Except DecodeError Instr :=
  match decodeRow w with
  | .error e => .error e
  | .ok i => if i.wellFormed then .ok i else .error .brokenRule

/-- R4: the little-endian word of four bytes, lowest address first. -/
def wordOfBytes (b0 b1 b2 b3 : Byte) : Word := b3 ++ b2 ++ b1 ++ b0

/-- The instruction at the head of a byte stream and the bytes after it. -/
def decodeBytes : List Byte → Except DecodeError (Instr × List Byte)
  | b0 :: b1 :: b2 :: b3 :: rest =>
    match decode (wordOfBytes b0 b1 b2 b3) with
    | .ok i => .ok (i, rest)
    | .error e => .error e
  | _ => .error .reservedField

/-- The instruction the decoder reads from an instruction whose bits are `w`, bit 0 the least significant of its one word. -/
def decodeTableWord (nbits w : Nat) : Option Instr :=
  if nbits ≤ 32 then
    match decode (BitVec.ofNat 32 w) with
    | .ok i => some i
    | .error _ => none
  else none

/-- The word of an encoded instruction: its fixed bits and fields from bit 31 down (Tables 5.1 and 5.3). The illegal
instruction stands for its own word; an event has no word. -/
def encode : Instr → Word
  | .rep n f t => 0x1#8 ++ n ++ f ++ t ++ 0x0#13
  | .nop => 0x02#8 ++ 0x0#24
  | .bCond c o => 0x3#8 ++ c ++ o
  | .bMz o => 0x04#8 ++ 0x0#4 ++ o
  | .bMa o => 0x04#8 ++ 0x1#4 ++ o
  | .call o => 0x05#8 ++ 0x0#4 ++ o
  | .jmp a => 0x06#8 ++ 0x0#9 ++ a ++ 0x0#6
  | .ret => 0x07#8 ++ 0x0#24
  | .regang d a => 0x8#8 ++ d ++ a ++ 0x0#6
  | .exit => 0x09#8 ++ 0x0#24
  | .ecall i => 0x0A#8 ++ 0x0#9 ++ i
  | .trap i => 0x0B#8 ++ 0x0#9 ++ i
  | .brk i => 0x0C#8 ++ 0x0#9 ++ i
  | .tret => 0x0D#8 ++ 0x0#24
  | .tretSkip => 0x0E#8 ++ 0x0#24
  | .tkillGang => 0x0F#8 ++ 0x0#24
  | .tkillGrove => 0x0F#8 ++ 0x1#24
  | .tpark => 0x10#8 ++ 0x0#24
  | .gear0 => 0x11#8 ++ 0x0#24
  | .gear1 => 0x11#8 ++ 0x1#24
  | .setmode a => 0x12#8 ++ 0x0#9 ++ a ++ 0x0#6
  | .msetGp i => 0x13#8 ++ 0x0#21 ++ i
  | .msetEt i => 0x13#8 ++ 0x80#18 ++ i
  | .msetRm i => 0x13#8 ++ 0x800#21 ++ i
  | .rdsr d s => 0x14#8 ++ d ++ s
  | .wrsr d s => 0x15#8 ++ d ++ s
  | .waitc c n => 0x16#8 ++ 0x0#14 ++ c ++ n
  | .lnch d a => 0x17#8 ++ d ++ a ++ 0x0#6
  | .barrArrive b => 0x18#8 ++ 0x0#16 ++ b
  | .barrWait b => 0x18#8 ++ 0x1#16 ++ b
  | .barrSync b => 0x18#8 ++ 0x2#16 ++ b
  | .flush => 0x19#8 ++ 0x0#24
  | .logw a => 0x1A#8 ++ 0x0#9 ++ a ++ 0x0#6
  | .tlbinv a => 0x1B#8 ++ 0x0#9 ++ a ++ 0x0#6
  | .add d a b => 0x20#8 ++ d ++ a ++ b
  | .sub d a b => 0x21#8 ++ d ++ a ++ b
  | .mul d a b => 0x22#8 ++ d ++ a ++ b
  | .mulh d a b => 0x23#8 ++ d ++ a ++ b
  | .mulhN d a b => 0x24#8 ++ d ++ a ++ b
  | .div d a b => 0x25#8 ++ d ++ a ++ b
  | .divN d a b => 0x26#8 ++ d ++ a ++ b
  | .rem d a b => 0x27#8 ++ d ++ a ++ b
  | .remN d a b => 0x28#8 ++ d ++ a ++ b
  | .and d a b => 0x29#8 ++ d ++ a ++ b
  | .or d a b => 0x2A#8 ++ d ++ a ++ b
  | .xor d a b => 0x2B#8 ++ d ++ a ++ b
  | .andn d a b => 0x2C#8 ++ d ++ a ++ b
  | .shl d a b => 0x2D#8 ++ d ++ a ++ b
  | .shr d a b => 0x2E#8 ++ d ++ a ++ b
  | .sra d a b => 0x2F#8 ++ d ++ a ++ b
  | .rol d a b => 0x30#8 ++ d ++ a ++ b
  | .min d a b => 0x31#8 ++ d ++ a ++ b
  | .max d a b => 0x32#8 ++ d ++ a ++ b
  | .minN d a b => 0x33#8 ++ d ++ a ++ b
  | .maxN d a b => 0x34#8 ++ d ++ a ++ b
  | .cmp a b => 0x35#8 ++ 0x0#9 ++ a ++ b
  | .bfx d a b => 0x36#8 ++ d ++ a ++ b
  | .bfi d a b => 0x37#8 ++ d ++ a ++ b
  | .mov d a => 0x38#8 ++ d ++ a ++ 0x0#6
  | .popc d a => 0x38#8 ++ d ++ a ++ 0x1#6
  | .clz d a => 0x38#8 ++ d ++ a ++ 0x2#6
  | .ctz d a => 0x38#8 ++ d ++ a ++ 0x3#6
  | .selCond d a c => 0x38#8 ++ d ++ a ++ 0x1#2 ++ c
  | .cmpi d i => 0x39#8 ++ d ++ i
  | .addi d i => 0x3A#8 ++ d ++ i
  | .andi d i => 0x3B#8 ++ d ++ i
  | .ori d i => 0x3C#8 ++ d ++ i
  | .xori d i => 0x3D#8 ++ d ++ i
  | .ldi d i => 0x3E#8 ++ d ++ i
  | .ldlo d i => 0x3F#8 ++ d ++ 0x1#2 ++ i
  | .ldhi d i => 0x3F#8 ++ d ++ 0x2#2 ++ i
  | .iaddV d a b l => 0x40#8 ++ 0x0#4 ++ d ++ a ++ b ++ l
  | .iaddVs d a b l => 0x40#8 ++ 0x1#4 ++ d ++ a ++ b ++ l
  | .isubV d a b l => 0x41#8 ++ 0x0#4 ++ d ++ a ++ b ++ l
  | .isubVs d a b l => 0x41#8 ++ 0x1#4 ++ d ++ a ++ b ++ l
  | .imulV d a b l => 0x42#8 ++ 0x0#4 ++ d ++ a ++ b ++ l
  | .imulVs d a b l => 0x42#8 ++ 0x1#4 ++ d ++ a ++ b ++ l
  | .imulhV d a b l => 0x43#8 ++ 0x0#4 ++ d ++ a ++ b ++ l
  | .imulhVs d a b l => 0x43#8 ++ 0x1#4 ++ d ++ a ++ b ++ l
  | .imulhNV d a b l => 0x44#8 ++ 0x0#4 ++ d ++ a ++ b ++ l
  | .imulhNVs d a b l => 0x44#8 ++ 0x1#4 ++ d ++ a ++ b ++ l
  | .imadV d a b l => 0x45#8 ++ 0x0#4 ++ d ++ a ++ b ++ l
  | .imadVs d a b l => 0x45#8 ++ 0x1#4 ++ d ++ a ++ b ++ l
  | .iandV d a b l => 0x46#8 ++ 0x0#4 ++ d ++ a ++ b ++ l
  | .iandVs d a b l => 0x46#8 ++ 0x1#4 ++ d ++ a ++ b ++ l
  | .iorV d a b l => 0x47#8 ++ 0x0#4 ++ d ++ a ++ b ++ l
  | .iorVs d a b l => 0x47#8 ++ 0x1#4 ++ d ++ a ++ b ++ l
  | .ixorV d a b l => 0x48#8 ++ 0x0#4 ++ d ++ a ++ b ++ l
  | .ixorVs d a b l => 0x48#8 ++ 0x1#4 ++ d ++ a ++ b ++ l
  | .iandnV d a b l => 0x49#8 ++ 0x0#4 ++ d ++ a ++ b ++ l
  | .iandnVs d a b l => 0x49#8 ++ 0x1#4 ++ d ++ a ++ b ++ l
  | .ishlV d a b l => 0x4A#8 ++ 0x0#4 ++ d ++ a ++ b ++ l
  | .ishlVs d a b l => 0x4A#8 ++ 0x1#4 ++ d ++ a ++ b ++ l
  | .ishrV d a b l => 0x4B#8 ++ 0x0#4 ++ d ++ a ++ b ++ l
  | .ishrVs d a b l => 0x4B#8 ++ 0x1#4 ++ d ++ a ++ b ++ l
  | .israV d a b l => 0x4C#8 ++ 0x0#4 ++ d ++ a ++ b ++ l
  | .israVs d a b l => 0x4C#8 ++ 0x1#4 ++ d ++ a ++ b ++ l
  | .iminV d a b l => 0x4D#8 ++ 0x0#4 ++ d ++ a ++ b ++ l
  | .iminVs d a b l => 0x4D#8 ++ 0x1#4 ++ d ++ a ++ b ++ l
  | .imaxV d a b l => 0x4E#8 ++ 0x0#4 ++ d ++ a ++ b ++ l
  | .imaxVs d a b l => 0x4E#8 ++ 0x1#4 ++ d ++ a ++ b ++ l
  | .iminNV d a b l => 0x4F#8 ++ 0x0#4 ++ d ++ a ++ b ++ l
  | .iminNVs d a b l => 0x4F#8 ++ 0x1#4 ++ d ++ a ++ b ++ l
  | .imaxNV d a b l => 0x50#8 ++ 0x0#4 ++ d ++ a ++ b ++ l
  | .imaxNVs d a b l => 0x50#8 ++ 0x1#4 ++ d ++ a ++ b ++ l
  | .iselV k d a b l => 0x51#8 ++ 0x0#1 ++ k ++ d ++ a ++ b ++ l
  | .iselVs k d a b l => 0x51#8 ++ 0x1#1 ++ k ++ d ++ a ++ b ++ l
  | .icmp c d a b => 0x52#8 ++ c ++ 0x0#3 ++ d ++ a ++ b ++ 0x0#2
  | .inot d a => 0x53#8 ++ 0x0#4 ++ d ++ a ++ 0x0#8
  | .iabs d a => 0x53#8 ++ 0x1#4 ++ d ++ a ++ 0x0#8
  | .ineg d a => 0x53#8 ++ 0x2#4 ++ d ++ a ++ 0x0#8
  | .ipopc d a => 0x53#8 ++ 0x3#4 ++ d ++ a ++ 0x0#8
  | .iclz d a => 0x53#8 ++ 0x4#4 ++ d ++ a ++ 0x0#8
  | .lanei d => 0x53#8 ++ 0x5#4 ++ d ++ 0x0#14
  | .ibfx d a b => 0x54#8 ++ 0x0#4 ++ d ++ a ++ b ++ 0x0#2
  | .ibfi d a b => 0x55#8 ++ 0x0#4 ++ d ++ a ++ b ++ 0x0#2
  | .vbc d b => 0x56#8 ++ 0x0#4 ++ d ++ 0x0#6 ++ b ++ 0x0#2
  | .shfl n d a b => 0x60#8 ++ n ++ d ++ a ++ b ++ 0x0#2
  | .bcast n d a b => 0x61#8 ++ n ++ d ++ a ++ b ++ 0x0#2
  | .vget n d a b => 0x62#8 ++ n ++ d ++ a ++ b ++ 0x0#2
  | .ballot n d a => 0x63#8 ++ n ++ d ++ 0x0#3 ++ a ++ 0x0#8
  | .matchv n d a => 0x64#8 ++ n ++ d ++ a ++ 0x0#8
  | .isect n d a b => 0x65#8 ++ n ++ d ++ a ++ b ++ 0x0#2
  | .cvt t d a f => 0x70#8 ++ t ++ d ++ a ++ f ++ 0x0#2
  | .narrow k d a => 0x71#8 ++ 0x0#2 ++ k ++ d ++ a ++ 0x0#8
  | .widen k d a => 0x72#8 ++ 0x0#2 ++ k ++ d ++ a ++ 0x0#8
  | .faddV d a b l => 0x80#8 ++ 0x0#4 ++ d ++ a ++ b ++ l
  | .faddVs d a b l => 0x80#8 ++ 0x1#4 ++ d ++ a ++ b ++ l
  | .fsubV d a b l => 0x81#8 ++ 0x0#4 ++ d ++ a ++ b ++ l
  | .fsubVs d a b l => 0x81#8 ++ 0x1#4 ++ d ++ a ++ b ++ l
  | .fmulV d a b l => 0x82#8 ++ 0x0#4 ++ d ++ a ++ b ++ l
  | .fmulVs d a b l => 0x82#8 ++ 0x1#4 ++ d ++ a ++ b ++ l
  | .ffmaV d a b l => 0x83#8 ++ 0x0#4 ++ d ++ a ++ b ++ l
  | .ffmaVs d a b l => 0x83#8 ++ 0x1#4 ++ d ++ a ++ b ++ l
  | .ffmsV d a b l => 0x84#8 ++ 0x0#4 ++ d ++ a ++ b ++ l
  | .ffmsVs d a b l => 0x84#8 ++ 0x1#4 ++ d ++ a ++ b ++ l
  | .fnmaV d a b l => 0x85#8 ++ 0x0#4 ++ d ++ a ++ b ++ l
  | .fnmaVs d a b l => 0x85#8 ++ 0x1#4 ++ d ++ a ++ b ++ l
  | .fminV d a b l => 0x86#8 ++ 0x0#4 ++ d ++ a ++ b ++ l
  | .fminVs d a b l => 0x86#8 ++ 0x1#4 ++ d ++ a ++ b ++ l
  | .fmaxV d a b l => 0x87#8 ++ 0x0#4 ++ d ++ a ++ b ++ l
  | .fmaxVs d a b l => 0x87#8 ++ 0x1#4 ++ d ++ a ++ b ++ l
  | .fabs d a => 0x88#8 ++ 0x0#4 ++ d ++ a ++ 0x0#8
  | .fneg d a => 0x88#8 ++ 0x1#4 ++ d ++ a ++ 0x0#8
  | .fclass d a => 0x88#8 ++ 0x2#4 ++ d ++ a ++ 0x0#8
  | .frnd d a => 0x88#8 ++ 0x3#4 ++ d ++ a ++ 0x0#8
  | .fcmp c d a b => 0x89#8 ++ c ++ 0x0#3 ++ d ++ a ++ b ++ 0x0#2
  | .frcp n d a => 0x8A#8 ++ n ++ d ++ a ++ 0x0#8
  | .frsq n d a => 0x8B#8 ++ n ++ d ++ a ++ 0x0#8
  | .fsqrt n d a => 0x8C#8 ++ n ++ d ++ a ++ 0x0#8
  | .fdiv n d a b => 0x8D#8 ++ n ++ d ++ a ++ b ++ 0x0#2
  | .fexp2 n d a => 0x8E#8 ++ n ++ d ++ a ++ 0x0#8
  | .flog2 n d a => 0x8F#8 ++ n ++ d ++ a ++ 0x0#8
  | .fexp n d a => 0x90#8 ++ n ++ d ++ a ++ 0x0#8
  | .flog n d a => 0x91#8 ++ n ++ d ++ a ++ 0x0#8
  | .fsinpi n d a => 0x92#8 ++ n ++ d ++ a ++ 0x0#8
  | .fcospi n d a => 0x93#8 ++ n ++ d ++ a ++ 0x0#8
  | .rng n d a b => 0x94#8 ++ n ++ d ++ a ++ b ++ 0x0#2
  | .rfadd d a b l => 0xB0#8 ++ 0x0#4 ++ d ++ a ++ b ++ l
  | .unfadd d a b => 0xB0#8 ++ 0x1#4 ++ d ++ a ++ b ++ 0x0#2
  | .rfmul d a b l => 0xB1#8 ++ 0x0#4 ++ d ++ a ++ b ++ l
  | .unfmul d a b => 0xB1#8 ++ 0x1#4 ++ d ++ a ++ b ++ 0x0#2
  | .rfma d a b l => 0xB2#8 ++ 0x0#4 ++ d ++ a ++ b ++ l
  | .unfma d a b => 0xB2#8 ++ 0x1#4 ++ d ++ a ++ b ++ 0x0#2
  | .rnarrow d a => 0xB3#8 ++ 0x0#4 ++ d ++ a ++ 0x0#8
  | .unnarrow d a => 0xB3#8 ++ 0x1#4 ++ d ++ a ++ 0x0#8
  | .rshr d a b => 0xB4#8 ++ 0x0#4 ++ d ++ a ++ b ++ 0x0#2
  | .unshr d a b => 0xB4#8 ++ 0x1#4 ++ d ++ a ++ b ++ 0x0#2
  | .rimul d a b l => 0xB5#8 ++ 0x0#4 ++ d ++ a ++ b ++ l
  | .unimul d a b => 0xB5#8 ++ 0x1#4 ++ d ++ a ++ b ++ 0x0#2
  | .riadd d a b l => 0xB6#8 ++ 0x0#4 ++ d ++ a ++ b ++ l
  | .unniadd d a b => 0xB6#8 ++ 0x1#4 ++ d ++ a ++ b ++ 0x0#2
  | .rmax0 d a => 0xB7#8 ++ 0x0#4 ++ d ++ a ++ 0x0#8
  | .unmax0 d a => 0xB7#8 ++ 0x1#4 ++ d ++ a ++ 0x0#8
  | .rsmark a => 0xB8#8 ++ 0x0#9 ++ a ++ 0x0#6
  | .unmark a => 0xB9#8 ++ 0x0#9 ++ a ++ 0x0#6
  | .rsdrop a => 0xBA#8 ++ 0x0#9 ++ a ++ 0x0#6
  | .rsdep d => 0xBB#8 ++ d ++ 0x0#15
  | .ldB n d a b h => 0xC0#8 ++ n ++ d ++ a ++ b ++ h
  | .ldBs n d a b h => 0xC1#8 ++ n ++ d ++ a ++ b ++ h
  | .ldH n d a b h => 0xC2#8 ++ n ++ d ++ a ++ b ++ h
  | .ldHs n d a b h => 0xC3#8 ++ n ++ d ++ a ++ b ++ h
  | .ldW n d a b h => 0xC4#8 ++ n ++ d ++ a ++ b ++ h
  | .ldAcqW n d a b => 0xC4#8 ++ n ++ d ++ a ++ b ++ 0x2#2
  | .ldD n d a b h => 0xC5#8 ++ n ++ d ++ a ++ b ++ h
  | .ldQ n d a b h => 0xC6#8 ++ n ++ d ++ a ++ b ++ h
  | .stB d a b h => 0xC7#8 ++ 0x0#4 ++ d ++ a ++ b ++ h
  | .stH d a b h => 0xC8#8 ++ 0x0#4 ++ d ++ a ++ b ++ h
  | .stW d a b h => 0xC9#8 ++ 0x0#4 ++ d ++ a ++ b ++ h
  | .stRelW d a b => 0xC9#8 ++ 0x0#4 ++ d ++ a ++ b ++ 0x2#2
  | .stD d a b h => 0xCA#8 ++ 0x0#4 ++ d ++ a ++ b ++ h
  | .stQ d a b h => 0xCB#8 ++ 0x0#4 ++ d ++ a ++ b ++ h
  | .sldW n d a b h => 0xCC#8 ++ n ++ d ++ a ++ b ++ h
  | .sldAcq n d a b => 0xCC#8 ++ n ++ d ++ a ++ b ++ 0x2#2
  | .sldWPhys n d a b => 0xCC#8 ++ n ++ d ++ a ++ b ++ 0x1#2
  | .sldD n d a b h => 0xCD#8 ++ n ++ d ++ a ++ b ++ h
  | .sstW d a b h => 0xCE#8 ++ 0x0#4 ++ d ++ a ++ b ++ h
  | .sstRel d a b => 0xCE#8 ++ 0x0#4 ++ d ++ a ++ b ++ 0x2#2
  | .sstWPhys d a b => 0xCE#8 ++ 0x0#4 ++ d ++ a ++ b ++ 0x1#2
  | .sstD d a b h => 0xCF#8 ++ 0x0#4 ++ d ++ a ++ b ++ h
  | .atom n d a r o h => 0xD0#8 ++ n ++ d ++ a ++ 0x0#1 ++ r ++ o ++ h
  | .satom n d r o b h => 0xD1#8 ++ n ++ d ++ 0x0#1 ++ r ++ o ++ b ++ h
  | .fenceRel s => 0xD2#8 ++ 0x8#13 ++ s ++ 0x0#8
  | .fenceAcq s => 0xD2#8 ++ 0x10#13 ++ s ++ 0x0#8
  | .fenceAr s => 0xD2#8 ++ 0x18#13 ++ s ++ 0x0#8
  | .wata d a b => 0xD3#8 ++ 0x0#4 ++ d ++ a ++ b ++ 0x0#2
  | .wake b => 0xD4#8 ++ 0x0#16 ++ b ++ 0x0#2
  | .zfill a b => 0xD5#8 ++ 0x0#10 ++ a ++ b ++ 0x0#2
  | .pf a b => 0xD6#8 ++ 0x0#10 ++ a ++ b ++ 0x0#2
  | .pfL2 a b => 0xD6#8 ++ 0x0#10 ++ a ++ b ++ 0x1#2
  | .cpy4 n g p d => 0xE0#8 ++ n ++ g ++ p ++ d ++ 0x0#2
  | .cpy8 n g p d => 0xE0#8 ++ n ++ g ++ p ++ d ++ 0x1#2
  | .cpy16 n g p d => 0xE0#8 ++ n ++ g ++ p ++ d ++ 0x2#2
  | .bcpy n g p d => 0xE1#8 ++ n ++ g ++ p ++ d ++ 0x0#2
  | .wcpy n g p d => 0xE2#8 ++ n ++ g ++ p ++ d ++ 0x0#2
  | .mcast n g p d => 0xE3#8 ++ n ++ g ++ p ++ d ++ 0x0#2
  | .gath n g p d => 0xE4#8 ++ n ++ g ++ p ++ d ++ 0x0#2
  | .czero n g p d => 0xE5#8 ++ n ++ g ++ p ++ d ++ 0x0#2
  | .wldS n g p d => 0xE6#8 ++ n ++ g ++ p ++ d ++ 0x0#2
  | .wldG n g p d => 0xE6#8 ++ n ++ g ++ p ++ d ++ 0x1#2
  | .mma n g p d => 0xE7#8 ++ n ++ g ++ p ++ d ++ 0x0#2
  | .mloop n g p d => 0xE8#8 ++ n ++ g ++ p ++ d ++ 0x0#2
  | .mrec n g p d => 0xE9#8 ++ n ++ g ++ p ++ d ++ 0x0#2
  | .accrd n g p d => 0xEA#8 ++ n ++ g ++ p ++ d ++ 0x0#2
  | .accwr n g p d => 0xEA#8 ++ n ++ g ++ p ++ d ++ 0x1#2
  | .accz n g p d => 0xEA#8 ++ n ++ g ++ p ++ d ++ 0x2#2
  | .mstat n p d => 0xEB#8 ++ n ++ 0x0#3 ++ p ++ d ++ 0x0#2
  | .collAr n g p d => 0xEC#8 ++ n ++ g ++ p ++ d ++ 0x0#2
  | .collRs n g p d => 0xEC#8 ++ n ++ g ++ p ++ d ++ 0x1#2
  | .collAg n g p d => 0xEC#8 ++ n ++ g ++ p ++ d ++ 0x2#2
  | .pnset k a => 0xED#8 ++ k ++ a ++ 0x0#6
  | .pnclr k => 0xEE#8 ++ k ++ 0x0#15
  | .gearSwitchComplete => 0
  | .remainderSpill => 0
  | .remainderRefill => 0
  | .fenceWaitComplete => 0
  | .wataUnpark => 0
  | .wataBudgetExpiry => 0
  | .handonWaitResume => 0
  | .windowWriteArrival _ _ => 0
  | .copyLineStart => 0
  | .copyComplete => 0
  | .mtxReservationPost => 0
  | .matrixPassGrant => 0
  | .matrixPassComplete => 0
  | .mtxSlewWindow => 0
  | .collExchange => 0
  | .collComplete => 0
  | .storeHomeArrival => 0
  | .storeApply => 0
  | .storeCompletionReturn => 0
  | .completionListExpiry => 0
  | .atomicHome => 0
  | .loadHomeRead => 0
  | .loadReturn => 0
  | .l1LeaseExpiry => 0
  | .ifetchMissFill => 0
  | .pageWalk => 0
  | .zeroPageClear => 0
  | .detDrain => 0
  | .forcedDrain => 0
  | .barrierArrivalRegister => 0
  | .barrierRelease => 0
  | .tileSink => 0
  | .bannerLift => 0
  | .grovePlacement => 0
  | .gangActivate => 0
  | .gangExchange => 0
  | .forcedExchange => 0
  | .groveRetire => 0
  | .launchAdmission => 0
  | .afterWordPoll => 0
  | .launchDrainComplete => 0
  | .ctxStart => 0
  | .ctxStop => 0
  | .ctxSaveComplete => 0
  | .ctxResume => 0
  | .ctxRestoreComplete => 0
  | .ctxKill => 0
  | .ctxKillComplete => 0
  | .ctxUpdate => 0
  | .ctxRelease => 0
  | .faultQueuePost => 0
  | .fqResume => 0
  | .fqDecline => 0
  | .fqInvalidate => 0
  | .fqInvalidateAck => 0
  | .fqKill => 0
  | .cclkWrite _ _ => 0
  | .cclkRelockComplete => 0
  | .clusterPowerWrite _ _ => 0
  | .cadenceStep => 0
  | .slackRecordWrite _ _ _ _ _ => 0
  | .slackRound _ _ => 0
  | .dormantRequest => 0
  | .dormantSeal => 0
  | .dormantWake => 0
  | .wakeComplete => 0
  | .logLineWrite => 0
  | .logGroupTimeout => 0
  | .deviceReset => 0
  | .mbExtend => 0
  | .mbReport => 0
  | .reportComplete => 0
  | .linkTrained _ => 0
  | .linkTrainDegraded _ => 0
  | .linkTrainTimeout _ => 0
  | .linkDownRetry _ => 0
  | .linkLaneLost _ => 0
  | .linkLanesRetrained _ => 0
  | .linkLanesBelowHalf _ => 0
  | .hostAccess _ => 0
  | .domainRequest _ => 0
  | .ethFrameReceive _ _ => 0
  | .ethRetransmitTimeout _ => 0
  | .ethPeerLost _ => 0
  | .ptpSync _ => 0
  | .registerWrite _ _ _ => 0
  | .illegalInstruction w => w
  | .hostStoreAcknowledge => 0
  | .longLatencyResultReturn => 0

end Sys2Proof
end

