-- ==== Sys2Proof/Machine/Num.lean ====
section
/-!
DEFINITION. Number formats and exact arithmetic (spec/04_formats.md): values are formed exactly and rounded once, as R70
says, into FP32, FP16, BF16, the binary8 variants and the integer types.
-/

namespace Sys2Proof.Num

/-! ## Flags and rounding modes -/

/-- The flags one operation raises, in the FPST layout of Table 3.7: [5] RL, [4] NX, [3] UF, [2] OF, [1] DZ, [0] NV. -/
abbrev Flags := BitVec 6

def nv : Flags := 0x01
def dz : Flags := 0x02
def ovf : Flags := 0x04
def unf : Flags := 0x08
def nx : Flags := 0x10
def rl : Flags := 0x20

/-- The rounding modes of MODE.RM (R70, Table 3.3). -/
inductive Rm where
  | rne | rz | rd | ru | rna
  deriving DecidableEq, Repr

/-- The mode a code of MODE.RM names. Codes 5 to 7 are never in MODE (R52). -/
def Rm.ofCode : Nat → Rm
  | 0 => .rne
  | 1 => .rz
  | 2 => .rd
  | 3 => .ru
  | _ => .rna

/-! ## Values -/

/-- A floating-point value: a NaN, signalling or quiet; an infinity; or the number `(-1)^neg * mag * 2^exp`. -/
inductive Fv where
  | nan (signalling : Bool)
  | inf (neg : Bool)
  | fin (neg : Bool) (mag : Nat) (exp : Int)
  deriving DecidableEq, Repr

namespace Fv

def isNan : Fv → Bool
  | .nan _ => true
  | _ => false

def isSignalling : Fv → Bool
  | .nan s => s
  | _ => false

def isInf : Fv → Bool
  | .inf _ => true
  | _ => false

def isZero : Fv → Bool
  | .fin _ 0 _ => true
  | _ => false

def isFinite : Fv → Bool
  | .fin .. => true
  | _ => false

def neg : Fv → Bool
  | .nan _ => false
  | .inf s => s
  | .fin s _ _ => s

def negate : Fv → Fv
  | .nan s => .nan s
  | .inf s => .inf (!s)
  | .fin s m e => .fin (!s) m e

end Fv

/-- An exact dyadic number `m * 2^e`. -/
structure Dy where
  m : Int
  e : Int
  deriving DecidableEq, Repr

namespace Dy

/-- The exact number `(-1)^neg * mag * 2^e`. -/
def ofSign (neg : Bool) (mag : Nat) (e : Int) : Dy := ⟨if neg then -(mag : Int) else mag, e⟩

/-- `m` scaled to the exponent `e`, which is at most its own. -/
def scaled (x : Dy) (e : Int) : Int := x.m * (2 ^ (x.e - e).toNat : Nat)

def add (x y : Dy) : Dy :=
  let e := min x.e y.e
  ⟨x.scaled e + y.scaled e, e⟩

def sub (x y : Dy) : Dy := x.add ⟨-y.m, y.e⟩

def mul (x y : Dy) : Dy := ⟨x.m * y.m, x.e + y.e⟩

/-- -1, 0 or 1 as `x` is below, equal to or above `y`. -/
def cmp (x y : Dy) : Int := (x.sub y).m.sign

end Dy

/-- The exact number of a finite value; 0 for any other. -/
def Fv.dy : Fv → Dy
  | .fin s m e => Dy.ofSign s m e
  | _ => ⟨0, 0⟩

/-! ## Rounding -/

/-- A binary format: precision with the implicit bit, smallest normal exponent. -/
structure Fmt where
  prec : Nat
  emin : Int
  deriving DecidableEq, Repr

def fp32 : Fmt := ⟨24, -126⟩
def fp16 : Fmt := ⟨11, -14⟩
def bf16 : Fmt := ⟨8, -126⟩

/-- Number of bits of a positive number, 0 for 0. -/
def bitLen (n : Nat) : Nat := if n = 0 then 0 else Nat.log2 n + 1

/-- R70: `mag / 2^sh` rounded to an integer under `rm`, for a number of sign `neg`. -/
def roundShift (rm : Rm) (neg : Bool) (mag sh : Nat) : Nat :=
  let q := mag / 2 ^ sh
  let r := mag % 2 ^ sh
  let up : Bool :=
    match rm with
    | .rne => decide (2 * r > 2 ^ sh) || (decide (2 * r = 2 ^ sh) && q % 2 == 1)
    | .rna => decide (2 * r ≥ 2 ^ sh)
    | .rz => false
    | .rd => neg && decide (r ≠ 0)
    | .ru => !neg && decide (r ≠ 0)
  if sh ≠ 0 ∧ up then q + 1 else q

/-- What rounding a non-zero number gives: `n * 2^ue`, whether it differs from the exact number, and whether it is tiny. -/
structure Rounded where
  n : Nat
  ue : Int
  inexact : Bool
  tiny : Bool
  deriving DecidableEq, Repr

/-- The number `mag * 2^e` rounded at the spacing `2^ue`. -/
def roundAt (rm : Rm) (neg : Bool) (mag : Nat) (e ue : Int) : Nat × Bool :=
  if ue ≤ e then (mag * 2 ^ (e - ue).toNat, false)
  else
    let sh := (ue - e).toNat
    (roundShift rm neg mag sh, mag % 2 ^ sh ≠ 0)

/-- R70: rounding to a format with the exponent unbounded above and subnormals below. Tininess is judged after rounding to
the precision of the format with an unbounded exponent. -/
def roundTo (f : Fmt) (rm : Rm) (neg : Bool) (mag : Nat) (e : Int) : Rounded :=
  let lead : Int := e + (bitLen mag : Int) - 1
  let free : Int := lead - (f.prec - 1 : Nat)
  let ue : Int := max free (f.emin - (f.prec - 1 : Nat))
  let r := roundAt rm neg mag e ue
  let u := roundAt rm neg mag e free
  { n := r.1, ue := ue, inexact := r.2,
    tiny := mag ≠ 0 && decide (lead < f.emin) &&
      (decide (u.1 < 2 ^ f.prec) || decide (lead + 1 < f.emin)) }

/-- Whether `n * 2^ue` is at least `2^k`. -/
def atLeastPow (n : Nat) (ue k : Int) : Bool := decide ((bitLen n : Int) + ue > k)

/-! ## IEEE formats (Table 4.2) -/

/-- The layout of an IEEE format: exponent bits and fraction bits. -/
structure Ieee where
  ebits : Nat
  fbits : Nat
  deriving DecidableEq, Repr

def ieee32 : Ieee := ⟨8, 23⟩
def ieee16 : Ieee := ⟨5, 10⟩
def ieeeBf : Ieee := ⟨8, 7⟩

namespace Ieee

def bias (f : Ieee) : Int := 2 ^ (f.ebits - 1) - 1
def fmt (f : Ieee) : Fmt := ⟨f.fbits + 1, 1 - f.bias⟩
def emaxCode (f : Ieee) : Nat := 2 ^ f.ebits - 1
def signBit (f : Ieee) (neg : Bool) : Nat := if neg then 2 ^ (f.ebits + f.fbits) else 0
def infCode (f : Ieee) (neg : Bool) : Nat := f.signBit neg + f.emaxCode * 2 ^ f.fbits
def maxCode (f : Ieee) (neg : Bool) : Nat := f.infCode neg - 1
/-- The canonical NaN (Table 4.2). -/
def nanCode (f : Ieee) : Nat := f.infCode false + 2 ^ (f.fbits - 1)

/-- R68: the value of a code. -/
def decode (f : Ieee) (c : Nat) : Fv :=
  let frac := c % 2 ^ f.fbits
  let ex := c / 2 ^ f.fbits % 2 ^ f.ebits
  let neg := c / 2 ^ (f.ebits + f.fbits) % 2 == 1
  if ex = f.emaxCode then
    if frac = 0 then .inf neg else .nan (frac / 2 ^ (f.fbits - 1) == 0)
  else if ex = 0 then .fin neg frac (1 - f.bias - f.fbits)
  else .fin neg (frac + 2 ^ f.fbits) (ex - f.bias - f.fbits)

/-- The code of `n * 2^ue` as `roundTo` leaves it, which does not exceed max finite. -/
def code (f : Ieee) (neg : Bool) (n : Nat) (ue : Int) : Nat :=
  let (n, ue) := if n ≥ 2 ^ (f.fbits + 1) then (n / 2, ue + 1) else (n, ue)
  if n < 2 ^ f.fbits then f.signBit neg + n
  else f.signBit neg + (ue + f.bias + f.fbits).toNat * 2 ^ f.fbits + (n - 2 ^ f.fbits)

/-- Table 4.3, row OF: what an overflow gives under each mode. -/
def overflow (f : Ieee) (rm : Rm) (neg : Bool) : Nat :=
  match rm, neg with
  | .rne, _ => f.infCode neg
  | .rna, _ => f.infCode neg
  | .rz, _ => f.maxCode neg
  | .rd, true => f.infCode true
  | .rd, false => f.maxCode false
  | .ru, true => f.maxCode true
  | .ru, false => f.infCode false

/-- R70, R71, Table 4.3: the non-zero number `(-1)^neg * mag * 2^e` rounded into the format, with its flags. `ftz` flushes a
tiny result. -/
def round (f : Ieee) (rm : Rm) (ftz : Bool) (neg : Bool) (mag : Nat) (e : Int) : Nat × Flags :=
  if mag = 0 then (f.signBit neg, 0)
  else
    let r := roundTo f.fmt rm neg mag e
    if atLeastPow r.n r.ue (f.bias + 1) then (f.overflow rm neg, ovf ||| nx)
    else if ftz && r.tiny then (f.signBit neg, unf ||| nx)
    else (f.code neg r.n r.ue,
      (if r.inexact then nx else 0) ||| (if r.tiny && r.inexact then unf else 0))

end Ieee

/-! ## FP32 arithmetic -/

/-- The value of an FP32 word. -/
def val (w : Word) : Fv := ieee32.decode w.toNat

/-- R71: a subnormal FP32 operand reads as a zero of its sign under FTZ. -/
def operand (ftz : Bool) (w : Word) : Fv :=
  match val w with
  | .fin s m e => if ftz && decide (m < 2 ^ 23) then .fin s 0 e else .fin s m e
  | v => v

/-- Whether FTZ replaces the operand: a subnormal word under FTZ. -/
def flushed (ftz : Bool) (w : Word) : Bool :=
  match val w with
  | .fin _ m _ => ftz && decide (m ≠ 0) && decide (m < 2 ^ 23)
  | _ => false

def canonicalNan : Word := 0x7FC00000

def infWord (neg : Bool) : Word := if neg then 0xFF800000 else 0x7F800000

def zeroWord (neg : Bool) : Word := if neg then 0x80000000 else 0

/-- A result word with the flags it raises. -/
structure Res where
  w : Word
  fl : Flags
  deriving DecidableEq, Repr

/-- The mode fields an FP operation reads: RM, FTZ and SAT (R70, R71). -/
structure Env where
  rm : Rm
  ftz : Bool
  sat : Bool
  deriving DecidableEq, Repr

/-- FP32 rounding of a non-zero exact number. -/
def round32 (env : Env) (neg : Bool) (mag : Nat) (e : Int) : Res :=
  let r := ieee32.round env.rm env.ftz neg mag e
  ⟨BitVec.ofNat 32 r.1, r.2⟩

/-- R69: NV if any operand is a signalling NaN. -/
def sigFlags (vs : List Fv) : Flags := if vs.any Fv.isSignalling then nv else 0

/-- R142: the sign of an exact zero sum. -/
def zeroSumSign (rm : Rm) (a b : Bool) : Bool := if a = b then a else rm = .rd

/-- R69, R142: the sum of two values rounded once. -/
def addV (env : Env) (a b : Fv) : Res :=
  if a.isNan || b.isNan then ⟨canonicalNan, sigFlags [a, b]⟩
  else
    match a, b with
    | .inf s, .inf t => if s = t then ⟨infWord s, 0⟩ else ⟨canonicalNan, nv⟩
    | .inf s, _ => ⟨infWord s, 0⟩
    | _, .inf t => ⟨infWord t, 0⟩
    | _, _ =>
      let x := a.dy.add b.dy
      if x.m = 0 then ⟨zeroWord (zeroSumSign env.rm a.neg b.neg), 0⟩
      else round32 env (x.m < 0) x.m.natAbs x.e

/-- The exact product of two values that are not NaN, or none for 0 times infinity. -/
def mulExact (a b : Fv) : Option Fv :=
  let s := a.neg != b.neg
  match a, b with
  | .fin _ m e, .fin _ n f => some (.fin s (m * n) (e + f))
  | _, _ => if a.isZero || b.isZero then none else some (.inf s)

def mulV (env : Env) (a b : Fv) : Res :=
  if a.isNan || b.isNan then ⟨canonicalNan, sigFlags [a, b]⟩
  else
    match mulExact a b with
    | none => ⟨canonicalNan, nv⟩
    | some (.fin s m e) => if m = 0 then ⟨zeroWord s, 0⟩ else round32 env s m e
    | some v => ⟨infWord v.neg, 0⟩

/-- R69, R142: a fused product and sum, with the product negated when `np` and the addend when `na`. A product of 0 and
infinity raises NV whatever the addend holds. -/
def fmaV (env : Env) (np na : Bool) (a b d : Fv) : Res :=
  if a.isNan || b.isNan then ⟨canonicalNan, sigFlags [a, b, d]⟩
  else
    match mulExact a b with
    | none => ⟨canonicalNan, nv⟩
    | some p =>
      if d.isNan then ⟨canonicalNan, sigFlags [d]⟩
      else addV env (if np then p.negate else p) (if na then d.negate else d)

/-- R145: IEEE division. -/
def divV (env : Env) (a b : Fv) : Res :=
  let s := a.neg != b.neg
  if a.isNan || b.isNan then ⟨canonicalNan, sigFlags [a, b]⟩
  else
    match a, b with
    | .inf _, .inf _ => ⟨canonicalNan, nv⟩
    | .inf _, _ => ⟨infWord s, 0⟩
    | _, .inf _ => ⟨zeroWord s, 0⟩
    | .fin _ m e, .fin _ n f =>
      if n = 0 then if m = 0 then ⟨canonicalNan, nv⟩ else ⟨infWord s, dz⟩
      else if m = 0 then ⟨zeroWord s, 0⟩
      else
        let q := m * 2 ^ 64 / n
        let sticky := if m * 2 ^ 64 % n = 0 then 0 else 1
        round32 env s (2 * q + sticky) (e - f - 65)
    | _, _ => ⟨canonicalNan, 0⟩

/-- The integer square root by bits, `k` of them still to settle. -/
def isqrtAux (n : Nat) : Nat → Nat → Nat
  | 0, r => r
  | k + 1, r => isqrtAux n k (if (r + 2 ^ k) * (r + 2 ^ k) ≤ n then r + 2 ^ k else r)

/-- The floor of the square root. -/
def isqrt (n : Nat) : Nat := isqrtAux n (bitLen n / 2 + 1) 0

/-- R85, R86: the correctly rounded square root. -/
def sqrtV (env : Env) (a : Fv) : Res :=
  match a with
  | .nan s => ⟨canonicalNan, if s then nv else 0⟩
  | .inf s => if s then ⟨canonicalNan, nv⟩ else ⟨infWord false, 0⟩
  | .fin s m e =>
    if m = 0 then ⟨zeroWord s, 0⟩
    else if s then ⟨canonicalNan, nv⟩
    else
      let (m, e) := if e % 2 = 0 then (m, e) else (2 * m, e - 1)
      let n := m * 2 ^ 64
      let q := isqrt n
      round32 env false (2 * q + (if q * q = n then 0 else 1)) (e / 2 - 33)

/-- R85, R86: the reciprocal square root, correctly rounded to nearest with ties to even. -/
def rsqrtV (ftz : Bool) (a : Fv) : Res :=
  match a with
  | .nan s => ⟨canonicalNan, if s then nv else 0⟩
  | .inf s => if s then ⟨canonicalNan, nv⟩ else ⟨zeroWord false, 0⟩
  | .fin s m e =>
    if m = 0 then ⟨infWord s, dz⟩
    else if s then ⟨canonicalNan, nv⟩
    else
      let (m, e) := if e % 2 = 0 then (m, e) else (2 * m, e - 1)
      let n := 2 ^ 160
      let q := isqrt (n / m)
      round32 ⟨.rne, ftz, false⟩ false (2 * q + (if q * q * m = n then 0 else 1)) (-(e / 2) - 81)

/-- Whether `a` orders below `b` (neither NaN), with -0 below +0 when `zeros`. -/
def ltV (zeros : Bool) (a b : Fv) : Bool :=
  match a, b with
  | .inf s, .inf t => s && !t
  | .inf s, _ => s
  | _, .inf t => !t
  | _, _ => decide (a.dy.cmp b.dy < 0) || (zeros && a.isZero && b.isZero && a.neg && !b.neg)

/-- Whether `a` and `b` compare equal (neither NaN). -/
def eqV (a b : Fv) : Bool := !ltV false a b && !ltV false b a

/-- The word of a value that is an FP32 number, infinity or NaN already. -/
def word32 (v : Fv) : Word :=
  match v with
  | .nan _ => canonicalNan
  | .inf s => infWord s
  | .fin s m e => if m = 0 then zeroWord s else BitVec.ofNat 32 (ieee32.round .rne false s m e).1

/-- R81: minimumNumber, or maximumNumber when `mx`. -/
def minmaxV (mx : Bool) (a b : Fv) : Res :=
  let fl := sigFlags [a, b]
  if a.isNan && b.isNan then ⟨canonicalNan, fl⟩
  else if a.isNan then ⟨word32 b, fl⟩
  else if b.isNan then ⟨word32 a, fl⟩
  else
    let low := if ltV true b a then b else a
    let high := if ltV true b a then a else b
    ⟨word32 (if mx then high else low), 0⟩

/-! ## Rounding to integers -/

/-- The finite number rounded to an integer under `rm`, and whether that changed it. -/
def toInteger (rm : Rm) (neg : Bool) (mag : Nat) (e : Int) : Int × Bool :=
  let r := roundAt rm neg mag e 0
  (if neg then -(r.1 : Int) else r.1, r.2)

/-- R143: rounding to an integral FP32 value. -/
def rintV (rm : Rm) (a : Fv) : Res :=
  match a with
  | .nan s => ⟨canonicalNan, if s then nv else 0⟩
  | .inf s => ⟨infWord s, 0⟩
  | .fin s m e =>
    let r := roundAt rm s m e 0
    ⟨if r.1 = 0 then zeroWord s else word32 (.fin s r.1 0), if r.2 then nx else 0⟩

/-- R80: conversion of a floating-point value to an integer in `[lo, hi]`. -/
def toIntRange (rm : Rm) (lo hi : Int) (a : Fv) : Int × Flags :=
  match a with
  | .nan _ => (0, nv)
  | .inf s => (if s then lo else hi, nv)
  | .fin s m e =>
    let r := toInteger rm s m e
    if r.1 < lo then (lo, nv)
    else if r.1 > hi then (hi, nv)
    else (r.1, if r.2 then nx else 0)

/-- R80: an exact integer rounded once into FP32. -/
def ofInt (rm : Rm) (i : Int) : Res := round32 ⟨rm, false, false⟩ (i < 0) i.natAbs 0

/-! ## Element types (Tables 3.4, 4.1, 7.8) -/

/-- Whether an element-type code is unsigned (R65). -/
def etUnsigned (et : Nat) : Bool := et == 1 || et == 6 || et == 8 || et == 10

/-- Bits of an integer element type, `none` for any other code (Table 4.1). -/
def etIntBits : Nat → Option Nat
  | 0 => some 32
  | 1 => some 32
  | 5 => some 16
  | 6 => some 16
  | 7 => some 8
  | 8 => some 8
  | 9 => some 4
  | 10 => some 4
  | _ => none

/-- Table 4.1: the range of an integer type; R65: the signed 32-bit range for a code that names none. -/
def etRange (et : Nat) : Int × Int :=
  match etIntBits et with
  | some b => if etUnsigned et then (0, 2 ^ b - 1) else (-(2 ^ (b - 1)), 2 ^ (b - 1) - 1)
  | none => (-(2 ^ 31), 2 ^ 31 - 1)

/-- R136: the word read as the element type's signedness has it. -/
def readInt (et : Nat) (w : Word) : Int := if etUnsigned et then (w.toNat : Int) else w.toInt

/-- R136: an exact result clamped to the range of ET, as a word. -/
def clampEt (et : Nat) (r : Int) : Word :=
  let (lo, hi) := etRange et
  BitVec.ofInt 32 (min (max r lo) hi)

/-! ## The binary8 family (R74-R77) -/

/-- A binary8 variant: precision, unsigned, extended domain. -/
structure B8 where
  p : Nat
  unsigned : Bool
  extended : Bool
  deriving DecidableEq, Repr

/-- Table 3.4: the variant of an element-type code; SC8 (60) is `b8p4uf` (R77). -/
def B8.ofCode (et : Nat) : Option B8 :=
  if et = 60 then some ⟨4, true, false⟩
  else if 32 ≤ et ∧ et ≤ 59 then
    some ⟨(et - 32) / 4 + 1, (et - 32) / 2 % 2 == 1, (et - 32) % 2 == 1⟩
  else none

namespace B8

def w (v : B8) : Nat := if v.unsigned then 9 - v.p else 8 - v.p
def bias (v : B8) : Int := 2 ^ (v.w - 1)
def fmt (v : B8) : Fmt := ⟨v.p, 1 - v.bias⟩
def nanCode (v : B8) : Nat := if v.unsigned then 0xFF else 0x80
def infCode (v : B8) (neg : Bool) : Nat := if v.unsigned then 0xFE else if neg then 0xFF else 0x7F
/-- R75: the max finite code of a sign. -/
def maxCode (v : B8) (neg : Bool) : Nat :=
  let m := if v.unsigned then (if v.extended then 0xFD else 0xFE) else (if v.extended then 0x7E else 0x7F)
  if neg then m + 0x80 else m

/-- R74: the value of a code. -/
def decode (v : B8) (c : Nat) : Fv :=
  if c = 0 then .fin false 0 0
  else if c = v.nanCode then .nan false
  else if v.extended && (c == v.infCode false) then .inf false
  else if v.extended && !v.unsigned && (c == 0xFF) then .inf true
  else
    let neg := !v.unsigned && decide (c ≥ 128)
    let c := if v.unsigned then c else c % 128
    let f := c % 2 ^ (v.p - 1)
    let e := c / 2 ^ (v.p - 1)
    if e = 0 then .fin neg f (1 - v.bias - (v.p - 1 : Nat))
    else .fin neg (f + 2 ^ (v.p - 1)) ((e : Int) - v.bias - (v.p - 1 : Nat))

/-- The code of `n * 2^ue` as `roundTo` leaves it, not beyond max finite and not zero. -/
def code (v : B8) (neg : Bool) (n : Nat) (ue : Int) : Nat :=
  let (n, ue) := if n ≥ 2 ^ v.p then (n / 2, ue + 1) else (n, ue)
  let c := if n < 2 ^ (v.p - 1) then n
    else (ue + v.bias + (v.p - 1 : Nat)).toNat * 2 ^ (v.p - 1) + (n - 2 ^ (v.p - 1))
  if neg then c + 128 else c

/-- Table 4.3, row OF, with max finite of the variant and sign. -/
def overflow (v : B8) (rm : Rm) (neg : Bool) : Nat :=
  match rm, neg with
  | .rne, _ => v.infCode neg
  | .rna, _ => v.infCode neg
  | .rz, _ => v.maxCode neg
  | .rd, true => v.infCode true
  | .rd, false => v.maxCode false
  | .ru, true => v.maxCode true
  | .ru, false => v.infCode false

/-- R76: conversion into a binary8 variant. -/
def convert (v : B8) (rm : Rm) (sat : Bool) (x : Fv) : Nat × Flags :=
  match x with
  | .nan s => (v.nanCode, if s then nv else 0)
  | .inf s =>
    if v.unsigned && s then if sat then (0, nx) else (v.nanCode, nv)
    else if v.extended then (v.infCode s, 0)
    else (if sat then v.maxCode s else v.nanCode, nv)
  | .fin s m e =>
    if m = 0 then (0, 0)
    else if v.unsigned && s then if sat then (0, nx) else (v.nanCode, nv)
    else
      let r := roundTo v.fmt rm s m e
      let y : Dy := ⟨r.n, r.ue⟩
      let mx := (v.decode (v.maxCode s)).dy
      let fl := if r.inexact then nx else 0
      if decide (y.cmp ⟨mx.m.natAbs, mx.e⟩ > 0) then
        (if v.extended then v.overflow rm s else if sat then v.maxCode s else v.nanCode, fl ||| ovf ||| nx)
      else
        let small := !atLeastPow r.n r.ue (1 - v.bias)
        let fl := fl ||| (if small && r.inexact then unf else 0)
        (if r.n = 0 then 0 else v.code s r.n r.ue, fl)

end B8

/-! ## Narrowing and widening under ET (R147, R148, Table 7.8) -/

/-- Whether `narrow`, `widen` and their reversible forms accept the type (Table 7.8). -/
def narrowable (et : Nat) : Bool := decide (7 ≤ et ∧ et ≤ 10) || decide (32 ≤ et ∧ et ≤ 60)

/-- R147: an FP32 value narrowed into the 8-bit lane contents of type `et`. -/
def narrow (env : Env) (et : Nat) (x : Fv) : Nat × Flags :=
  match B8.ofCode et with
  | some v => v.convert env.rm env.sat x
  | none =>
    let (lo, hi) := etRange et
    let r := toIntRange env.rm lo hi x
    (if et = 9 ∨ et = 10 then (r.1 % 16).toNat else (r.1 % 256).toNat, r.2)

/-- R148: the value of a byte lane read as type `et`. -/
def widen (et : Nat) (c : Nat) : Fv :=
  match B8.ofCode et with
  | some v => v.decode c
  | none =>
    let b := if et = 9 ∨ et = 10 then 4 else 8
    let c : Nat := c % 2 ^ b
    let n := (c : Int)
    let i : Int := if etUnsigned et then n else if c < 2 ^ (b - 1) then n else n - 2 ^ b
    .fin (i < 0) i.natAbs 0

/-- R82, R214: the value of an element of a matrix operand format: the codes of Table 3.4 that Table 10.5 accepts. -/
def element (et : Nat) (c : Nat) : Fv :=
  if et = 4 then ieee16.decode c else if et = 3 then ieeeBf.decode c else widen et c

/-! ## Exact terms of the reversible forms -/

/-- The FP32 word of an exact number, if it is an FP32 number; a zero has no word of its own here. -/
def exact32 (x : Dy) : Option Word :=
  let r := ieee32.round .rne false (x.m < 0) x.m.natAbs x.e
  if x.m ≠ 0 ∧ r.2 = 0 then some (BitVec.ofNat 32 r.1) else none

/-- An exact number rounded once into FP32 under RNE, no flags, with the sign to give a zero. -/
def rne32 (x : Dy) (zeroNeg : Bool) : Word :=
  if x.m = 0 then zeroWord zeroNeg
  else BitVec.ofNat 32 (ieee32.round .rne false (x.m < 0) x.m.natAbs x.e).1

end Sys2Proof.Num
end

