-- ==== Sys2Proof/Config.lean ====
section
/-!
DEFINITION. What the platform fixes and the values the manual leaves open. A constant here without a body is a free value:
nothing can be proved of it but that it is the same each time.
-/

namespace Sys2Proof.Config

/-- Bytes of the save area: the manual gives their number (R254) and their digest (R247), not their layout.
Free value of the switch number and the offset (assumption 6). -/
opaque saveByte : Nat → Nat → Byte

/-- CTXBASE, LNKBASE and PWRBASE as the firmware reports them (R247, R317, R344, Table 21.1). Free values (assumption 7). -/
opaque ctxBase : Dword
opaque lnkBase : Dword
opaque pwrBase : Dword

/-- What an image header carries (R350 steps 3 and 5): its SVN and its public key, none where it is malformed. The manual gives the
header no layout (assumption 8). -/
opaque headerFields : List Byte → Option (Word × List Byte)

/-- The seeds of the identity key pair that the firmware derives from the fused device secret and the SVN (R350 step 8), by their
number, and the randomness of a signature by the time of its request (assumption 8). -/
opaque identitySeed : List Byte → Word → Nat → List Byte
opaque signRandom : Nat → List Byte

/-- The fused device secret and the fused hash of the firmware key (R350 steps 3 and 8) (assumption 8). -/
opaque deviceSecret : List Byte
opaque fusedKeyHash : List Byte

/-- The fused minimum security version (R350 step 5) (assumption 8). -/
opaque fusedMinSvn : Word

/-- The device's clock ratio between GTC ticks and the manual's microsecond: 1 tick is 1 ns (Table 0.2). -/
def ticksPerUs : Nat := 1000

end Sys2Proof.Config
end

