-- ==== Sys2Proof/Machine/Sparse.lean ====
section
/-!
DEFINITION. Operations on the sparse stores of the machine: keys strictly rising, one entry for each key.
-/

namespace Sys2Proof

/-- The entry of a key. -/
def Sparse.find? {α : Type} : Sparse α → Nat → Option α
  | [], _ => none
  | (k, v) :: m, key => if k = key then some v else Sparse.find? m key

/-- The value of a key, `d` when it is not listed. -/
def Sparse.get {α : Type} (d : α) (m : Sparse α) (key : Nat) : α := (Sparse.find? m key).getD d

/-- The store with one entry set. -/
def Sparse.put {α : Type} : Sparse α → Nat → α → Sparse α
  | [], key, x => [(key, x)]
  | (k, v) :: m, key, x =>
    if k = key then (key, x) :: m
    else if key < k then (key, x) :: (k, v) :: m
    else (k, v) :: Sparse.put m key x

/-- The store without an entry for the key. -/
def Sparse.del {α : Type} (m : Sparse α) (key : Nat) : Sparse α := m.filter fun e => decide (e.1 ≠ key)

/-- A write that keeps the store canonical: the value an unlisted key reads as is never listed. -/
def Sparse.write {α : Type} [DecidableEq α] (d : α) (m : Sparse α) (key : Nat) (x : α) : Sparse α :=
  if x = d then Sparse.del m key else Sparse.put m key x

/-- The entry of a key changed by a function, if there is one. -/
def Sparse.update {α : Type} (m : Sparse α) (key : Nat) (f : α → α) : Sparse α :=
  match Sparse.find? m key with
  | some v => Sparse.put m key (f v)
  | none => m

/-- Every key is above `lo` and the keys rise strictly; no value is `d`. -/
def Sparse.canonFrom {α : Type} [DecidableEq α] (d : α) (lo : Nat) : Sparse α → Bool
  | [] => true
  | (k, v) :: m => decide (lo ≤ k) && decide (v ≠ d) && Sparse.canonFrom d (k + 1) m

/-- The canonical form: keys strictly rising, no entry equal to what an unlisted key reads as. -/
def Sparse.canon {α : Type} [DecidableEq α] (d : α) (m : Sparse α) : Bool := Sparse.canonFrom d 0 m

end Sys2Proof
end

