-- ==== Sys2Proof/Machine/State.lean ====
section
/-!
DEFINITION. The state of one device as plain data: lanes, slices, gangs, tiles, clusters, contexts, launches, memory and its
homes, links, boot and the model's own schedule. A register of a sparse store reads the default that the store's field names.
-/

namespace Sys2Proof.Machine

/-! ## Slices (spec/03_state.md Tables 3.2, 3.5) -/

/-- The flags of a scalar instruction. -/
structure Flags where
  z : Bool := false
  n : Bool := false
  c : Bool := false
  v : Bool := false
  deriving DecidableEq, Repr

/-- What an issue group waits for (R46, R391). These wait at issue, and the instruction is then tried again: `issue` for a counter or
a queue that the instruction names, `room` for so many lines of the tile's store queue (R181), `own` for entries of that queue that an
acquire load reads (R183), `lines` for earlier loads of the gang (R241), `window` for a result read through a window (R13), `home` to
read so many lines from a place (R233, R235). -/
inductive Wait where
  | run
  | issue
  | room (lines : Nat)
  | own (seqs : List Nat)
  | lines (ls : List Nat)
  | window (addr : Dword)
  | home (loc lines : Nat)
  | regang
  | handon
  | fetch
  | walk
  | fence (scope : Nat) (acquire : Bool)
  | wata
  | arrive (banner : Nat)
  | barrier (banner : Nat)
  | park
  | spill
  | refill
  | drain
  deriving DecidableEq, Repr

/-- One slice. `grp` names its issue group; `inRep` says that the slice stands inside a repeat (R103, R105); `phase` is how far
an instruction of several parts has got; `budget` holds the ends of the budgets of `wata` that are not finished, each by its
instruction's address (R391); `cut` says
that the hand-on instruction where it stands has been released (R31); `mark` holds the tile's place in the order of its requests
and the gang's number of its next result at the start of a fence's wait (R188); `ready` is since when the group has been ready
without issuing, and `issued` when it last issued (R279). -/
structure Slice where
  pc : Dword
  mode : Word := 0
  fl : Flags := {}
  repc : Nat := 0
  cdepth : Nat := 0
  link : Dword := 0
  live : Bool := true
  grp : Nat := 0
  inRep : Bool := false
  wait : Wait := .run
  phase : Nat := 0
  budget : List (Dword × Nat) := []
  cut : Bool := false
  mark : Nat × Nat := (0, 0)
  ready : Option Nat := none
  issued : Nat := 0
  deriving DecidableEq, Repr

/-! ## Gangs (Tables 3.1, 3.7) -/

/-- A translation a TLB or a walk holds (R302, R307): context, first virtual and physical byte, log2 of the page size. -/
structure Xlat where
  ctx : Nat
  va : Nat
  pa : Nat
  size : Nat
  r : Bool
  w : Bool
  x : Bool
  sc : Bool
  zh : Bool
  deriving DecidableEq, Repr

/-- How a walk ended (R303, R310, R322). -/
inductive WalkResult where
  | ok (x : Xlat)
  | fault (cause : Nat)
  deriving DecidableEq, Repr

/-- The result of a walk as delivered to the access that waits on it (R308): the lowest slice of its group, 8 for the gang's
prefetches (R194), and the page. -/
structure Walked where
  slice : Nat
  va : Nat
  result : WalkResult
  deriving DecidableEq, Repr

/-- A lane's part of a load: lane (32 for a scalar), the place of its first byte, none where zeros are answered (R306), and its
address. -/
structure LaneAt where
  lane : Nat
  loc : Option Nat
  addr : Dword := 0
  deriving DecidableEq, Repr

/-- What a load waits for: the first register it writes, place and width of each lane, bytes taken, lines still to be read at
home, the lines kept in L1, whether it acquires, the latest home time, the addresses its log entries name, the W of what each lane
read (R338), the tile's order at its issue (F1 of R241), and whether its addresses went through the context's page table (R314). -/
structure LoadPart where
  reg : Nat
  lanes : List LaneAt
  width : Nat
  signed : Bool
  got : Sparse Byte := []
  need : List Nat := []
  keep : List Nat := []
  acquire : Bool := false
  time : Nat := 0
  addrs : List (Nat × Nat) := []
  logged : List (Nat × Nat) := []
  since : Nat := 0
  mapped : Bool := true
  deriving DecidableEq, Repr

/-- What a long-latency instruction writes: one value for a register key. A vector key is `v * 32 + lane`. -/
inductive Dest where
  | vreg (key : Nat)
  | sreg (key : Nat)
  | adv
  deriving DecidableEq, Repr

/-- A long-latency instruction in flight (R98-R101): its destinations, its values once known, the instructions its window
still counts in each slice, the order in which the slices' windows ended, the slices that wait for its result with a window closed by
the instruction they are about to issue (R100), the window writes that come after its results (R13), and whether an engine's status
word is awaited (R198, R199). -/
structure Pend where
  id : Nat
  slices : List Nat
  left : List Nat
  ended : List Nat := List.replicate 8 0
  shut : List Nat := []
  dests : List Dest
  vals : List (Dest × Word) := []
  returned : Bool := false
  load : Option LoadPart := none
  after : List (Dest × Word) := []
  engine : Bool := false
  deriving DecidableEq, Repr

/-- One entry of a remainder stack: word and tag (R157, R158). -/
structure Rem where
  word : Word
  tag : Nat
  deriving DecidableEq, Repr

/-- The trap registers, NEED kept with them (R311), and what each slice held at trap entry (R120). -/
structure Trap where
  tpc : Dword := 0
  tcause : Word := 0
  tval : Dword := 0
  tmask : Word := 0
  tmode : Word := 0
  tscc : Word := 0
  slicepc : List Dword := List.replicate 8 0
  need : Nat := 0
  modes : List Word := List.replicate 8 0
  flags : List Flags := List.replicate 8 {}
  budgets : List (List (Dword × Nat)) := List.replicate 8 []
  deriving DecidableEq, Repr

/-- One lane of a `cpy` in flight (R207): offsets, elements done, units written, its code, whether it has finished. -/
structure LaneCopy where
  lane : Nat
  src : Dword
  dst : Dword
  pos : Nat := 0
  bytes : Nat := 0
  code : Nat := 0
  done : Bool := false
  stall : Bool := false
  deriving DecidableEq, Repr

/-- A target of an `mcast` captured at acceptance (R210): the window address, with its generation, of the first byte, and how
many bytes the target holds from there. -/
structure Target where
  addr : Dword
  room : Nat
  deriving DecidableEq, Repr

/-- The engine commands of Table 10.1. -/
inductive CmdOp where
  | cpy (w : Nat)
  | bcpy | wcpy | mcast | gath | czero
  | wld (fromScratch : Bool)
  | mma | mloop | mrec | accrd | accwr | accz
  | coll (kind : Nat)
  deriving DecidableEq, Repr

/-- A command in a gang's queue (R195-R206): its parameters, status register, the number under which its status is awaited,
the lanes it reports in, pennant and decision, code, progress, bytes written, greatest W, the W of its last unit in each page
(R314), the store-queue entries it waits for and the W that those of each line have had (R203), the lanes of a `cpy`, the targets of
an `mcast`, the index of a `gath` with
its element (R211), the data it took at issue or received, the element type and SUP at issue, whether it is stalled (R202), how far
a collective has got (R225: 1 announced, 2 its elements sent, 3 its result known), the requester's number of the port its result came
by, where one brought it (R323), the time of acceptance, and whether it has ended. -/
structure Cmd where
  op : CmdOp
  params : List Word
  status : Nat
  pend : Nat
  lanes : List Nat := []
  pennant : Nat := 0
  decided : Option Bool := none
  code : Nat := 0
  pos : Nat := 0
  bytes : Nat := 0
  maxW : Nat := 0
  pages : Sparse Nat := []
  waits : List Nat := []
  seen : Sparse Nat := []
  copies : List LaneCopy := []
  targets : List Target := []
  index : Option (Nat × Word) := none
  data : List Word := []
  et : Nat := 0
  sup : Bool := false
  stall : Bool := false
  phase : Nat := 0
  who : Option Nat := none
  accepted : Nat := 0
  finished : Bool := false
  deriving DecidableEq, Repr

/-- The weight binding of a gang (R216). -/
structure Binding where
  scratch : Bool
  base : Dword
  stride : Word
  format : Nat
  scaled : Bool
  scale : Dword
  deriving DecidableEq, Repr

/-- One gang in its slot. `recent` holds the W of its stores that are not in force yet, by line (R203). -/
structure Gang where
  tile : Nat
  slot : Nat
  gen : BitVec 16 := 0
  launch : Option Nat := none
  ctx : Nat
  grove : Nat := 0
  gidx : Nat := 0
  ngang : Nat := 1
  nsl : Nat
  nv : Nat
  ns : Nat
  pri : Nat := 0
  det : Bool := false
  sup : Bool := false
  pos : Option Nat := none
  since : Nat := 0
  slices : List Slice
  v : Sparse Word := []
  sregs : Sparse Word := []
  p : Sparse Bool := []
  rem : Sparse (List Rem) := []
  hout : Word := 0
  fifo : List (Option Word) := []
  horizon : Nat := 0
  fpst : BitVec 6 := 0
  rsb : Dword := 0
  rsl : Dword := 0
  rsdepth : Nat := 0
  pnst : List (Option Bool) := List.replicate 8 none
  adv : Word := 0
  spgen : Word := 0
  scratch : Nat := 0
  slgrp : Word := 0
  trap : Trap := {}
  queues : List (List Cmd) := [[], [], [], []]
  markS : List Nat := []
  markV : List Nat := []
  binding : Option Binding := none
  pend : List Pend := []
  nextId : Nat := 0
  domStored : Bool := false
  recent : Sparse Nat := []
  walked : List Walked := []
  atomSeq : Nat := 0
  ended : Bool := false
  deriving DecidableEq, Repr

/-! ## Tiles and clusters -/

/-- A copy of a 64-byte line with its lease (R179, R230, R231, R390). -/
structure CacheLine where
  line : Nat
  bytes : List Byte
  grant : Nat
  expiry : Nat
  zero : Bool := false
  deriving DecidableEq, Repr

/-- What a request travelling from a tile to a home does (R181, R186, R192, R193). -/
inductive Req where
  | store (bytes : Sparse Byte) (zero : Bool)
  | atomic (op : Nat) (x y : Word) (word : Nat) (pend : Option Nat) (dest : Option Dest)
  | wake
  deriving DecidableEq, Repr

/-- An entry of a tile's store queue, or an atomic or wake in flight: order of issue, gang, line, the W it received, its context
and the address of its lowest lane, whether that went through the context's page table (R314), and whether it is a `.nt` store (R181). -/
structure SqEntry where
  seq : Nat
  slot : Nat
  gen : BitVec 16
  launch : Option Nat
  line : Nat
  req : Req
  w : Option Nat := none
  old : Word := 0
  ctx : Nat := 0
  addr : Dword := 0
  mapped : Bool := true
  nt : Bool := false
  deriving DecidableEq, Repr

/-- A held ordered atomic (R330, R331); `va` is its address where it went through the context's page table (R314). -/
structure Held where
  launch : Nat
  slot : Nat
  gen : BitVec 16
  grove : Nat
  gang : Nat
  lane : Nat
  seq : Nat
  loc : Nat
  op : Nat
  x : Word
  y : Word
  va : Option Nat := none
  deriving DecidableEq, Repr

/-- A live scratchpad allocation (R227, R228). -/
structure Alloc where
  launch : Nat
  grove : Nat
  base : Nat
  bytes : Nat
  gen : Nat
  deriving DecidableEq, Repr

/-- A staged replay-log entry: 16 bytes as a number (Table 19.3). -/
abbrev LogEntry := BitVec 128

/-- Table 20.2. -/
inductive Dorm where
  | active | sealing | dormant | waking
  deriving DecidableEq, Repr

/-- The command that has written a unit into a tile window: its gang, engine class and lane, and how far it had got, which tells its line
operations apart (R203). -/
structure Writer where
  tile : Nat
  slot : Nat
  gen : BitVec 16
  cls : Nat
  lane : Nat := 0
  op : Nat := 0
  deriving DecidableEq, Repr

/-- A write held for a tile that is switching or dormant (R14): window address, bytes, and the command it is a unit of. -/
structure WindowWrite where
  addr : Dword
  data : List Byte
  by_ : Option Writer := none
  deriving DecidableEq, Repr

/-- A fault record (Table 17.4), and the lane of a `cpy` it stands for, or the lowest slice of the group that parked. -/
structure FaultRec where
  kind : Nat
  cause : Nat
  tile : Nat := 0
  slot : Nat := 0
  gen : BitVec 16 := 0
  cls : Nat := 0
  addr : Dword := 0
  pc : Dword := 0
  mask : Word := 0
  first : Word := 0
  step : Nat := 0
  need : Nat := 0
  seq : Nat := 0
  lane : Nat := 0
  deriving DecidableEq, Repr

/-- What a tile holds back (R14, R342): a window write; and while it is dormant or waking, the host's reply to a record of one of its
gangs, by its code, and a kill of its context. -/
inductive TileMsg where
  | write (w : WindowWrite)
  | reply (code : Nat) (r : FaultRec)
  | kill (ctx : Nat)
  deriving DecidableEq, Repr

/-- One tile: its holder, gear, a switch under way (to which gear, for which cause, by which slot), a recorded request for a gear
(R115), the sunk mark and a lift still to be applied (R297, R298), its registers and stores, and the scratchpad bytes that lane row 1
has stored at a time (R182). -/
structure Tile where
  holder : Option Nat := none
  gear : Bool := false
  switching : Option (Bool × Nat × Nat) := none
  request : Option Bool := none
  sunk : Bool := false
  lift : Bool := false
  drop : Word := 0
  slotGen : Sparse (BitVec 16) := []
  granule : Sparse (BitVec 16) := []
  allocs : List Alloc := []
  scratch : Sparse Byte := []
  l1 : List CacheLine := []
  sq : List SqEntry := []
  nextSeq : Nat := 0
  clist : List (Nat × Nat) := []
  tlb : List Xlat := []
  det : List Held := []
  stage : List LogEntry := []
  logFault : Bool := false
  epoch : Option Nat := none
  dorm : Dorm := .active
  latch : Bool := false
  held : List TileMsg := []
  rowOne : Nat × List Nat := (0, [])
  deriving DecidableEq, Repr

/-- An entry of a matrix reservation table (R215). -/
structure Resv where
  tile : Nat
  slot : Nat
  pri : Nat
  age : Nat
  granted : Bool := false
  deriving DecidableEq, Repr

/-- What the weight latches of a matrix engine hold (R216): the binding, the tile and first scratchpad byte its source is
relative to, and its elements, codes row by row, with scales. -/
structure Latch where
  ctx : Nat
  binding : Binding
  tile : Nat
  sbase : Nat
  rows : List (List Nat)
  scales : List Nat
  deriving DecidableEq, Repr

/-- One cluster. `cclk` has the layout of Table 1.3; `mtxNow` counts the matrix commands of window `mtxWin`, `mtxPrev` those of the
one before (R282); `cadWin` is the window of the last fall of CAD (R345). -/
structure Cluster where
  cclk : Word := 0x242
  relock : Option Word := none
  cad : Nat := 1
  cadWin : Option Nat := none
  slew : Nat := 0
  base : Nat := 1
  acc : Sparse Word := []
  bankHolder : List (Option Nat) := [none, none]
  prog : List Dword := [0, 0]
  resv : List Resv := []
  latch : Option Latch := none
  icache : List CacheLine := []
  tlb : List Xlat := []
  mtxPrev : Nat := 0
  mtxNow : Nat := 0
  mtxWin : Nat := 0
  rot : Option (Nat × Nat × Nat) := none
  deriving DecidableEq, Repr

/-! ## Memory homes (R181, R233, R388) -/

/-- A line's home: latest lease expiry, W of the last store or atomic, writes formed but not yet applied, in W order, the W of those
of them that make a zero line (R231), the W of the last write applied to each of its words (R338), the tick and the requester's
number of its last action (R233), and the tick of its last write. -/
structure Home where
  lease : Nat := 0
  lastW : Nat := 0
  pending : List (Nat × Sparse Byte) := []
  blank : List Nat := []
  ws : Sparse Nat := []
  at_ : Nat := 0
  who : Nat := 0
  wrote : Nat := 0
  deriving DecidableEq, Repr

/-- A line that a die's L2 holds, and whether as a zero line (R231, R232). -/
structure L2Line where
  line : Nat
  zero : Bool
  deriving DecidableEq, Repr

/-- An entry of a watch table (R190, R388): the watched line, the read time, the waiter. A launch's after-word watches too, and a
gang of another device (R323), told apart by the port and the number its request came with. -/
structure Watch where
  line : Nat
  since : Nat
  tile : Nat
  slot : Nat
  slice : Nat
  launch : Option (Nat × Nat) := none
  fired : Option Nat := none
  peer : Option (Nat × Nat) := none
  deriving DecidableEq, Repr

/-- Which issue group executes, or waits on a walk (R308): its tile, slot and lowest slice. -/
structure Cur where
  tile : Nat
  slot : Nat
  slice : Nat
  deriving DecidableEq, Repr

/-- A request to a die's walker: context, virtual address, whether the page is first to be cleared of its zero hint, who waits, from
when the clearing's lines, and then that of the entry, are in force, and the place and value of the entry that is still to be cleared
(R306); the permission the first access needs (R307), the die, and when and from which tile the first miss came (R308). -/
structure Walk where
  ctx : Nat
  va : Nat
  clear : Bool
  waiters : List Cur
  from_ : Option Nat := none
  entry : Option (Nat × Dword) := none
  need : Nat := 0
  die : Nat := 0
  at_ : Nat := 0
  tile : Nat := 0
  deriving DecidableEq, Repr

/-! ## Contexts (spec/12_context.md, spec/17_page.md, spec/19_determinism.md) -/

/-- Table 12.2. -/
inductive CtxState where
  | created | running | stopping | saved | restoring | killing | ended | failed
  deriving DecidableEq, Repr

/-- The saved part of one tile and its gangs, and of one bank (Table 3.8). -/
structure SavedTile where
  tile : Nat
  gear : Bool
  sunk : Bool
  request : Option Bool
  scratch : Sparse Byte
  allocs : List Alloc
  det : List Held
  drop : Word
  stage : List LogEntry
  logFault : Bool
  epoch : Option Nat
  gangs : List (Nat × Gang)
  deriving DecidableEq, Repr

structure SavedBank where
  bank : Nat
  acc : List Word
  prog : Dword
  deriving DecidableEq, Repr

structure Saved where
  tiles : List SavedTile
  banks : List SavedBank
  bytes : Nat
  deriving DecidableEq, Repr

/-- A removal that the host has requested (R314): the request's sequence number, the stores translated through it as tile and
place in the tile's order, the greatest W of the engine units, the loads translated through it as tile, slot and number, the
accesses that hold it as the result of a walk (R308), and the held atomics translated through it (assumption 72). -/
structure Removal where
  seq : Nat
  stores : List (Nat × Nat)
  until_ : Nat
  loads : List (Nat × Nat × Nat) := []
  walked : List (Cur × Nat) := []
  held : List Held := []
  deriving DecidableEq, Repr

/-- An interrupt still to be raised (R312, R320): its vector, the W of the PUT it follows, and the stores to the host that it travels
behind, as tile and place in the tile's order. -/
structure Ring where
  vector : Nat
  w : Nat
  behind : List (Nat × Nat)
  deriving DecidableEq, Repr

/-- A round of a communicator on this device (R347): the communicator's number and identity, how many ranks are hosted here, those
whose commands have completed, the last acceptance, and the first and the last completion. -/
structure SlackRound where
  comm : Nat
  id : Dword
  round : Nat
  hosted : Nat
  ranks : List Nat
  accepted : Nat
  first : Nat
  completed : Nat
  deriving DecidableEq, Repr

/-- A slack record as last read, `zero` its doubleword that must be zero, and its controller (Table 20.4, R346-R348), with the rounds
not yet seen. -/
structure Slack where
  ctl : Word := 0
  hi : Word := 0
  lo : Word := 0
  notchTicks : Word := 0
  zero : Dword := 0
  k : Nat := 0
  err : Bool := false
  rounds : Nat := 0
  changed : Bool := false
  avg : Nat := 0
  last : List Nat := []
  open_ : List SlackRound := []
  deriving DecidableEq, Repr

/-- One context as its controller holds it (Table 12.1). `inval` holds the removals not yet acknowledged (R314), `rings` the
interrupts still to be raised (R312), `visited` the DET launches that have had a grove
placed in the dispatcher's round (R277), `large` the pages of more than 64 KiB that accesses have gone through since their last
removal, as first byte and log2 of the size (R314). -/
structure Ctx where
  st : CtxState := .created
  seq : Nat := 0
  err : Nat := 0
  root : Nat := 0
  save : Nat := 0
  savelen : Nat := 0
  fq : Nat := 0
  tbase : Dword := 0
  loglim : Dword := 0
  lease : Nat := 256
  pri : Nat := 0
  share : Nat := 16
  cap : Bool := false
  tiles : List Nat := []
  banks : List Nat := []
  stopAt : Nat := 0
  saved : Option Saved := none
  saves : Nat := 0
  fqSize : Nat := 0
  fqPut : Nat := 0
  await : List FaultRec := []
  posts : List FaultRec := []
  replies : List (Nat × FaultRec) := []
  inval : List Removal := []
  large : List (Nat × Nat) := []
  rings : List Ring := []
  visited : List Nat := []
  cmds : List Word := []
  logBase : Nat := 0
  logPut : Nat := 0
  logStart : Nat := 0
  posted : Nat := 0
  slack : Slack := {}
  deriving DecidableEq, Repr

/-! ## Launches (spec/14_kernel.md, spec/15_group.md, spec/16_barrier.md) -/

/-- Table 14.5. -/
inductive LaunchState where
  | posted | admitted | dispatching | running | draining | complete | faulted | killed
  deriving DecidableEq, Repr

/-- A random-number claim (R271). -/
structure Claim where
  key : Dword
  high : Dword
  start : Dword
  count : Dword
  deriving DecidableEq, Repr

/-- An after-word (R273): address, expected value, the time it was satisfied, whether a watch stands for it, and when it was
last read where it is polled. -/
structure After where
  addr : Dword
  expect : Word
  at? : Option Nat := none
  watching : Bool := false
  read : Option Nat := none
  deriving DecidableEq, Repr

/-- A banner of a launch (R292): sink, members, those not yet exited, arrivals, parity of the open phase, whether its drain is
under way (R299), whether the open phase has lifted (R298), and the members that arrived in the open phase and have exited since,
each with the sequence of its next atomic at its arrival (R332). -/
structure Banner where
  sink : Bool
  count : Nat
  live : Nat
  arrived : Nat := 0
  parity : Bool := false
  draining : Bool := false
  lifted : Bool := false
  gone : List (Nat × Nat) := []
  deriving DecidableEq, Repr

/-- A member's state for one banner (R292, R293): gang number, banner, parity of its arrival, the sequence of its next atomic
at its arrival (R332), a completion not yet observed, how many arrivals it has made, and the addresses of the `barr.sync` whose arrivals
have registered, each with the number of its arrival (R391). -/
structure Member where
  gang : Nat
  banner : Nat
  arrived : Option Bool := none
  seq : Nat := 0
  completed : Option Nat := none
  arrivals : Nat := 0
  sync : List (Dword × Nat) := []
  deriving DecidableEq, Repr

/-- A placed grove (Table 15.1). -/
structure Grove where
  index : Nat
  tile : Nat
  slots : List Nat
  alloc : Bool
  exited : List Nat := []
  draining : Bool := false
  deriving DecidableEq, Repr

/-- One launch. -/
structure Launch where
  ctx : Nat
  flags : Word
  code : Dword
  groves : Nat
  shape : Word
  scratch : Nat
  banners : Dword
  afters : List After
  claims : List Claim
  completeAt : Dword
  state : LaunchState := .posted
  postedAt : Nat
  ta : Nat := 0
  next : Nat := 0
  placed : List Grove := []
  retired : Nat := 0
  faulted : Bool := false
  killed : Bool := false
  cause : Nat := 0
  banner : Sparse Banner := []
  members : List Member := []
  exited : List Nat := []
  horizon : Nat := 0
  dom : Bool := false
  number : Nat
  drained : Bool := false
  deriving DecidableEq, Repr

/-- A drain of held atomics under way (R331, R332): flush point of Table 19.4, what waits on it, when it began, its entries with their
tiles, the W of each once applied, and the greatest of them. -/
structure Drain where
  point : Nat
  launch : Nat := 0
  banner : Nat := 0
  tile : Nat := 0
  slot : Nat := 0
  part : Nat := 0
  grove : Nat := 0
  at_ : Nat := 0
  entries : List (Nat × Held)
  ws : List Nat := []
  applied : Option Nat := none
  deriving DecidableEq, Repr

/-! ## Outside the tiles -/

/-- Table 18.2. -/
inductive LinkState where
  | down | training | up | degraded
  deriving DecidableEq, Repr

/-- A link (Table 18.3): state, usable lanes, retrainings, errors, time of entry to the state, and whether it has been DOWN
since it last carried traffic (R319). -/
structure Link where
  st : LinkState := .down
  lost : Bool := false
  lanes : Nat := 0
  retr : Nat := 0
  errs : Nat := 0
  since : Nat := 0
  deriving DecidableEq, Repr

/-- Another device of the domain (R321-R323): the contexts it serves, and the permissions (bit 0 read, bit 1 write, bit 2 execute,
8 malformed, absent when not listed) of page `ctx * 2^21 + page`. -/
structure Peer where
  serves : List Nat
  pages : Sparse Nat
  deriving DecidableEq, Repr

/-- A report under way (R353): the request's sequence number, where it goes, its bytes before the signature, and once its bytes are
stored their greatest W. -/
structure Report where
  seq : Nat
  dest : Dword
  message : List Byte
  w : Option Nat := none
  deriving DecidableEq, Repr

/-- The boot block, measurement registers and mailbox (spec/21_boot_security.md); the image the host has offered as header, body
and signature; whether REQ has been written since it was last taken. -/
structure Boot where
  stage : Nat := 0
  err : Nat := 0
  svn : Word := 0
  ctxbase : Dword := 0
  lnkbase : Dword := 0
  pwrbase : Dword := 0
  mr : List (List Byte) := List.replicate 8 (List.replicate 32 0)
  idkey : List Byte := List.replicate 64 0
  image : Option (List Byte × List Byte × List Byte) := none
  mbNew : Bool := false
  mbReq : Word := 0
  mbAck : Word := 0
  mbIdx : Word := 0
  mbArg : List Byte := List.replicate 32 0
  mbDest : Dword := 0
  report : Option Report := none
  deriving DecidableEq, Repr

/-- A transport frame sent and not yet acknowledged (R325): peer, number among those sent to it, first and last sending,
communicator. -/
structure Frame where
  peer : Nat
  number : Nat
  first : Nat
  last : Nat
  id : Dword
  deriving DecidableEq, Repr

/-- The transport with one peer of another domain (R325): the number of the next frame to it, and of the next one from it. -/
structure Peering where
  peer : Nat
  next : Nat := 0
  heard : Nat := 0
  deriving DecidableEq, Repr

/-- A store to the host aperture that the host has not acknowledged (R188, R319): its gang, place in its tile's order, line,
address and W. -/
structure HostStore where
  tile : Nat
  slot : Nat
  gen : BitVec 16
  launch : Option Nat
  seq : Nat
  line : Nat
  addr : Dword := 0
  w : Option Nat := none
  deriving DecidableEq, Repr

/-- What an event acts on (assumption 3): a tile, cluster, context, launch, home line, walk or drain; a slot; a slice or
record; an item of it. Each event's row in `Instr` says which it uses. -/
structure Subject where
  unit : Nat := 0
  slot : Nat := 0
  part : Nat := 0
  item : Nat := 0
  deriving DecidableEq, Repr

/-- What a turn brings from outside before anything happens (assumption 53): a line of memory that can no longer be read; the lanes in
which the next operation and its shadow come out different; or another device as it is from now on (R322). -/
inductive Upset where
  | memory (line : Nat)
  | lanes (mask : Word)
  | peer (dev : Nat) (p : Option Peer)
  deriving DecidableEq, Repr

/-- What the last load, atomic or `wata` from outside was given (R318, R323), or the cause with which a domain request was refused
(R322). -/
inductive Answer where
  | value (x : Dword)
  | refused (cause : Nat)
  deriving DecidableEq, Repr

/-- One turn of the schedule: ticks of GTC the step takes, which of the things that can happen does, an event or input
from outside that happens instead, and what the surroundings bring first (assumption 4). -/
structure Turn where
  ticks : Nat
  pick : Nat
  input : Option Instr
  subject : Subject := {}
  upset : Option Upset := none
  deriving DecidableEq, Repr

/-- The device. `bad` lists the lines of memory that give an uncorrectable error, `upset` the lanes whose shadow differs in this step
(R38), `l2` what each die's L2 holds, most recently used first, `hostPort` the host's accesses that wait at the device port, in their
order (R318), and `domainPort` the domain requests that wait for the clearing of their page (R306). -/
structure State where
  cur : Option Cur
  subject : Subject
  agenda : List Turn
  gtc : Nat
  devnum : Nat
  domain : Nat
  mem : Sparse Byte
  homes : Sparse Home
  bad : List Nat
  upset : Word
  l2 : Sparse (List L2Line)
  watches : List Watch
  walks : List Walk
  tiles : Sparse Tile
  clusters : Sparse Cluster
  gangs : Sparse Gang
  ctxs : Sparse Ctx
  launches : Sparse Launch
  nextLaunch : Nat
  drains : List Drain
  links : Sparse Link
  irqs : List Nat
  sent : List Nat
  hostW : Nat
  hostStores : List HostStore
  hostPort : List HostAccess
  domainPort : List DomainRequest
  peers : Sparse Peer
  ranks : List CollFrame
  frames : List Frame
  peerings : List Peering
  answer : Answer
  boot : Boot
  deriving DecidableEq, Repr

/-- The reasons a step could stop. The spec gives every instruction and event an effect or an exception, so no step of this
machine stops with a fault: the type has no constructor, which is safe. -/
inductive Fault where
  deriving DecidableEq, Repr

/-- The reasons a step could be refused. -/
inductive Refusal where
  /-- Raised by `exec` for an instruction whose meaning is not written; safe, since nothing is proved of its effect. -/
  | notModelled (mnemonic : String)
  deriving DecidableEq, Repr

/-- The machine at power-on (R48, R350-R352): no context started, no gang placed, STAGE 0, every link DOWN. Memory lists
nothing. Values the spec does not give are named in assumptions 1 and 2. -/
def State.reset : State where
  cur := none
  subject := {}
  agenda := []
  gtc := 0
  devnum := 0
  domain := 0
  mem := []
  homes := []
  bad := []
  upset := 0
  l2 := []
  watches := []
  walks := []
  tiles := []
  clusters := []
  gangs := []
  ctxs := []
  launches := []
  nextLaunch := 0
  drains := []
  links := []
  irqs := []
  sent := []
  hostW := 0
  hostStores := []
  hostPort := []
  domainPort := []
  peers := []
  ranks := []
  frames := []
  peerings := []
  answer := .value 0
  boot := {}

end Sys2Proof.Machine
end

