-- ==== Sys2Proof/Machine/Ops.lean ====
section
/-!
DEFINITION. Named operations on the state: reading and writing gangs, tiles, clusters and registers, issue groups and active
lanes, lookahead windows, taking a trap and returning from one (R61, R120), and the end of slices and gangs (R31, R45, R121).
-/

namespace Sys2Proof.Machine

/-- What a step of this machine gives. -/
abbrev Out := Host.Outcome State Fault Refusal

/-! ## Parts of the device -/

/-- The key of a gang: slots 0 to 31 of a tile, and above them the gangs whose slot has been freed while an engine still
holds commands of theirs (R113, R285). -/
def gkey (tile slot : Nat) : Nat := if slot < 32 then tile * 32 + slot else 24576 + tile * 2 ^ 22 + slot

/-- The number under which a retired gang is kept. -/
def retiredSlot (slot : Nat) (gen : BitVec 16) : Nat := 32 + gen.toNat * 32 + slot

def State.gang? (s : State) (tile slot : Nat) : Option Gang := Sparse.find? s.gangs (gkey tile slot)

def State.setGang (s : State) (tile slot : Nat) (g : Gang) : State :=
  { s with gangs := Sparse.put s.gangs (gkey tile slot) g }

def State.modGang (s : State) (tile slot : Nat) (f : Gang → Gang) : State :=
  { s with gangs := Sparse.update s.gangs (gkey tile slot) f }

def State.dropGang (s : State) (tile slot : Nat) : State := { s with gangs := Sparse.del s.gangs (gkey tile slot) }

def State.tile (s : State) (t : Nat) : Tile := Sparse.get {} s.tiles t

def State.setTile (s : State) (t : Nat) (x : Tile) : State := { s with tiles := Sparse.put s.tiles t x }

def State.modTile (s : State) (t : Nat) (f : Tile → Tile) : State := s.setTile t (f (s.tile t))

def State.cluster (s : State) (c : Nat) : Cluster := Sparse.get {} s.clusters c

def State.setCluster (s : State) (c : Nat) (x : Cluster) : State := { s with clusters := Sparse.put s.clusters c x }

def State.modCluster (s : State) (c : Nat) (f : Cluster → Cluster) : State := s.setCluster c (f (s.cluster c))

def State.ctx (s : State) (n : Nat) : Ctx := Sparse.get {} s.ctxs n

def State.modCtx (s : State) (n : Nat) (f : Ctx → Ctx) : State := { s with ctxs := Sparse.put s.ctxs n (f (s.ctx n)) }

def State.launch? (s : State) (l : Nat) : Option Launch := Sparse.find? s.launches l

def State.modLaunch (s : State) (l : Nat) (f : Launch → Launch) : State :=
  { s with launches := Sparse.update s.launches l f }

def State.modLaunchOf (s : State) (l : Option Nat) (f : Launch → Launch) : State :=
  match l with
  | some l => s.modLaunch l f
  | none => s

def State.home (s : State) (line : Nat) : Home := Sparse.get {} s.homes line

def State.modHome (s : State) (line : Nat) (f : Home → Home) : State :=
  { s with homes := Sparse.put s.homes line (f (s.home line)) }

/-- The gangs resident in slots of a tile, with their slots. -/
def State.gangsOf (s : State) (tile : Nat) : List Gang :=
  (s.gangs.map Prod.snd).filter fun g => g.tile == tile && decide (g.slot < 32)

/-- The gang that had a slot with a generation, in its slot or retired from it. -/
def State.gangOf (s : State) (tile slot : Nat) (gen : BitVec 16) : Option Gang :=
  match s.gang? tile slot with
  | some g => if g.gen = gen then some g else s.gang? tile (retiredSlot slot gen)
  | none => s.gang? tile (retiredSlot slot gen)

/-- R256: the priority of a gang: its launch's, capped by its context's. -/
def State.priOf (s : State) (g : Gang) : Nat := min g.pri (s.ctx g.ctx).pri

/-! ## Registers -/

/-- The fill pattern of a register nothing has loaded (R48). -/
def fill : Word := 0xFFFFFFFF

def Gang.sreg (g : Gang) (n : Nat) : Word := Sparse.get fill g.sregs n

def Gang.setS (g : Gang) (n : Nat) (x : Word) : Gang :=
  { g with sregs := Sparse.write fill g.sregs n x, markS := g.markS.filter (· != n) }

/-- The 64-bit value of a scalar pair: `sN` low, `sN+1` high. -/
def Gang.sreg64 (g : Gang) (n : Nat) : Dword := g.sreg (n + 1) ++ g.sreg n

def Gang.setS64 (g : Gang) (n : Nat) (x : Dword) : Gang :=
  (g.setS n (x.extractLsb' 0 32)).setS (n + 1) (x.extractLsb' 32 32)

def Gang.vreg (g : Gang) (n lane : Nat) : Word := Sparse.get fill g.v (n * 32 + lane)

def Gang.setV (g : Gang) (n lane : Nat) (x : Word) : Gang :=
  { g with v := Sparse.write fill g.v (n * 32 + lane) x, markV := g.markV.filter (· != n * 32 + lane) }

/-- R50: p0 reads true. -/
def Gang.pred (g : Gang) (n lane : Nat) : Bool := n == 0 || Sparse.get false g.p (n * 32 + lane)

/-- R50: a write to p0 is discarded. -/
def Gang.setP (g : Gang) (n lane : Nat) (x : Bool) : Gang :=
  if n = 0 then g else { g with p := Sparse.write false g.p (n * 32 + lane) x }

def Gang.remOf (g : Gang) (lane : Nat) : List Rem := Sparse.get [] g.rem lane

def Gang.setRem (g : Gang) (lane : Nat) (r : List Rem) : Gang := { g with rem := Sparse.write [] g.rem lane r }

/-! ## Slices, groups and lanes (R16-R18, R24) -/

def Gang.slice (g : Gang) (j : Nat) : Slice := g.slices.getD j { pc := 0, live := false }

/-- The slices changed one by one, each with its number. -/
def Gang.mapSlices (g : Gang) (f : Nat → Slice → Slice) : Gang := { g with slices := g.slices.mapIdx f }

def Gang.modSlices (g : Gang) (js : List Nat) (f : Slice → Slice) : Gang :=
  g.mapSlices fun j x => if js.contains j then f x else x

/-- R16: a gang has at most eight slices. -/
def Gang.liveSlices (g : Gang) : List Nat := (List.range 8).filter fun j => (g.slice j).live

/-- R18: the live slices that issue together with slice `j`. -/
def Gang.group (g : Gang) (j : Nat) : List Nat :=
  g.liveSlices.filter fun i => (g.slice i).grp == (g.slice j).grp

/-- Whether the live slices lie in more than one issue group (R18). -/
def Gang.parted (g : Gang) : Bool :=
  match g.liveSlices with
  | [] => false
  | j :: _ => g.group j != g.liveSlices

/-- The lowest slice of each issue group. -/
def Gang.leaders (g : Gang) : List Nat := g.liveSlices.filter fun j => (g.group j).head? == some j

/-! ### Fields of MODE (Table 3.3) -/

def modeGp (m : Word) : Nat := (m.extractLsb' 0 3).toNat
def modeEt (m : Word) : Nat := (m.extractLsb' 3 6).toNat
def modeRm (m : Word) : Nat := (m.extractLsb' 9 3).toNat
def modeSat (m : Word) : Bool := m.getLsbD 12
def modeFtz (m : Word) : Bool := m.getLsbD 13
def modeSh (m : Word) : Bool := m.getLsbD 14
def modeLp (m : Word) : Bool := m.getLsbD 15

/-- R52: whether a MODE value is accepted. -/
def modeOk (m : Word) : Bool :=
  m.extractLsb' 30 2 == 0 && m.extractLsb' 16 8 == 0 && decide (modeRm m ≤ 4) &&
    !(decide (11 ≤ modeEt m ∧ modeEt m ≤ 31)) && decide (modeEt m ≤ 60)

/-- The lanes of a slice. -/
def lanesOf (j : Nat) : List Nat := [4 * j, 4 * j + 1, 4 * j + 2, 4 * j + 3]

/-- R24: the lane's slice belongs to the group and its guard predicate is true. -/
def Gang.active (g : Gang) (js : List Nat) : List Nat :=
  (js.flatMap lanesOf).filter fun i => g.pred (modeGp (g.slice (i / 4)).mode) i

/-- A set of lanes as a mask. -/
def maskOf (lanes : List Nat) : Word := lanes.foldl (fun m i => m ||| (1 <<< i)) 0

/-- R39: the guard predicate is false in all four lanes of the slice. -/
def Gang.mz (g : Gang) (j : Nat) : Bool := (lanesOf j).all fun i => !g.pred (modeGp (g.slice j).mode) i

/-- R39: the guard predicate is true in all four lanes of the slice. -/
def Gang.ma (g : Gang) (j : Nat) : Bool := (lanesOf j).all fun i => g.pred (modeGp (g.slice j).mode) i

/-- Number of the issue group of slice `j` in SLGRP: the lowest slice of the group (assumption 9). -/
def Gang.groupNo (g : Gang) (j : Nat) : Nat :=
  if (g.slice j).live then (g.group j).headD 15 else 15

/-- SLGRP as the groups stand (Table 3.7). -/
def Gang.groupsNow (g : Gang) : Word :=
  (List.range 8).foldl (fun w j => w ||| (BitVec.ofNat 32 (g.groupNo j) <<< (4 * j))) 0

/-- R61: SLGRP keeps its value while SUP is 1. -/
def Gang.slgrpNow (g : Gang) : Word := if g.sup then g.slgrp else g.groupsNow

/-! ### Moving on -/

/-- R89, Table 3.2: an address in the 52 bits that a PC has; a carry or borrow out of them is discarded. -/
def addr52 (x : Dword) : Dword := x &&& 0xFFFFFFFFFFFFF

/-- The address of the word after one, and of the word before it. -/
def nextPc (x : Dword) : Dword := addr52 (x + 4)
def prevPc (x : Dword) : Dword := addr52 (x - 4)

/-- R391: the budgets that a slice keeps once the `wata` at an address is finished. -/
def Slice.budgetsBut (x : Slice) (pc : Dword) : List (Dword × Nat) := x.budget.filter fun b => b.1 != pc

/-- A slice past its instruction: to the next one, or inside a repeat to the next repetition (R103, R105). -/
def Slice.advance (x : Slice) : Slice :=
  if x.inRep ∧ x.repc > 1 then { x with repc := x.repc - 1, wait := .run, phase := 0, budget := x.budgetsBut x.pc, cut := false }
  else
    { x with
      pc := nextPc x.pc, wait := .run, phase := 0, budget := x.budgetsBut x.pc, cut := false
      repc := if x.inRep then 0 else x.repc, inRep := false }

/-- A slice sent to an address. A `wata` that it leaves unfinished keeps the end of its budget (R391), and a body that it resumed
without a prefix has been executed (R105). -/
def Slice.goto (x : Slice) (pc : Dword) : Slice :=
  { x with pc := pc, wait := .run, phase := 0, cut := false, repc := if x.inRep then 0 else x.repc, inRep := false }

/-- The executing group past its instruction, with the walk results it waited for used up. -/
def Gang.advance (g : Gang) (js : List Nat) : Gang :=
  { g.modSlices js Slice.advance with walked := g.walked.filter fun w => some w.slice != js.head? }

/-- The executing group left waiting at its instruction. -/
def Gang.waitAt (g : Gang) (js : List Nat) (w : Wait) : Gang := g.modSlices js fun x => { x with wait := w }

/-- The executing group waiting, its instruction having got to part `n`. -/
def Gang.waitPhase (g : Gang) (js : List Nat) (n : Nat) (w : Wait) : Gang :=
  g.modSlices js fun x => { x with wait := w, phase := n }

/-! ## Lookahead windows (R98-R101) -/

/-- The slice a destination belongs to, none where all slices share it. -/
def Dest.slice? : Dest → Option Nat
  | .vreg key => some (key % 32 / 4)
  | _ => none

def Gang.write (g : Gang) (d : Dest) (x : Word) : Gang :=
  match d with
  | .vreg key => g.setV (key / 32) (key % 32) x
  | .sreg key => g.setS key x
  | .adv => { g with adv := x }

/-- Whether the window of a slice has ended. -/
def Pend.over (p : Pend) (j : Nat) : Bool := p.left.getD j 0 == 0

/-- Whether a result is due: a lane's window has ended, or for a shared destination every slice's. -/
def Pend.due (p : Pend) (d : Dest) : Bool :=
  match d.slice? with
  | some j => p.over j
  | none => p.slices.all p.over

/-- When a destination's window ended. -/
def Pend.endedAt (p : Pend) (d : Dest) : Nat :=
  match d.slice? with
  | some j => p.ended.getD j 0
  | none => p.ended.foldl max 0

/-- R98: whether another result to the same destination is still to be written first: one whose window ended earlier, or at the same
time that of a later instruction, which stands in the earlier one's window. -/
def Gang.before (g : Gang) (p : Pend) (d : Dest) : Bool :=
  g.pend.any fun q => q.id != p.id && q.dests.contains d && q.due d &&
    (decide (q.endedAt d < p.endedAt d) || (q.endedAt d == p.endedAt d && decide (p.id < q.id)))

/-- The first result that can be written now. -/
def Gang.writable (g : Gang) : Option (Pend × Dest) :=
  g.pend.findSome? fun p =>
    if p.returned then
      (p.dests.find? fun d => p.due d && !g.before p d).map fun d => (p, d)
    else none

/-- R199: whether a status word reports a hard code. -/
def hardCode (w : Word) : Bool :=
  w.getLsbD 30 && (let c := (w.extractLsb' 24 6).toNat; c != 1 && c != 5)

/-- R199: marks the register of a status word that reports a hard code. -/
def Gang.mark (g : Gang) (d : Dest) (x : Word) : Gang :=
  if !hardCode x then g
  else
    match d with
    | .vreg key => { g with markV := key :: g.markV }
    | .sreg key => { g with markS := key :: g.markS }
    | .adv => g

/-- Writes one result, and over it the last window write that has waited for it (R13), and removes its destination from what is
awaited. -/
def Gang.writeOne (g : Gang) (p : Pend) (d : Dest) : Gang :=
  let g := match p.vals.find? fun x => x.1 == d with
    | some (_, x) => if p.engine then (g.write d x).mark d x else g.write d x
    | none => g
  let g := match (p.after.filter fun x => x.1 == d).getLast? with
    | some (_, x) => g.write d x
    | none => g
  { g with
    pend := (g.pend.map fun q => if q.id = p.id then { q with dests := q.dests.filter (· != d) } else q).filter
      fun q => !(q.returned && q.dests.isEmpty) }

/-- Writes every result that has returned and whose window has ended. -/
def Gang.settleN : Nat → Gang → Gang
  | 0, g => g
  | n + 1, g =>
    match g.writable with
    | some (p, d) => settleN n (g.writeOne p d)
    | none => { g with pend := g.pend.filter fun q => !(q.returned && q.dests.isEmpty) }

def Gang.settle (g : Gang) : Gang := g.settleN ((g.pend.map fun p => p.dests.length).sum)

/-- Counts one issued instruction of the slices `js` in every window but that of `id` (R98). -/
def Gang.countWindows (g : Gang) (js : List Nat) (id : Nat) : Gang :=
  { g with
    pend := g.pend.map fun p =>
      if p.id = id then p
      else
        { p with
          left := p.left.mapIdx fun j n => if js.contains j then n - 1 else n
          ended := p.ended.mapIdx fun j e => if js.contains j && p.left.getD j 0 == 1 then g.nextId + 1 else e }
    nextId := g.nextId + 1 }

/-- R100, R101: ends the windows of the slices. -/
def Gang.closeWindows (g : Gang) (js : List Nat) : Gang :=
  { g with
    pend := g.pend.map fun p =>
      { p with
        left := p.left.mapIdx fun j n => if js.contains j then 0 else n
        ended := p.ended.mapIdx fun j e => if js.contains j && p.left.getD j 0 != 0 then g.nextId + 1 else e }
    nextId := g.nextId + 1 }

/-- R100: the slices come to stand at an instruction that closes their windows: they will wait for the results (assumption 73). -/
def Gang.closeAt (g : Gang) (js : List Nat) : Gang :=
  let h : Gang := { g with pend := g.pend.map fun p => { p with shut := p.shut ++ js.filter fun j => !p.over j } }
  h.closeWindows js

/-- Opens the window of a long-latency instruction with lookahead `n` (R98), under the number `nextId`; one that writes nothing
has none. -/
def Gang.open (g : Gang) (js : List Nat) (n : Nat) (dests : List Dest) (vals : List (Dest × Word)) (returned : Bool)
    (load : Option LoadPart) : Gang :=
  let p : Pend :=
    { id := g.nextId, slices := js, dests := dests, vals := vals, returned := returned, load := load
      left := (List.range 8).map fun j => if js.contains j then n else 0
      ended := List.replicate 8 g.nextId }
  { g with pend := if dests.isEmpty then g.pend else g.pend ++ [p], nextId := g.nextId + 1 }

/-- R198: the registers an engine command will report in are pending, without a window of their own beyond `n`. -/
def Gang.modPend (g : Gang) (id : Nat) (f : Pend → Pend) : Gang :=
  { g with pend := g.pend.map fun p => if p.id = id then f p else p }

/-! ## Taking a trap (R61, R62) -/

/-- What a trap reports: cause, TVAL, TMASK, the slice of the reported lane, and NEED (R35, R311). -/
structure TrapInfo where
  cause : Nat
  tval : Dword
  mask : Word
  slice : Nat
  need : Nat := 0
  deriving DecidableEq, Repr

/-- The address of the handler of a cause (R61). -/
def handler (tbase : Dword) (cause : Nat) : Dword := tbase + BitVec.ofNat 64 (64 * cause)

/-- The four flags as bits [3:0] of SCC and TSCC (Table 3.5). -/
def Flags.word (f : Flags) : Word :=
  (if f.z then 1 else 0) ||| (if f.n then 2 else 0) ||| (if f.c then 4 else 0) ||| (if f.v then 8 else 0)

def Flags.ofWord (w : Word) : Flags := ⟨w.getLsbD 0, w.getLsbD 1, w.getLsbD 2, w.getLsbD 3⟩

/-- R100: no window counts as closed before its instruction any more. -/
def Gang.unshut (g : Gang) : Gang := { g with pend := g.pend.map fun p => { p with shut := [] } }

/-- R61: the trap registers and the handler's one group. `j` is the lowest slice of the trapping group. SLICEPC of a slice that is
absent or has exited keeps its value (assumption 57). What a slice was waiting for starts afresh after the handler, but for the ends
of `wata` budgets, which are kept for its return (R391), and a hand-on that had been released with the chain cut is released no more
(assumption 67). -/
def Gang.enterTrap (g : Gang) (tbase : Dword) (j : Nat) (t : TrapInfo) : Gang :=
  let lead := g.slice j
  let trap : Trap :=
    { tpc := lead.pc
      tcause := BitVec.ofNat 32 (t.slice * 256 + t.cause)
      tval := t.tval
      tmask := t.mask
      tmode := lead.mode
      tscc := lead.fl.word
      slicepc := (List.range 8).map fun i => if (g.slice i).live then (g.slice i).pc else g.trap.slicepc.getD i 0
      need := t.need
      modes := (List.range 8).map fun i => (g.slice i).mode
      flags := (List.range 8).map fun i => (g.slice i).fl
      budgets := (List.range 8).map fun i => (g.slice i).budget }
  let first := g.liveSlices.headD 0
  let g : Gang := { g with slgrp := g.groupsNow, trap := trap, walked := [] }
  let g := (g.unshut.closeWindows (List.range 8)).settle
  { g.mapSlices fun _ x =>
      if x.live then
        { x with
          mode := 0, pc := handler tbase t.cause, grp := first, wait := .run, phase := 0, inRep := false, cut := false }
      else x with
    sup := true }

/-! ## Pennants (R124) -/

/-- R124, R205: a command at the head of its queue decided by its pennant; in an ended gang an unset pennant discards it. -/
def Gang.decideCmd (g : Gang) (c : Cmd) : Cmd :=
  if c.decided.isSome then c
  else if c.pennant = 0 then { c with decided := some true }
  else
    match (g.pnst[c.pennant]?).getD none with
    | some v => { c with decided := some v }
    | none => if g.ended then { c with decided := some false } else c

/-- The heads of a gang's four queues decided. -/
def Gang.decideHeads (g : Gang) : Gang :=
  { g with queues := g.queues.map fun q => match q with
      | [] => []
      | c :: rest => g.decideCmd c :: rest }

/-! ## Drains of held atomics, and the phases of banners (R292-R295, R299, R331, R332) -/

/-- The held entries of one gang (R332). -/
def Held.ofGang (h : Held) (g : Gang) : Bool := h.slot == g.slot && h.gen == g.gen

/-- R331, R332: entries of tiles taken into a drain of a flush point. -/
def State.startDrain (s : State) (d : Drain) (tiles : List Nat) (p : Nat → Held → Bool) : State :=
  let entries := tiles.flatMap fun t => ((s.tile t).det.filter (p t)).map fun h => (t, h)
  let s := tiles.foldl (fun s t => s.modTile t fun x => { x with det := x.det.filter fun h => !p t h }) s
  { s with drains := s.drains ++ [{ d with at_ := s.gtc, entries := entries }] }

/-- Gangs of each grove of a launch (Table 14.3). -/
def Launch.ng (l : Launch) : Nat := (l.shape.extractLsb' 0 4).toNat + 1

/-- Whether a launch is in DET mode (R329). -/
def Launch.det (l : Launch) : Bool := l.flags.getLsbD 0

/-- R342: a wake message recorded by a tile's latch. -/
def State.wakeTile (s : State) (tile : Nat) : State :=
  s.modTile tile fun t => if t.dorm = .active then t else { t with latch := true }

/-- Table 16.1: a phase of a banner completes at a time: the parity turns, the arrivals are cleared, and every member that
arrived is idle with its completion recorded. -/
def Launch.completePhase (l : Launch) (b now : Nat) : Launch :=
  { l with
    banner := Sparse.update l.banner b fun x =>
      { x with parity := !x.parity, arrived := 0, draining := false, lifted := false, gone := [] }
    members := l.members.map fun m =>
      if m.banner = b ∧ m.arrived.isSome then { m with arrived := none, completed := some now } else m }

/-- The tiles that hold members of a banner (R289). -/
def Launch.memberTiles (l : Launch) (b : Nat) : List Nat :=
  l.placed.filterMap fun v =>
    if l.members.any fun m => m.banner == b && m.gang / l.ng == v.index then some v.tile else none

/-- R346: whether a slack record is enabled: it says so, and its last check has not disabled it. -/
def Slack.on (x : Slack) : Bool := x.ctl.getLsbD 0 && !x.err

/-- R347: whether every hosted rank's command of a round has completed. -/
def SlackRound.seen (r : SlackRound) : Bool := decide (r.hosted ≤ r.ranks.length)

/-- R347: whether a context's slack record watches a round's communicator. -/
def Slack.watches (x : Slack) (r : SlackRound) : Bool := x.on && r.comm == (x.ctl.extractLsb' 8 8).toNat

/-- R258, R348: whether a context's tiles are capped at gear 0. -/
def Ctx.capped (x : Ctx) : Bool := x.cap || x.slack.k == 16

/-- R298: a lift of a tile: its mark goes and it switches to gear 1, or under a cap records the request. A tile that is switching,
or not awake, is lifted after that (R343). -/
def Tile.liftNow (t : Tile) (capped : Bool) : Tile :=
  if !t.sunk then t
  else if capped then { t with sunk := false, request := some true }
  else if t.switching.isSome || t.dorm == .dormant || t.dorm == .waking then { t with sunk := false, lift := true }
  else { t with sunk := false, switching := some (true, 3, 0) }

/-- R258, R298, R343: the switch that a tile neither switching nor asleep owes: down under a cap, with a request recorded, up on a
recorded request once no cap stands, or a lift that came meanwhile. -/
def Tile.settleGear (t : Tile) (capped : Bool) : Tile :=
  if t.switching.isSome || t.dorm != .active then t
  else if t.gear && capped then { t with switching := some (false, 0, 0), request := some true }
  else if !t.gear && !capped && t.request == some true then { t with switching := some (true, 0, 0), request := none, lift := false }
  else if !t.gear && t.lift then
    if capped then { t with lift := false, request := some true } else { t with switching := some (true, 3, 0), lift := false }
  else { t with lift := false }

/-- R298: every sunk tile that holds a member of a banner lifted. -/
def State.liftBanner (s : State) (l : Launch) (b : Nat) : State :=
  (l.memberTiles b).eraseDups.foldl (fun s t =>
    if (s.tile t).sunk then (s.wakeTile t).modTile t fun x => x.liftNow (s.ctx l.ctx).capped else s) s

/-- R295: a phase completes now; its sunk tiles lift (R298), and its waiters' tiles are sent wake messages (R342). -/
def State.completePhase (s : State) (launch b : Nat) : State :=
  match s.launch? launch with
  | none => s
  | some l =>
    let s := (s.modLaunch launch fun l => l.completePhase b s.gtc).liftBanner l b
    (l.memberTiles b).foldl State.wakeTile s

/-- R332: whether a held atomic belongs to the drain of a banner's phase: its gang's, from before the gang's arrival, be it that the
gang has exited since. -/
def Launch.drainsAt (l : Launch) (launch b : Nat) (h : Held) : Bool :=
  let gang := h.grove * l.ng + h.gang
  h.launch == launch &&
    ((l.members.any fun m => m.banner == b && m.gang == gang && decide (h.seq < m.seq)) ||
      ((Sparse.find? l.banner b).any fun x => x.gone.any fun m => m.1 == gang && decide (h.seq < m.2)))

/-- The tiles whose buffers hold entries of some kind. -/
def State.holding (s : State) (p : Held → Bool) : List Nat := (s.tiles.filter fun t => t.2.det.any p).map Prod.fst

/-- Whether a drain under way holds entries of some kind. -/
def State.draining (s : State) (p : Held → Bool) : Bool := s.drains.any fun d => d.entries.any fun e => p e.2

/-- R295, R299: one banner looked at: a phase whose live members have all arrived completes, in DET mode after its drain and after
every drain that already holds entries of the phase. -/
def State.closePhase (s : State) (launch b : Nat) : State :=
  match s.launch? launch with
  | none => s
  | some l =>
    match Sparse.find? l.banner b with
    | none => s
    | some x =>
      if x.draining || x.live = 0 || x.arrived ≠ x.live then s
      else
        let tiles := s.holding (l.drainsAt launch b)
        if l.det && !tiles.isEmpty then
          (s.modLaunch launch fun l => { l with banner := Sparse.update l.banner b fun x => { x with draining := true } }).startDrain
            { point := 1, launch := launch, banner := b, entries := [] } tiles fun _ h => l.drainsAt launch b h
        else if l.det && s.draining (l.drainsAt launch b) then s
        else s.completePhase launch b

/-- Every banner of a launch looked at. -/
def State.closePhases (s : State) (launch : Nat) : State :=
  match s.launch? launch with
  | none => s
  | some l => (l.banner.map Prod.fst).foldl (fun s b => s.closePhase launch b) s

/-! ## The end of gangs and groves -/

/-- Members of a grove, in gang order (R27). -/
def State.groveGangs (s : State) (g : Gang) : List Gang :=
  (s.gangsOf g.tile).filter fun h => h.launch == g.launch && h.grove == g.grove && h.launch.isSome || h.slot == g.slot

/-- R27: the lowest-numbered live gang of the grove above `g`. -/
def State.successor (s : State) (g : Gang) : Option Gang :=
  ((s.groveGangs g).filter fun h => !h.ended && decide (h.gidx > g.gidx)).foldl
    (fun b h => match b with
      | some x => if h.gidx < x.gidx then some h else some x
      | none => some h) none

/-- R27: the highest-numbered live gang of the grove below `g`. -/
def State.predecessor (s : State) (g : Gang) : Option Gang :=
  ((s.groveGangs g).filter fun h => !h.ended && decide (h.gidx < g.gidx)).foldl
    (fun b h => match b with
      | some x => if h.gidx > x.gidx then some h else some x
      | none => some h) none

/-- Number of a gang among its launch's gangs (R286). -/
def Gang.number (g : Gang) : Nat := g.grove * g.ngang + g.gidx

/-- R289, Table 16.1: a member's exit lowers the live count of its banners, and their arrivals if it had arrived; what it held at its
arrival stays due at the phase's end (R332). -/
def Launch.memberExit (l : Launch) (gang : Nat) : Launch :=
  { l with
    banner := l.members.foldl (fun b m =>
      if m.gang = gang then
        Sparse.update b m.banner fun x =>
          { x with
            live := x.live - 1, arrived := if m.arrived.isSome then x.arrived - 1 else x.arrived
            gone := if m.arrived.isSome then x.gone ++ [(gang, m.seq)] else x.gone }
      else b) l.banner
    members := l.members.filter fun m => m.gang != gang
    exited := l.exited ++ [gang]
    placed := l.placed.map fun v => if v.index = gang / l.ng then { v with exited := v.exited ++ [gang] } else v }

/-- R285: a gang's slot freed. The gang itself stays, under a number of its own, while an engine holds commands of it. -/
def State.retireSlot (s : State) (tile slot : Nat) : State :=
  match s.gang? tile slot with
  | none => s
  | some g =>
    let n := retiredSlot slot g.gen
    let s := s.dropGang tile slot
    let s := { s with walks := s.walks.map fun w => { w with waiters := w.waiters.filter fun c => !(c.tile == tile && c.slot == slot) } }
    if g.queues.all List.isEmpty then s
    else
      (s.setGang tile n { g with slot := n }).modCluster (tile / 4) fun k =>
        { k with resv := k.resv.map fun e => if e.tile = tile ∧ e.slot = slot then { e with slot := n } else e }

/-- R284, R289: groves of a launch that will never be placed count as exited for every banner. -/
def Launch.abandon (l : Launch) : Launch :=
  let gone := l.members.filter fun m => decide (l.next * l.ng ≤ m.gang)
  { l with
    banner := gone.foldl (fun b m => Sparse.update b m.banner fun x => { x with live := x.live - 1 }) l.banner
    members := l.members.filter fun m => decide (m.gang < l.next * l.ng) }

/-- R31: the groups of a gang that wait for a hand-on released with the chain cut. -/
def Gang.cutWaits (g : Gang) : Gang :=
  { g with slices := g.slices.map fun x => if x.live && x.wait == Wait.handon then { x with cut := true } else x }

/-- R121, R338: what a gang that ends has issued and whose results are still to be logged: its acquire loads, and its `.ret` atomics,
which stand in its tile's queue. -/
def State.owesLog (s : State) (g : Gang) (p : Pend) : Bool :=
  !p.returned &&
    ((p.load.any fun l => !l.addrs.isEmpty) ||
      ((s.ctx g.ctx).loglim != 0 && (s.tile g.tile).sq.any fun e => e.slot == g.slot && e.gen == g.gen &&
        match e.req with | .atomic _ _ _ _ id _ => id == some p.id | _ => false))

/-- The results that a gang's end leaves to be logged, nothing waiting for them any more. -/
def State.leftToLog (s : State) (g : Gang) : List Pend := (g.closeWindows (List.range 8)).pend.filter (s.owesLog g)

/-- R31, R113, R289: a gang ends. Its FIFO is discarded, a successor that waits for it is released, and commands held on an
unset pennant will be discarded (R205). -/
def State.endGang (s : State) (tile slot : Nat) : State :=
  match s.gang? tile slot with
  | none => s
  | some g =>
    if g.ended then s
    else
      let s := match s.successor g with
        | some h => if h.fifo.isEmpty then s.modGang h.tile h.slot Gang.cutWaits else s
        | none => s
      let s := s.setGang tile slot (Gang.decideHeads
        { g with
          ended := true, fifo := [], pos := none, pend := s.leftToLog g
          slices := g.slices.map fun x => { x with live := false, wait := .run } })
      let s := { s with watches := s.watches.filter fun w => !(w.launch.isNone && w.tile == tile && w.slot == slot) }
      let s := s.modLaunchOf g.launch fun l =>
        { l.memberExit g.number with
          horizon := max l.horizon g.horizon, dom := l.dom || g.domStored }
      match g.launch with
      | some l => s.closePhases l
      | none => if (s.leftToLog g).isEmpty then s.retireSlot tile slot else s

/-- R121: every gang of the grove ends, in ascending gang index. -/
def State.endGrove (s : State) (g : Gang) : State :=
  (List.range 16).foldl (fun s i =>
    match (s.groveGangs g).find? fun h => h.gidx == i with
    | some h => s.endGang h.tile h.slot
    | none => s) s

/-- R225, R327: the communicator that a collective names, and its rank there. -/
def Cmd.commId (c : Cmd) : Dword := c.data.getD 1 0 ++ c.data.getD 0 0
def Cmd.rank (c : Cmd) : Nat := (c.params.getD 1 0).toNat

/-- R225: what a collective that has been accepted and not announced says once its launch is killed. -/
def Cmd.killedFrame (c : Cmd) : CollFrame :=
  { id := c.commId, nrLog := (c.data.getD 2 0).toNat, rank := c.rank, kind := (match c.op with | .coll k => k | _ => 0)
    count := (c.params.getD 6 0).toNat, type := ((c.params.getD 7 0).extractLsb' 0 6).toNat
    op := ((c.params.getD 7 0).extractLsb' 8 2).toNat, round := (c.params.getD 8 0).toNat, killed := true, data := [] }

/-- R225: the ranks of commands that have moved nothing yet made known as those of a killed launch: in the frames with which they have
announced themselves, or by frames of their own. -/
def State.killFrames (s : State) (cs : List Cmd) : State :=
  let mine := cs.filter fun c =>
    decide (c.phase < 3) && !c.finished && !c.data.isEmpty && match c.op with | .coll _ => true | _ => false
  let ranks := s.ranks.map fun f =>
    if mine.any fun c => c.phase != 0 && c.commId == f.id && c.rank == f.rank then { f with killed := true } else f
  { s with ranks := ranks ++ (mine.filter fun c => c.phase == 0).map Cmd.killedFrame }

/-- R121, R225: a launch is killed, and with it the ranks that its gangs have announced. -/
def State.markKilled (s : State) (launch : Option Nat) : State :=
  let cs := (s.gangs.filter fun g => g.2.launch == launch && launch.isSome).flatMap fun g => g.2.queues.getD 3 []
  (s.killFrames cs).modLaunchOf launch fun l => { l with killed := true }

/-- Adds a record to what the context's fault queue is to be given (R312). -/
def State.post (s : State) (ctx : Nat) (r : FaultRec) : State := s.modCtx ctx fun c => { c with posts := c.posts ++ [r] }

/-- R62: the grove is killed, its launch marked faulted with the cause, and a record of kind 3 posted. -/
def State.killFaulted (s : State) (g : Gang) (cause : Nat) (r : FaultRec) : State :=
  let s := s.endGrove g
  let s := s.modLaunchOf g.launch fun l =>
    { l.abandon with faulted := true, cause := if l.faulted then l.cause else cause }
  let s := match g.launch with
    | some l => s.closePhases l
    | none => s
  s.post g.ctx r

/-- A trap of the group that executes (R61), or at SUP = 1 the end of the grove (R62). -/
def State.trap (s : State) (c : Cur) (t : TrapInfo) : State :=
  match s.gang? c.tile c.slot with
  | none => s
  | some g =>
    if g.sup then
      s.killFaulted g t.cause
        { kind := 3, cause := t.cause, tile := c.tile, slot := c.slot, gen := g.gen, addr := t.tval, pc := (g.slice c.slice).pc,
          mask := t.mask, first := g.trap.tcause }
    else
      let s := { s with watches := s.watches.filter fun w => !(w.launch.isNone && w.tile == c.tile && w.slot == c.slot) }
      s.setGang c.tile c.slot (g.enterTrap (s.ctx g.ctx).tbase c.slice t)

/-! ## Return from a trap (R120) -/

/-- R120: `PC[j]` of a slice of T under `tret.skip`: past a repetition as R105 gives, else past the instruction. REPC alone decides,
wherever a handler has moved SLICEPC, and an unfinished `wata` that is skipped keeps no budget (assumption 59). -/
def skipSlice (x : Slice) (pc : Dword) : Slice :=
  let x := { x with budget := x.budgetsBut pc }
  if x.repc > 1 then { x with pc := pc, repc := x.repc - 1, inRep := true }
  else if x.repc = 1 then { x with pc := nextPc pc, repc := 0, inRep := false }
  else { x with pc := nextPc pc, inRep := false }

/-- R120: the gang as `tret` (or `tret.skip`) leaves it. Slices with equal SLGRP nibble and equal PC share a group. -/
def Gang.tret (g : Gang) (skip : Bool) : Gang :=
  let nib (j : Nat) : Nat := (g.slgrp >>> (4 * j)).toNat % 16
  let rs := (g.trap.tcause.extractLsb' 8 3).toNat
  let inT (j : Nat) : Bool := (g.slice rs).live && nib j == nib rs
  let g := g.mapSlices fun j x =>
    if !x.live then x
    else
      let pc := g.trap.slicepc.getD j 0
      let x := { x with wait := .run, phase := 0, budget := g.trap.budgets.getD j [] }
      if inT j then
        let x := if skip then skipSlice x pc else { x with pc := pc, inRep := x.repc ≠ 0 }
        { x with mode := g.trap.tmode, fl := .ofWord g.trap.tscc }
      else
        { x with pc := pc, inRep := x.repc ≠ 0, mode := g.trap.modes.getD j 0, fl := g.trap.flags.getD j {} }
  let lead (j : Nat) : Nat :=
    (g.liveSlices.find? fun i => nib i == nib j && (g.slice i).pc == (g.slice j).pc).getD j
  let old := g
  { g.mapSlices fun j x =>
      if x.live then { x with grp := lead j, mode := (old.slice (lead j)).mode, fl := (old.slice (lead j)).fl } else x with
    sup := false }

end Sys2Proof.Machine
end

