-- ==== Sys2Proof/Machine/Mem.lean ====
section
/-!
DEFINITION. Memory: places and regions (Table 1.5), homes with leases and completion times (R181, R233), watches (R190),
caches (R230), translation (R301-R307), the store queue (R179, R181) and the scratchpad (R182, R227).
-/

namespace Sys2Proof.Machine

/-! ## Places

A place is one number: a physical address of this device below 2^48, or above that a byte of another device's domain
window, by device, context and offset (R321; assumption 15). -/

/-- Bytes of HBM that programs reach (Table 1.5). -/
def hbmSize : Nat := 576000000000

def isHbm (a : Nat) : Bool := decide (a < hbmSize)

def isHost (a : Nat) : Bool := decide (0xE00000000000 ≤ a ∧ a < 0xF00000000000)

def isTileWindow (a : Nat) : Bool := decide (0xF00000000000 ≤ a ∧ a < 0xF00030000000)

def isAccWindow (a : Nat) : Bool := decide (0xF00100000000 ≤ a ∧ a < 0xF00101800000)

/-- The place of byte `off` of context `ctx` on another device. -/
def remoteLoc (dev ctx off : Nat) : Nat := 2 ^ 48 + (dev * 64 + ctx) * 2 ^ 37 + off

def isRemote (loc : Nat) : Bool := decide (2 ^ 48 ≤ loc)

/-- The die of a tile (Table 1.1), and that of a place in HBM: blocks of 4,096 bytes alternate between the dies' stacks (R5). -/
def dieOfTile (tile : Nat) : Nat := tile / 384

def dieOf (loc : Nat) : Nat := loc / 4096 % 12 / 6

/-- The line of a place. -/
def lineOf (loc : Nat) : Nat := loc / 64

/-! ## Homes -/

/-- The value of a pending write for a byte, the latest of those with W at most `now`. -/
def pendingByte (now off : Nat) (ps : List (Nat × Sparse Byte)) : Option Byte :=
  ps.foldl (fun r p => if p.1 ≤ now then (Sparse.find? p.2 off).orElse fun _ => r else r) none

/-- R236: the home value of a byte at a time, with every write whose W has come. -/
def State.homeByte (s : State) (now loc : Nat) : Byte :=
  (pendingByte now (loc % 64) (s.home (lineOf loc)).pending).getD (Sparse.get 0 s.mem loc)

def State.homeBytes (s : State) (now loc n : Nat) : List Byte := (List.range n).map fun i => s.homeByte now (loc + i)

/-- Bytes, lowest first, as one number. -/
def natOfBytes (bs : List Byte) : Nat := bs.foldr (fun b n => n * 256 + b.toNat) 0

/-- The lowest `n` bytes of a number, lowest first (R4). -/
def bytesOfNat (n x : Nat) : List Byte := (List.range n).map fun i => BitVec.ofNat 8 (x / 256 ^ i)

def State.homeWord (s : State) (now loc : Nat) : Word := BitVec.ofNat 32 (natOfBytes (s.homeBytes now loc 4))

def State.homeDword (s : State) (now loc : Nat) : Dword := BitVec.ofNat 64 (natOfBytes (s.homeBytes now loc 8))

/-- The W of the last write to the word at a place by a time, 0 for an initial value (Table 19.4, kind 0x06). -/
def State.wordTime (s : State) (now loc : Nat) : Nat :=
  let h := s.home (lineOf loc)
  let k := loc % 64 / 4
  h.pending.foldl (fun w p => if p.1 ≤ now ∧ p.2.any (fun b => b.1 / 4 == k) then max w p.1 else w) (Sparse.get 0 h.ws k)

/-- R181 step 2: the completion time of a store or atomic. -/
def Home.completion (h : Home) (now : Nat) : Nat := max now (max h.lease h.lastW) + 1

/-- Whether a watch has ended by a time. -/
def Watch.ended (w : Watch) (now : Nat) : Bool := w.fired.any fun t => decide (t ≤ now)

/-- R192: a wake ends every watch on its line. -/
def State.wakeLine (s : State) (line : Nat) : State :=
  { s with watches := s.watches.map fun x => if x.line = line ∧ x.ended s.gtc = false then { x with fired := some s.gtc } else x }

/-- R190: when a watch at a line whose read took the value of a time ends by a write already serialised there: the first W after it. -/
def State.firstDue (s : State) (line t : Nat) : Option Nat :=
  ((s.home line).pending.filter fun p => decide (t < p.1)).foldl (fun e p => some (min p.1 (e.getD p.1))) none

/-- R190: a write with completion time `w` ends the watches on its line that began before it. -/
def State.fire (s : State) (line w : Nat) : State :=
  { s with watches := s.watches.map fun x =>
      if x.line = line ∧ x.since < w ∧ x.fired.isNone then { x with fired := some w } else x }

/-! ### Requesters (R233) -/

/-- R233: the requester's numbers, beside a tile's own: a cluster's engines, a port of another device or of Ethernet, the host's
port, and the device controller (assumption 65). -/
def engineNo (tile : Nat) : Nat := 768 + tile / 4
def hostNo : Nat := 1023
def deviceNo : Nat := 1024

/-- Scale-up port `p` is number `p`, and Ethernet port `e` number `24 + e` (R323). -/
def portNo (p : Nat) : Nat := 960 + p

/-- R233: whether a requester that comes to a line in this tick comes after one of a greater number, and so has to wait. -/
def Home.late (h : Home) (now who : Nat) : Bool := h.at_ == now && decide (who < h.who)

def State.inTurn (s : State) (line who : Nat) : Bool := !(s.home line).late s.gtc who

/-- An action of a requester at a home. -/
def Home.took (h : Home) (now who : Nat) : Home := { h with at_ := now, who := who }

/-- R233: an input from outside whose lines have seen a greater requester in this tick comes in the next. -/
def State.comeTo (s : State) (lines : List Nat) (who : Nat) : State :=
  if lines.all fun l => s.inTurn l who then s else { s with gtc := s.gtc + 1 }

/-! ### L2 (R231, R232) -/

/-- Tags and data lines of a die's L2, and of a tile's L1 (R230, R232). -/
def l2Tags : Nat := 4194304
def l2Data : Nat := 2097152
def l1Tags : Nat := 2048
def l1Data : Nat := 1024

/-- R230: the least recently used data line goes while there are more than `data` of them, and what is beyond the tags. The most
recently used stands first; `zero` tells a line that takes no data. -/
def evict {α : Type} (zero : α → Bool) (tags data : Nat) (cs : List α) : List α :=
  let cs := cs.take tags
  if data < (cs.filter fun x => !zero x).length then (cs.reverse.eraseP fun x => !zero x).reverse else cs

/-- What the L2 of a line's die holds of it. -/
def State.l2Line? (s : State) (line : Nat) : Option L2Line :=
  (Sparse.get [] s.l2 (dieOf (line * 64))).find? fun x => x.line == line

/-- R231: whether home holds a line as a zero line: the last write whose W has come decides, where it is still to be applied. -/
def State.zeroLine (s : State) (line : Nat) : Bool :=
  let h := s.home line
  match (h.pending.filter fun p => decide (p.1 ≤ s.gtc)).getLast? with
  | some p => h.blank.contains p.1
  | none => (s.l2Line? line).any L2Line.zero

/-- R232: a line of this device's HBM used in its die's L2, as a zero line or not. -/
def State.putL2 (s : State) (line : Nat) (zero : Bool) : State :=
  if !isHbm (line * 64) then s
  else
    let d := dieOf (line * 64)
    let ls := Sparse.get [] s.l2 d
    { s with l2 := Sparse.put s.l2 d (evict L2Line.zero l2Tags l2Data (⟨line, zero⟩ :: ls.filter fun x => x.line != line)) }

/-- The same, a zero line staying one. -/
def State.touchL2 (s : State) (line : Nat) : State := s.putL2 line (s.zeroLine line)

/-- R231: a line of the L2 made a zero line or not by a write that comes into force; the order of eviction stays (R181). -/
def State.markL2 (s : State) (line : Nat) (zero : Bool) : State :=
  if (s.l2Line? line).isNone then s.putL2 line zero
  else
    let d := dieOf (line * 64)
    { s with
      l2 := Sparse.put s.l2 d (evict L2Line.zero l2Tags l2Data
        ((Sparse.get [] s.l2 d).map fun x => if x.line = line then { x with zero := zero } else x)) }

/-- R181: a `.nt` store marks its line first for eviction. -/
def State.agedL2 (s : State) (line : Nat) : State :=
  match s.l2Line? line with
  | none => s
  | some x =>
    let d := dieOf (line * 64)
    { s with l2 := Sparse.put s.l2 d ((Sparse.get [] s.l2 d).filter (fun y => y.line != line) ++ [x]) }

/-! ### Writes and reads -/

/-- R181: one write of a requester serialised at its home: its W, its bytes pending until then; `zero` says that it makes the line
a zero line (R231). -/
def State.homeWrite (s : State) (line who : Nat) (bytes : Sparse Byte) (zero : Bool := false) : State × Nat :=
  let h := s.home line
  let w := h.completion s.gtc
  (((s.touchL2 line).modHome line fun h =>
      { h.took s.gtc who with
        lastW := w, wrote := s.gtc, pending := h.pending ++ [(w, bytes)], blank := if zero then h.blank ++ [w] else h.blank }).fire line w, w)

/-- R181 step 3: the writes whose W has come are applied to memory. -/
def State.applyLine (s : State) (line : Nat) : State :=
  let h := s.home line
  let (now, later) := h.pending.partition fun p => decide (p.1 ≤ s.gtc)
  let s := { s with
    mem := now.foldl (fun m (p : Nat × Sparse Byte) =>
      p.2.foldl (fun m (b : Nat × Byte) => Sparse.write 0 m (line * 64 + b.1) b.2) m) s.mem }
  let s := match now.getLast? with
    | some p => s.markL2 line (h.blank.contains p.1)
    | none => s
  s.modHome line fun h =>
    { h with
      pending := later
      blank := h.blank.filter fun w => decide (s.gtc < w)
      ws := now.foldl (fun m (p : Nat × Sparse Byte) => p.2.foldl (fun m (b : Nat × Byte) => Sparse.put m (b.1 / 4) p.1) m) h.ws }

/-- R233, R234: a lease for a requester's read at home at the current time: the expiry home records, and that of the copy. -/
def State.grantLease (s : State) (line who lease : Nat) : State × Nat :=
  let h := s.home line
  let e := (h.pending.filter fun p => decide (p.1 > s.gtc)).foldl (fun e p => min e (p.1 - 1)) (s.gtc + lease)
  ((s.touchL2 line).modHome line fun h => { h.took s.gtc who with lease := max h.lease e },
    if isRemote (line * 64) then e - 8 else e)

/-- The bytes a device-controller write has, one after another (R233), each line at its own W. -/
def splitLines (loc : Nat) (bs : List Byte) : List (Nat × Sparse Byte) :=
  (bs.mapIdx fun i b => (loc + i, b)).foldl (fun ls x =>
    let line := lineOf x.1
    match ls.find? fun l => l.1 == line with
    | some _ => ls.map fun l => if l.1 = line then (l.1, Sparse.put l.2 (x.1 % 64) x.2) else l
    | none => ls ++ [(line, [(x.1 % 64, x.2)])]) []

/-- A store made at home by a requester other than a tile: the greatest W of its lines. -/
def State.storeHome (s : State) (who loc : Nat) (bs : List Byte) (zero : Bool := false) : State × Nat :=
  (splitLines loc bs).foldl (fun r l => let (s, w) := r.1.homeWrite l.1 who l.2 zero; (s, max r.2 w)) (s, 0)

/-- A store by a requester other than a tile whose W come after a time: a release (R239, R318), or one that follows the clearing of
its page (R306). -/
def State.storeAfter (s : State) (who loc : Nat) (bs : List Byte) (after : Nat) (zero : Bool := false) : State × Nat :=
  let lines := (splitLines loc bs).map Prod.fst
  (lines.foldl (fun s l => s.modHome l fun h => { h with lastW := max h.lastW after }) s).storeHome who loc bs zero

/-- Table 9.5: the time after which the store of a system-scope release comes, by the greatest W of what is before it. -/
def sysWait (w : Nat) : Nat := w + 8

/-- A store of the device controller (R233). -/
def State.deviceWrite (s : State) (loc : Nat) (bs : List Byte) : State × Nat := s.storeHome deviceNo loc bs

/-- The word that stands at home: the newest written, once its W has come; 0 while a newer one is on its way. -/
def State.standing (s : State) (loc : Nat) : Word :=
  if (s.home (lineOf loc)).lastW ≤ s.gtc then s.homeWord s.gtc loc else 0

/-- R187: the new word of an atomic (Table 5.6 operation codes), `x` and `y` its operands. -/
def atomicWord (op : Nat) (old x y : Word) : Word :=
  match op with
  | 0 => old + x
  | 1 => if old.slt x then old else x
  | 2 => if old.slt x then x else old
  | 3 => if old.ult x then old else x
  | 4 => if old.ult x then x else old
  | 5 => old &&& x
  | 6 => old ||| x
  | 7 => old ^^^ x
  | 8 => x
  | 9 => if old = x then y else old
  | _ => (Num.addV ⟨.rne, false, false⟩ (Num.val old) (Num.val x)).w

/-! ## Caches -/

/-- R230: a copy takes its place at the front; of two copies of a line the later grant stays. -/
def cacheInsert (tags data : Nat) (cs : List CacheLine) (c : CacheLine) : List CacheLine :=
  match cs.find? fun x => x.line == c.line with
  | some x =>
    let rest := cs.filter fun y => y.line != c.line
    evict CacheLine.zero tags data ((if x.grant > c.grant then x else c) :: rest)
  | none => evict CacheLine.zero tags data (c :: cs)

/-- A copy that answers at the current time, moved to the front. -/
def cacheHit (cs : List CacheLine) (line now : Nat) : Option CacheLine :=
  cs.find? fun x => x.line == line && decide (now ≤ x.expiry)

def cacheTouch (cs : List CacheLine) (line : Nat) : List CacheLine :=
  match cs.find? fun x => x.line == line with
  | some x => x :: cs.filter fun y => y.line != line
  | none => cs

/-- R183, R188: the lines granted before `t` are dropped. -/
def invalidateBefore (cs : List CacheLine) (t : Nat) : List CacheLine := cs.filter fun x => decide (t ≤ x.grant)

/-- R181, R231: a store's bytes put into a copy in place: it takes a data line, unless the store makes a zero line. -/
def CacheLine.patch (c : CacheLine) (bytes : Sparse Byte) (zero : Bool) : CacheLine :=
  { c with bytes := c.bytes.mapIdx fun i b => Sparse.get b bytes i, zero := zero }

/-- The copies of a line that L1 holds patched; a zero line that takes a data line may push another out. -/
def patchL1 (cs : List CacheLine) (line : Nat) (bytes : Sparse Byte) (zero : Bool) : List CacheLine :=
  evict CacheLine.zero l1Tags l1Data (cs.map fun c => if c.line = line then c.patch bytes zero else c)

/-! ## Translation -/

/-- The permissions an access needs (R177 step 4, R305): bit 0 read, bit 1 write, bit 2 execute. -/
def needR : Nat := 1
def needW : Nat := 2
def needRW : Nat := 3
def needX : Nat := 4

def Xlat.covers (x : Xlat) (ctx va : Nat) : Bool := x.ctx == ctx && va / 2 ^ x.size == x.va / 2 ^ x.size

def Xlat.allows (x : Xlat) (need : Nat) : Bool :=
  (need % 2 == 0 || x.r) && (need / 2 % 2 == 0 || x.w) && (need / 4 % 2 == 0 || x.x)

/-- Where a virtual address stands. -/
inductive Place where
  | at_ (loc : Nat) (sc : Bool)
  | zero
  | fault (cause : Nat)
  | miss (va : Nat) (clear : Bool)
  deriving DecidableEq, Repr

/-- R307: what a translation that lacks nothing gives; none where it counts as a miss. -/
def Xlat.place (x : Xlat) (va need : Nat) : Option Place :=
  if !x.allows need then none
  else if x.zh then if need / 2 % 2 == 1 then none else some .zero
  else some (.at_ (x.pa + va % 2 ^ x.size) x.sc)

/-- The tile's cluster. -/
def clusterOf (tile : Nat) : Nat := tile / 4

/-- R307, R308: a virtual address of this device's own page table, looked up in the results of walks the access waited for,
the tile's TLB and the cluster's. -/
def State.lookup (s : State) (tile : Nat) (walked : List Walked) (ctx va need : Nat) : Place :=
  match walked.find? fun w => w.va / 65536 == va / 65536 with
  | some ⟨_, _, .fault c⟩ => .fault c
  | some ⟨_, _, .ok x⟩ =>
    if !x.allows need then .fault 0x05
    else if x.zh && need / 2 % 2 == 1 then .miss va true
    else (x.place va need).getD .zero
  | none =>
    match ((s.tile tile).tlb ++ (s.cluster (clusterOf tile)).tlb).findSome? fun x =>
        if x.covers ctx va then x.place va need else none with
    | some p => p
    | none => .miss va false

/-- Link `n` of Table 18.1: 0 GortyLink, 1 to 24 the scale-up ports, 25 to 28 the Ethernet ports. -/
def State.link (s : State) (n : Nat) : Link := Sparse.get {} s.links n

/-- R319: accesses to the host aperture fail: GortyLink is DOWN, or has been since it last carried traffic. -/
def State.hostLost (s : State) : Bool := (s.link 0).st == .down || (s.link 0).lost

/-- GortyLink carries traffic (Table 18.2). -/
def State.hostUp (s : State) : Bool := (s.link 0).st == .up || (s.link 0).st == .degraded

/-- R322 step 2: a route to another device: some scale-up port is not DOWN (assumption 21). -/
def State.routed (s : State) : Bool := (List.range 24).any fun p => (s.link (p + 1)).st != .down

/-- R316, R323: some scale-up port carries traffic. -/
def State.domainUp (s : State) : Bool :=
  (List.range 24).any fun p => (s.link (p + 1)).st == .up || (s.link (p + 1)).st == .degraded

/-- Whether a request for a place can travel now: traffic to the host is held while GortyLink trains, and that to other devices while
every port with a route trains (R316). -/
def State.carries (s : State) (loc : Nat) : Bool := (!isHost loc || s.hostUp) && (!isRemote loc || s.domainUp)

/-- R177 steps 2 and 4, R321, R322: a global or domain address. -/
def State.place (s : State) (tile : Nat) (walked : List Walked) (ctx : Nat) (a : Dword) (need : Nat) : Place :=
  let n := a.toNat
  if 2 ^ 52 ≤ n then .fault 0x05
  else if n < 2 ^ 51 then s.lookup tile walked ctx n need
  else
    let dev := n / 2 ^ 37 % 2 ^ 14
    let off := n % 2 ^ 37
    if dev = s.devnum then s.lookup tile walked ctx off need
    else
      match if s.routed then Sparse.find? s.peers dev else none with
      | none => .fault 0x0F
      | some p =>
        if !p.serves.contains ctx then .fault 0x05
        else
          match Sparse.find? p.pages (ctx * 2 ^ 21 + off / 65536) with
          | none => .fault 0x04
          | some perms =>
            if perms ≥ 8 ∨ (need % 2 = 1 ∧ perms % 2 = 0) ∨ (need / 2 % 2 = 1 ∧ perms / 2 % 2 = 0) ∨
                (need / 4 % 2 = 1 ∧ perms / 4 % 2 = 0) then .fault 0x05
            else .at_ (remoteLoc dev ctx off) false

/-- R307: what lacks the permission an access needs, or has a zero hint for a write, is discarded from a TLB. -/
def dropLacking (ctx va need : Nat) (tlb : List Xlat) : List Xlat :=
  tlb.filter fun x => !(x.covers ctx va && (x.place va need).isNone)

/-- Whether a walk is of a page of a context. -/
def Walk.of (w : Walk) (ctx va : Nat) : Bool := w.ctx == ctx && w.va / 65536 == va / 65536

/-- R308: the walks in the order in which the walkers take them: by time, then by tile. -/
def insertWalk (w : Walk) : List Walk → List Walk
  | [] => [w]
  | x :: xs => if w.at_ < x.at_ ∨ (w.at_ = x.at_ ∧ w.tile < x.tile) then w :: x :: xs else x :: insertWalk w xs

/-- R306, R308: a miss joins the clearing of its page, or a walk of its die for it, or asks for one; translations that lack what it
needs are discarded (R307). -/
def State.askWalk (s : State) (ctx va : Nat) (clear : Bool) (need : Nat) (w : Cur) : State :=
  let s := s.modTile w.tile fun t => { t with tlb := dropLacking ctx va need t.tlb }
  let s := s.modCluster (clusterOf w.tile) fun k => { k with tlb := dropLacking ctx va need k.tlb }
  let mine (x : Walk) : Bool := x.of ctx va && (x.clear || (!clear && x.die == dieOfTile w.tile))
  match s.walks.findIdx? mine with
  | some i =>
    { s with walks := s.walks.modify i fun x => { x with waiters := if x.waiters.contains w then x.waiters else x.waiters ++ [w] } }
  | none =>
    let walk : Walk :=
      { ctx := ctx, va := va, clear := clear, waiters := [w], need := need, die := dieOfTile w.tile, at_ := s.gtc, tile := w.tile }
    { s with walks := insertWalk walk s.walks }

/-- R306: whether a page of a context is being cleared. -/
def State.clearing (s : State) (ctx va : Nat) : Bool := s.walks.any fun w => w.clear && w.of ctx va

/-- R306: the clearing that a write owes its page where the write has no group that waits: an engine's, the device's, or one from
outside. It is made again once the page has been cleared. -/
def State.askClear (s : State) (ctx va tile : Nat) : State :=
  if s.clearing ctx va then s
  else
    let walk : Walk :=
      { ctx := ctx, va := va, clear := true, waiters := [], need := needW, die := dieOfTile tile, at_ := s.gtc, tile := tile }
    { s with walks := insertWalk walk s.walks }

/-- R308: whether a walk is among the 64 that its die's walker runs. -/
def State.walkRuns (s : State) (i : Nat) : Bool :=
  match s.walks[i]? with
  | none => false
  | some w => decide (((s.walks.take i).filter fun x => x.die == w.die).length < 64)

/-- R307: a translation used is the most recent of the tile's TLB, filled from the cluster's. -/
def State.touchTlb (s : State) (tile ctx va need : Nat) : State :=
  let c := clusterOf tile
  match ((s.tile tile).tlb ++ (s.cluster c).tlb).find? fun x => x.covers ctx va && (x.place va need).isSome with
  | none => s
  | some x =>
    let s := s.modTile tile fun t => { t with tlb := (x :: (dropLacking ctx va need t.tlb).filter (· != x)).take 256 }
    if (s.cluster c).tlb.contains x then
      s.modCluster c fun k => { k with tlb := x :: k.tlb.filter (· != x) }
    else s

/-- The page-table address of a virtual or own-domain address. -/
def tableVa (a : Dword) : Nat := if a.toNat < 2 ^ 51 then a.toNat else a.toNat % 2 ^ 37

/-- Whether an access goes through its context's page table: not one by a physical address, nor one to another device. -/
def State.isMapped (s : State) (phys : Bool) (a : Dword) : Bool :=
  !phys && (decide (a.toNat < 2 ^ 51) || decide (a.toNat / 2 ^ 37 % 2 ^ 14 = s.devnum))

/-- The same of an access of a gang, where it goes through the page table. -/
def State.touchAt (s : State) (tile ctx : Nat) (a : Dword) (need : Nat) : State :=
  if s.isMapped false a then s.touchTlb tile ctx (tableVa a) need else s

/-- R302: the fields of a page-table entry. -/
structure Pte where
  v : Bool
  leaf : Bool
  r : Bool
  w : Bool
  x : Bool
  zh : Bool
  sc : Bool
  sz : Nat
  frame : Nat
  zeroOk : Bool
  deriving DecidableEq, Repr

def Pte.ofDword (d : Dword) : Pte :=
  { v := d.getLsbD 0, leaf := d.getLsbD 1, r := d.getLsbD 2, w := d.getLsbD 3, x := d.getLsbD 4, zh := d.getLsbD 5,
    sc := d.getLsbD 6, sz := (d.extractLsb' 7 2).toNat, frame := (d.extractLsb' 12 36).toNat * 4096,
    zeroOk := d.extractLsb' 9 3 == 0 && d.extractLsb' 48 16 == 0 }

/-- log2 of the page size of a leaf (Table 17.2). -/
def Pte.size (p : Pte) : Nat := if p.sz = 0 then 16 else if p.sz = 1 then 21 else 30

/-- Whether the 32 entries of a large page's group agree (R304). -/
def State.groupAgrees (s : State) (now table index : Nat) : Bool :=
  let e := s.homeDword now (table + 8 * index)
  (List.range 32).all fun i => s.homeDword now (table + 8 * (index / 32 * 32 + i)) == e

/-- R303: whether an entry with V = 1 is malformed at a level. -/
def State.malformed (s : State) (now table index level : Nat) (p : Pte) : Bool :=
  !p.zeroOk || p.sz == 3 ||
  (p.leaf && decide (level ≥ 2)) || (!p.leaf && level == 0) ||
  (p.leaf && level == 0 && p.sz == 2) || (p.leaf && level == 1 && p.sz != 2) ||
  (if p.leaf then
    let inHbm := decide (p.frame + 2 ^ p.size ≤ hbmSize)
    let inHost := isHost p.frame && isHost (p.frame + 2 ^ p.size - 1)
    !(inHbm || inHost) || p.frame % 2 ^ p.size != 0 || (p.zh && (p.sz != 0 || inHost)) ||
      (p.sz != 0 && !s.groupAgrees now table index)
   else !decide (p.frame + 4096 ≤ hbmSize))

/-- R303: the walk from a table down, `level + 1` levels to read; an entry that cannot be read ends it with a machine check (R310). -/
def State.walkFrom (s : State) (ctx va : Nat) : Nat → Nat → WalkResult
  | 0, _ => .fault 0x05
  | n + 1, table =>
    let index := va / 2 ^ (16 + 9 * n) % 512
    let p := Pte.ofDword (s.homeDword s.gtc (table + 8 * index))
    if s.bad.contains (lineOf (table + 8 * index)) then .fault 0x0F
    else if !p.v then .fault 0x04
    else if p.leaf && p.sz != 0 && (List.range 4).any fun k => s.bad.contains (lineOf (table + 256 * (index / 32)) + k) then .fault 0x0F
    else if s.malformed s.gtc table index n p then .fault 0x05
    else if p.leaf then
      .ok { ctx := ctx, va := va / 2 ^ p.size * 2 ^ p.size, pa := p.frame, size := p.size,
            r := p.r, w := p.w, x := p.x, sc := p.sc, zh := p.zh }
    else s.walkFrom ctx va n p.frame

/-- R301, R303: the walk of a context's table. -/
def State.walkTable (s : State) (ctx va : Nat) : WalkResult := s.walkFrom ctx va 4 (s.ctx ctx).root

/-- The place of the level-0 entry of a page, where the walk reaches one (R306). -/
def State.leafAt (s : State) (va : Nat) : Nat → Nat → Option Nat
  | 0, _ => none
  | n + 1, table =>
    let at_ := table + 8 * (va / 2 ^ (16 + 9 * n) % 512)
    let p := Pte.ofDword (s.homeDword s.gtc at_)
    if !p.v then none else if p.leaf then some at_ else s.leafAt va n p.frame

/-- R129, R314: every translation of a page of a context, or of the whole context, leaves every TLB. The result of a walk already
delivered to an access stays with it (R308). -/
def State.removePage (s : State) (ctx : Nat) (page : Option Nat) : State :=
  let keep (x : Xlat) : Bool :=
    !(x.ctx == ctx && (match page with | some va => va / 2 ^ x.size == x.va / 2 ^ x.size | none => true))
  { s with
    tiles := s.tiles.map fun t => (t.1, { t.2 with tlb := t.2.tlb.filter keep })
    clusters := s.clusters.map fun c => (c.1, { c.2 with tlb := c.2.tlb.filter keep }) }

/-- An access of the device itself: translation without a TLB, for a context. A write to a page with a zero hint misses until the page
has been cleared and its old translations have gone (R306). -/
def State.placeNow (s : State) (ctx : Nat) (a : Dword) (need : Nat) : Place :=
  let n := a.toNat
  if 2 ^ 52 ≤ n then .fault 0x05
  else if n < 2 ^ 51 ∨ n / 2 ^ 37 % 2 ^ 14 = s.devnum then
    let va := if n < 2 ^ 51 then n else n % 2 ^ 37
    match s.walkTable ctx va with
    | .fault c => .fault c
    | .ok x =>
      if !x.allows need then .fault 0x05
      else if need / 2 % 2 = 1 ∧ s.clearing ctx va then .miss va true
      else (x.place va need).getD (.miss va true)
  else s.place 0 [] ctx a need

/-- The same with the page table as it stands at a time. -/
def State.placeAt (s : State) (now ctx : Nat) (a : Dword) (need : Nat) : Place := { s with gtc := now }.placeNow ctx a need

/-- R314: a page of more than 64 KiB that an access of a context goes through. -/
def State.notePage (s : State) (x : Xlat) : State :=
  if x.size = 16 ∨ (s.ctx x.ctx).large.contains (x.va, x.size) then s
  else s.modCtx x.ctx fun c => { c with large := c.large ++ [(x.va, x.size)] }

/-- The same of an access that goes through the page table as it stands. -/
def State.notePageAt (s : State) (ctx : Nat) (a : Dword) : State :=
  if !s.isMapped false a then s
  else
    match s.walkTable ctx (tableVa a) with
    | .ok x => s.notePage x
    | .fault _ => s

/-- A byte, and `n` bytes, read at home by the device through a context's table. -/
def State.readNow (s : State) (ctx : Nat) (a : Dword) (n : Nat) : Except Nat (List Byte) :=
  match s.placeNow ctx a needR with
  | .at_ loc _ => .ok (s.homeBytes s.gtc loc n)
  | .zero => .ok (List.replicate n 0)
  | .fault c => .error c
  | .miss _ _ => .error 0x04

/-! ## Windows and the scratchpad -/

/-- R227: a byte of a grove's allocation. -/
def Tile.scratchByte (t : Tile) (off : Nat) : Byte := Sparse.get 0 t.scratch off

def Tile.setScratch (t : Tile) (off : Nat) (b : Byte) : Tile := { t with scratch := Sparse.write 0 t.scratch off b }

/-- The base of a gang's allocation in the tile (Table 3.7, SPGEN). -/
def Gang.scratchBase (g : Gang) : Nat := (g.spgen.extractLsb' 16 6).toNat * 4096

/-- R57: DROP counts a discarded write, saturating. -/
def Tile.discard (t : Tile) : Tile := { t with drop := if t.drop = 0xFFFFFFFF then t.drop else t.drop + 1 }

/-- What a window offset names (Table 1.6). -/
inductive WindowPart where
  | vector (slot reg lane : Nat)
  | scalar (slot reg : Nat)
  | scratch (off : Nat)
  | reserved
  deriving DecidableEq, Repr

def windowPart (off : Nat) : WindowPart :=
  if off < 0x40000 then .vector (off / 0x2000) (off % 0x2000 / 128) (off % 128 / 4)
  else if off < 0x50000 then .scalar ((off - 0x40000) / 0x800) (off % 0x800 / 4)
  else if 0x80000 ≤ off ∧ off < 0xC0000 then .scratch (off - 0x80000)
  else .reserved

/-- R11: whether a window word may be reached: generations agree, the slot is occupied, the register or the byte exists. A word of
the scratchpad is looked at by its first byte, so that of a unit that runs over the declared end of an allocation the words that
begin inside it are kept, and the unit counts once in DROP (assumption 55). -/
def State.windowOk (s : State) (tile : Nat) (gen : BitVec 16) (p : WindowPart) : Bool :=
  let t := s.tile tile
  match p with
  | .vector slot reg lane =>
    gen == Sparse.get 0 t.slotGen slot &&
      match s.gang? tile slot with
      | some g => decide (reg < g.nv ∧ lane < 4 * g.nsl)
      | none => false
  | .scalar slot reg =>
    gen == Sparse.get 0 t.slotGen slot &&
      match s.gang? tile slot with
      | some g => decide (reg < g.ns)
      | none => false
  | .scratch off =>
    gen == Sparse.get 0 t.granule (off / 4096) && t.allocs.any fun a => decide (a.base ≤ off ∧ off < a.base + a.bytes)
  | .reserved => false

/-- Table 1.6: the tile, and the part of it, that a tile-window address names. -/
def windowTile (a : Dword) : Nat := ((a.extractLsb' 0 48).toNat - 0xF00000000000) / 0x100000

def windowAt (a : Dword) : WindowPart := windowPart ((a.extractLsb' 0 48).toNat % 0x100000)

/-- R11: whether a write at a window address, with its generation, is not discarded. -/
def State.reaches (s : State) (a : Dword) : Bool := s.windowOk (windowTile a) (a.extractLsb' 48 16) (windowAt a)

/-- R13: whether the window of a result has ended at the next instruction boundary, before which the slices `js` issue one more
instruction. -/
def Pend.endedAfter (p : Pend) (js : List Nat) (d : Dest) : Bool :=
  let past (j : Nat) : Bool := p.over j || (js.contains j && p.left.getD j 0 == 1)
  match d.slice? with
  | some j => past j
  | none => p.slices.all past

/-- R13: whether a window write to a register waits for a result: one whose window has ended by the boundary at which it is applied. -/
def Pend.precedes (p : Pend) (js : List Nat) (d : Dest) : Bool := p.dests.contains d && p.endedAfter js d

/-- R13: a window register write reaches a gang after what it has already written, and after every result whose window has ended by the
boundary at which the write is applied: where such a result is still to come, the write waits for it. -/
def Gang.windowWrite (g : Gang) (js : List Nat) (d : Dest) (x : Word) : Gang :=
  if g.pend.any fun p => p.precedes js d then
    { g with pend := g.pend.map fun p => if p.precedes js d then { p with after := p.after ++ [(d, x)] } else p }
  else g.write d x

/-- The slices of a gang that are executing an instruction now. -/
def State.executing (s : State) (g : Gang) : List Nat :=
  match s.cur with
  | some c => if c.tile = g.tile ∧ c.slot = g.slot then g.group c.slice else []
  | none => []

/-- The `k`-th word from an address. -/
def wordAt (a : Dword) (k : Nat) : Dword := a + BitVec.ofNat 64 (4 * k)

/-- Bytes from an address as words, the last perhaps shorter. -/
def wordsFrom (a : Dword) (bs : List Byte) : List (Dword × List Byte) :=
  (List.range ((bs.length + 3) / 4)).map fun k => (wordAt a k, (bs.drop (4 * k)).take 4)

/-- One word put where a window address leads. -/
def State.putWindow (s : State) (a : Dword) (bs : List Byte) : State :=
  let tile := windowTile a
  let x : Word := BitVec.ofNat 32 (natOfBytes bs)
  match windowAt a with
  | .vector slot reg lane => s.modGang tile slot fun g => g.windowWrite (s.executing g) (.vreg (reg * 32 + lane)) x
  | .scalar slot reg => s.modGang tile slot fun g => g.windowWrite (s.executing g) (.sreg reg) x
  | .scratch off => s.modTile tile fun t => (bs.mapIdx fun i b => (off + i, b)).foldl (fun t b => t.setScratch b.1 b.2) t
  | .reserved => s

/-- R11, R13: a unit written through a tile window, word by word. The answer says whether all of it was kept. -/
def State.writeUnit (s : State) (a : Dword) (bs : List Byte) : State × Bool :=
  (wordsFrom a bs).foldl (fun (r : State × Bool) x =>
    if r.1.reaches x.1 then (r.1.putWindow x.1 x.2, r.2) else (r.1, false)) (s, true)

/-- R11: the same, a unit that was discarded, in whole or in part, counted in DROP. -/
def State.writeWindow (s : State) (a : Dword) (bs : List Byte) : State × Bool :=
  let r := s.writeUnit a bs
  (if r.2 then r.1 else r.1.modTile (windowTile a) Tile.discard, r.2)

/-- R342: whether a tile is dormant or waking: what comes for it is held until its exit. -/
def Tile.asleep (t : Tile) : Bool := t.dorm == .dormant || t.dorm == .waking

/-- R14: whether a tile holds window writes back: it is switching, dormant or waking, or its cluster relocks (R8). -/
def State.holds (s : State) (tile : Nat) : Bool :=
  let t := s.tile tile
  t.switching.isSome || t.asleep || (s.cluster (clusterOf tile)).relock.isSome

/-- R14, R342: a window write on its way to a tile: a wake message, and held where the tile holds writes back. -/
def State.sendWindow (s : State) (a : Dword) (bs : List Byte) : State :=
  let tile := windowTile a
  (if s.holds tile then s.modTile tile fun t => { t with held := t.held ++ [.write ⟨a, bs, none⟩] } else (s.writeWindow a bs).1).wakeTile tile

/-- R13: whether the value of a register is still to come for a reader through the window: a result whose window has ended. -/
def Gang.owes (g : Gang) (d : Dest) : Bool := g.pend.any fun p => p.dests.contains d && p.due d

/-- R13: whether a window read of a word must wait. -/
def State.windowPending (s : State) (a : Dword) : Bool :=
  s.reaches a &&
    match windowAt a with
    | .vector slot reg lane => (s.gang? (windowTile a) slot).any fun g => g.owes (.vreg (reg * 32 + lane))
    | .scalar slot reg => (s.gang? (windowTile a) slot).any fun g => g.owes (.sreg reg)
    | _ => false

/-- R11, R13: one word read through a tile window; zero where a write would be discarded. -/
def State.readWindow (s : State) (a : Dword) : Word :=
  let tile := windowTile a
  if !s.reaches a then 0
  else
    match windowAt a with
    | .vector slot reg lane => ((s.gang? tile slot).map fun g => g.vreg reg lane).getD 0
    | .scalar slot reg => ((s.gang? tile slot).map fun g => g.sreg reg).getD 0
    | .scratch off =>
      BitVec.ofNat 32 (natOfBytes ((List.range 4).map fun i => (s.tile tile).scratchByte (off + i)))
    | .reserved => 0

/-- Table 1.6: the cluster, bank and element of an accumulator window address. -/
def accPart (phys : Nat) : Nat × Nat :=
  let off := phys - 0xF00100000000
  (off / 0x20000, off % 0x20000 / 4)

/-- One FP32 word of the accumulator banks: element `bank * 16384 + row * 128 + column`. -/
def Cluster.accWord (c : Cluster) (i : Nat) : Word := Sparse.get 0 c.acc i

def Cluster.setAcc (c : Cluster) (i : Nat) (x : Word) : Cluster := { c with acc := Sparse.write 0 c.acc i x }

end Sys2Proof.Machine
end

