-- ==== Sys2Proof/Machine/Operands.lean ====
section
/-!
DEFINITION. Operand forms: the registers every word names (R88, R49, R55), the checks made before an instruction starts
(R96, R199), links (R21-R26), lookaheads (R90, R100) and the fields a repeat prefix steps (R103, R104).
-/

namespace Sys2Proof.Machine

/-- The registers an instruction names: vector read and written, scalar read and written. -/
structure Regs where
  rv : List Nat
  wv : List Nat
  rs : List Nat
  ws : List Nat
  deriving DecidableEq, Repr

/-- R88: the registers named by each instruction, with every register a multi-register operand or a parameter block implies. -/
def Instr.regs : Instr → Regs
  | .jmp a => ⟨[], [], [a.toNat, a.toNat + 1], []⟩
  | .regang d a => ⟨[], [], [a.toNat], [d.toNat]⟩
  | .setmode a => ⟨[], [], [a.toNat], []⟩
  | .rdsr d s => ⟨[], [], [], (if srWidth s.toNat == some 64 then [d.toNat, d.toNat + 1] else [d.toNat])⟩
  | .wrsr d s => ⟨[], [], (if srWidth s.toNat == some 64 then [d.toNat, d.toNat + 1] else [d.toNat]), []⟩
  | .lnch d a => ⟨[], [], [a.toNat, a.toNat + 1], [d.toNat]⟩
  | .logw a => ⟨[], [], [a.toNat], []⟩
  | .tlbinv a => ⟨[], [], [a.toNat, a.toNat + 1], []⟩
  | .add d a b => ⟨[], [], [a.toNat, b.toNat], [d.toNat]⟩
  | .sub d a b => ⟨[], [], [a.toNat, b.toNat], [d.toNat]⟩
  | .mul d a b => ⟨[], [], [a.toNat, b.toNat], [d.toNat]⟩
  | .mulh d a b => ⟨[], [], [a.toNat, b.toNat], [d.toNat]⟩
  | .mulhN d a b => ⟨[], [], [a.toNat, b.toNat], [d.toNat]⟩
  | .div d a b => ⟨[], [], [a.toNat, b.toNat], [d.toNat]⟩
  | .divN d a b => ⟨[], [], [a.toNat, b.toNat], [d.toNat]⟩
  | .rem d a b => ⟨[], [], [a.toNat, b.toNat], [d.toNat]⟩
  | .remN d a b => ⟨[], [], [a.toNat, b.toNat], [d.toNat]⟩
  | .and d a b => ⟨[], [], [a.toNat, b.toNat], [d.toNat]⟩
  | .or d a b => ⟨[], [], [a.toNat, b.toNat], [d.toNat]⟩
  | .xor d a b => ⟨[], [], [a.toNat, b.toNat], [d.toNat]⟩
  | .andn d a b => ⟨[], [], [a.toNat, b.toNat], [d.toNat]⟩
  | .shl d a b => ⟨[], [], [a.toNat, b.toNat], [d.toNat]⟩
  | .shr d a b => ⟨[], [], [a.toNat, b.toNat], [d.toNat]⟩
  | .sra d a b => ⟨[], [], [a.toNat, b.toNat], [d.toNat]⟩
  | .rol d a b => ⟨[], [], [a.toNat, b.toNat], [d.toNat]⟩
  | .min d a b => ⟨[], [], [a.toNat, b.toNat], [d.toNat]⟩
  | .max d a b => ⟨[], [], [a.toNat, b.toNat], [d.toNat]⟩
  | .minN d a b => ⟨[], [], [a.toNat, b.toNat], [d.toNat]⟩
  | .maxN d a b => ⟨[], [], [a.toNat, b.toNat], [d.toNat]⟩
  | .cmp a b => ⟨[], [], [a.toNat, b.toNat], []⟩
  | .bfx d a b => ⟨[], [], [a.toNat, b.toNat], [d.toNat]⟩
  | .bfi d a b => ⟨[], [], [a.toNat, b.toNat, d.toNat], [d.toNat]⟩
  | .mov d a => ⟨[], [], [a.toNat], [d.toNat]⟩
  | .popc d a => ⟨[], [], [a.toNat], [d.toNat]⟩
  | .clz d a => ⟨[], [], [a.toNat], [d.toNat]⟩
  | .ctz d a => ⟨[], [], [a.toNat], [d.toNat]⟩
  | .selCond d a _ => ⟨[], [], [a.toNat], [d.toNat]⟩
  | .cmpi d _ => ⟨[], [], [d.toNat], []⟩
  | .addi d _ => ⟨[], [], [d.toNat], [d.toNat]⟩
  | .andi d _ => ⟨[], [], [d.toNat], [d.toNat]⟩
  | .ori d _ => ⟨[], [], [d.toNat], [d.toNat]⟩
  | .xori d _ => ⟨[], [], [d.toNat], [d.toNat]⟩
  | .ldi d _ => ⟨[], [], [], [d.toNat]⟩
  | .ldlo d _ => ⟨[], [], [d.toNat], [d.toNat]⟩
  | .ldhi d _ => ⟨[], [], [d.toNat], [d.toNat]⟩
  | .iaddV d a b _ => ⟨[a.toNat, b.toNat], [d.toNat], [], []⟩
  | .iaddVs d a b _ => ⟨[a.toNat], [d.toNat], [b.toNat], []⟩
  | .isubV d a b _ => ⟨[a.toNat, b.toNat], [d.toNat], [], []⟩
  | .isubVs d a b _ => ⟨[a.toNat], [d.toNat], [b.toNat], []⟩
  | .imulV d a b _ => ⟨[a.toNat, b.toNat], [d.toNat], [], []⟩
  | .imulVs d a b _ => ⟨[a.toNat], [d.toNat], [b.toNat], []⟩
  | .imulhV d a b _ => ⟨[a.toNat, b.toNat], [d.toNat], [], []⟩
  | .imulhVs d a b _ => ⟨[a.toNat], [d.toNat], [b.toNat], []⟩
  | .imulhNV d a b _ => ⟨[a.toNat, b.toNat], [d.toNat], [], []⟩
  | .imulhNVs d a b _ => ⟨[a.toNat], [d.toNat], [b.toNat], []⟩
  | .imadV d a b _ => ⟨[a.toNat, b.toNat, d.toNat], [d.toNat], [], []⟩
  | .imadVs d a b _ => ⟨[a.toNat, d.toNat], [d.toNat], [b.toNat], []⟩
  | .iandV d a b _ => ⟨[a.toNat, b.toNat], [d.toNat], [], []⟩
  | .iandVs d a b _ => ⟨[a.toNat], [d.toNat], [b.toNat], []⟩
  | .iorV d a b _ => ⟨[a.toNat, b.toNat], [d.toNat], [], []⟩
  | .iorVs d a b _ => ⟨[a.toNat], [d.toNat], [b.toNat], []⟩
  | .ixorV d a b _ => ⟨[a.toNat, b.toNat], [d.toNat], [], []⟩
  | .ixorVs d a b _ => ⟨[a.toNat], [d.toNat], [b.toNat], []⟩
  | .iandnV d a b _ => ⟨[a.toNat, b.toNat], [d.toNat], [], []⟩
  | .iandnVs d a b _ => ⟨[a.toNat], [d.toNat], [b.toNat], []⟩
  | .ishlV d a b _ => ⟨[a.toNat, b.toNat], [d.toNat], [], []⟩
  | .ishlVs d a b _ => ⟨[a.toNat], [d.toNat], [b.toNat], []⟩
  | .ishrV d a b _ => ⟨[a.toNat, b.toNat], [d.toNat], [], []⟩
  | .ishrVs d a b _ => ⟨[a.toNat], [d.toNat], [b.toNat], []⟩
  | .israV d a b _ => ⟨[a.toNat, b.toNat], [d.toNat], [], []⟩
  | .israVs d a b _ => ⟨[a.toNat], [d.toNat], [b.toNat], []⟩
  | .iminV d a b _ => ⟨[a.toNat, b.toNat], [d.toNat], [], []⟩
  | .iminVs d a b _ => ⟨[a.toNat], [d.toNat], [b.toNat], []⟩
  | .imaxV d a b _ => ⟨[a.toNat, b.toNat], [d.toNat], [], []⟩
  | .imaxVs d a b _ => ⟨[a.toNat], [d.toNat], [b.toNat], []⟩
  | .iminNV d a b _ => ⟨[a.toNat, b.toNat], [d.toNat], [], []⟩
  | .iminNVs d a b _ => ⟨[a.toNat], [d.toNat], [b.toNat], []⟩
  | .imaxNV d a b _ => ⟨[a.toNat, b.toNat], [d.toNat], [], []⟩
  | .imaxNVs d a b _ => ⟨[a.toNat], [d.toNat], [b.toNat], []⟩
  | .iselV _ d a b _ => ⟨[a.toNat, b.toNat], [d.toNat], [], []⟩
  | .iselVs _ d a b _ => ⟨[a.toNat], [d.toNat], [b.toNat], []⟩
  | .icmp _ _ a b => ⟨[a.toNat, b.toNat], [], [], []⟩
  | .inot d a => ⟨[a.toNat], [d.toNat], [], []⟩
  | .iabs d a => ⟨[a.toNat], [d.toNat], [], []⟩
  | .ineg d a => ⟨[a.toNat], [d.toNat], [], []⟩
  | .ipopc d a => ⟨[a.toNat], [d.toNat], [], []⟩
  | .iclz d a => ⟨[a.toNat], [d.toNat], [], []⟩
  | .lanei d => ⟨[], [d.toNat], [], []⟩
  | .ibfx d a b => ⟨[a.toNat, b.toNat], [d.toNat], [], []⟩
  | .ibfi d a b => ⟨[a.toNat, b.toNat, d.toNat], [d.toNat], [], []⟩
  | .vbc d b => ⟨[], [d.toNat], [b.toNat], []⟩
  | .shfl _ d a b => ⟨[a.toNat, b.toNat], [d.toNat], [], []⟩
  | .bcast _ d a b => ⟨[a.toNat], [d.toNat], [b.toNat], []⟩
  | .vget _ d a b => ⟨[a.toNat], [], [b.toNat], [d.toNat]⟩
  | .ballot _ d _ => ⟨[], [], [], [d.toNat]⟩
  | .matchv _ d a => ⟨[a.toNat], [d.toNat], [], []⟩
  | .isect _ d a b => ⟨[a.toNat, b.toNat], [d.toNat], [], []⟩
  | .cvt _ d a _ => ⟨[a.toNat], [d.toNat], [], []⟩
  | .narrow _ d a => ⟨[a.toNat, d.toNat], [d.toNat], [], []⟩
  | .widen _ d a => ⟨[a.toNat], [d.toNat], [], []⟩
  | .faddV d a b _ => ⟨[a.toNat, b.toNat], [d.toNat], [], []⟩
  | .faddVs d a b _ => ⟨[a.toNat], [d.toNat], [b.toNat], []⟩
  | .fsubV d a b _ => ⟨[a.toNat, b.toNat], [d.toNat], [], []⟩
  | .fsubVs d a b _ => ⟨[a.toNat], [d.toNat], [b.toNat], []⟩
  | .fmulV d a b _ => ⟨[a.toNat, b.toNat], [d.toNat], [], []⟩
  | .fmulVs d a b _ => ⟨[a.toNat], [d.toNat], [b.toNat], []⟩
  | .ffmaV d a b _ => ⟨[a.toNat, b.toNat, d.toNat], [d.toNat], [], []⟩
  | .ffmaVs d a b _ => ⟨[a.toNat, d.toNat], [d.toNat], [b.toNat], []⟩
  | .ffmsV d a b _ => ⟨[a.toNat, b.toNat, d.toNat], [d.toNat], [], []⟩
  | .ffmsVs d a b _ => ⟨[a.toNat, d.toNat], [d.toNat], [b.toNat], []⟩
  | .fnmaV d a b _ => ⟨[a.toNat, b.toNat, d.toNat], [d.toNat], [], []⟩
  | .fnmaVs d a b _ => ⟨[a.toNat, d.toNat], [d.toNat], [b.toNat], []⟩
  | .fminV d a b _ => ⟨[a.toNat, b.toNat], [d.toNat], [], []⟩
  | .fminVs d a b _ => ⟨[a.toNat], [d.toNat], [b.toNat], []⟩
  | .fmaxV d a b _ => ⟨[a.toNat, b.toNat], [d.toNat], [], []⟩
  | .fmaxVs d a b _ => ⟨[a.toNat], [d.toNat], [b.toNat], []⟩
  | .fabs d a => ⟨[a.toNat], [d.toNat], [], []⟩
  | .fneg d a => ⟨[a.toNat], [d.toNat], [], []⟩
  | .fclass d a => ⟨[a.toNat], [d.toNat], [], []⟩
  | .frnd d a => ⟨[a.toNat], [d.toNat], [], []⟩
  | .fcmp _ _ a b => ⟨[a.toNat, b.toNat], [], [], []⟩
  | .frcp _ d a => ⟨[a.toNat], [d.toNat], [], []⟩
  | .frsq _ d a => ⟨[a.toNat], [d.toNat], [], []⟩
  | .fsqrt _ d a => ⟨[a.toNat], [d.toNat], [], []⟩
  | .fdiv _ d a b => ⟨[a.toNat, b.toNat], [d.toNat], [], []⟩
  | .fexp2 _ d a => ⟨[a.toNat], [d.toNat], [], []⟩
  | .flog2 _ d a => ⟨[a.toNat], [d.toNat], [], []⟩
  | .fexp _ d a => ⟨[a.toNat], [d.toNat], [], []⟩
  | .flog _ d a => ⟨[a.toNat], [d.toNat], [], []⟩
  | .fsinpi _ d a => ⟨[a.toNat], [d.toNat], [], []⟩
  | .fcospi _ d a => ⟨[a.toNat], [d.toNat], [], []⟩
  | .rng _ d a b => ⟨[a.toNat, a.toNat + 1], [d.toNat, d.toNat + 1, d.toNat + 2, d.toNat + 3], [b.toNat, b.toNat + 1, b.toNat + 2, b.toNat + 3], []⟩
  | .rfadd d a b _ => ⟨[a.toNat, b.toNat], [d.toNat], [], []⟩
  | .unfadd d a b => ⟨[a.toNat, b.toNat], [d.toNat], [], []⟩
  | .rfmul d a b _ => ⟨[a.toNat, b.toNat], [d.toNat], [], []⟩
  | .unfmul d a b => ⟨[a.toNat, b.toNat], [d.toNat], [], []⟩
  | .rfma d a b _ => ⟨[a.toNat, b.toNat, d.toNat], [d.toNat], [], []⟩
  | .unfma d a b => ⟨[a.toNat, b.toNat, d.toNat], [d.toNat], [], []⟩
  | .rnarrow d a => ⟨[a.toNat], [d.toNat], [], []⟩
  | .unnarrow d a => ⟨[a.toNat], [d.toNat], [], []⟩
  | .rshr d a b => ⟨[a.toNat, b.toNat], [d.toNat], [], []⟩
  | .unshr d a b => ⟨[a.toNat, b.toNat], [d.toNat], [], []⟩
  | .rimul d a b _ => ⟨[a.toNat], [d.toNat], [b.toNat], []⟩
  | .unimul d a b => ⟨[a.toNat], [d.toNat], [b.toNat], []⟩
  | .riadd d a b _ => ⟨[a.toNat, b.toNat], [d.toNat], [], []⟩
  | .unniadd d a b => ⟨[a.toNat, b.toNat], [d.toNat], [], []⟩
  | .rmax0 d a => ⟨[a.toNat], [d.toNat], [], []⟩
  | .unmax0 d a => ⟨[], [d.toNat, a.toNat], [], []⟩
  | .rsmark a => ⟨[], [], [a.toNat], []⟩
  | .unmark a => ⟨[], [], [a.toNat], []⟩
  | .rsdrop a => ⟨[], [], [a.toNat], []⟩
  | .rsdep d => ⟨[], [], [], [d.toNat]⟩
  | .ldB _ d a b _ => ⟨[a.toNat], [d.toNat], [b.toNat, b.toNat + 1], []⟩
  | .ldBs _ d a b _ => ⟨[a.toNat], [d.toNat], [b.toNat, b.toNat + 1], []⟩
  | .ldH _ d a b _ => ⟨[a.toNat], [d.toNat], [b.toNat, b.toNat + 1], []⟩
  | .ldHs _ d a b _ => ⟨[a.toNat], [d.toNat], [b.toNat, b.toNat + 1], []⟩
  | .ldW _ d a b _ => ⟨[a.toNat], [d.toNat], [b.toNat, b.toNat + 1], []⟩
  | .ldAcqW _ d a b => ⟨[a.toNat], [d.toNat], [b.toNat, b.toNat + 1], []⟩
  | .ldD _ d a b _ => ⟨[a.toNat], [d.toNat, d.toNat + 1], [b.toNat, b.toNat + 1], []⟩
  | .ldQ _ d a b _ => ⟨[a.toNat], [d.toNat, d.toNat + 1, d.toNat + 2, d.toNat + 3], [b.toNat, b.toNat + 1], []⟩
  | .stB d a b _ => ⟨[a.toNat, d.toNat], [], [b.toNat, b.toNat + 1], []⟩
  | .stH d a b _ => ⟨[a.toNat, d.toNat], [], [b.toNat, b.toNat + 1], []⟩
  | .stW d a b _ => ⟨[a.toNat, d.toNat], [], [b.toNat, b.toNat + 1], []⟩
  | .stRelW d a b => ⟨[a.toNat, d.toNat], [], [b.toNat, b.toNat + 1], []⟩
  | .stD d a b _ => ⟨[a.toNat, d.toNat, d.toNat + 1], [], [b.toNat, b.toNat + 1], []⟩
  | .stQ d a b _ => ⟨[a.toNat, d.toNat, d.toNat + 1, d.toNat + 2, d.toNat + 3], [], [b.toNat, b.toNat + 1], []⟩
  | .sldW _ d a b _ => ⟨[], [], [b.toNat, b.toNat + 1, a.toNat], [d.toNat]⟩
  | .sldAcq _ d a b => ⟨[], [], [b.toNat, b.toNat + 1, a.toNat], [d.toNat]⟩
  | .sldWPhys _ d a b => ⟨[], [], [b.toNat, b.toNat + 1, a.toNat], [d.toNat]⟩
  | .sldD _ d a b _ => ⟨[], [], [b.toNat, b.toNat + 1, a.toNat], [d.toNat, d.toNat + 1]⟩
  | .sstW d a b _ => ⟨[], [], [b.toNat, b.toNat + 1, a.toNat, d.toNat], []⟩
  | .sstRel d a b => ⟨[], [], [b.toNat, b.toNat + 1, a.toNat, d.toNat], []⟩
  | .sstWPhys d a b => ⟨[], [], [b.toNat, b.toNat + 1, a.toNat, d.toNat], []⟩
  | .sstD d a b _ => ⟨[], [], [b.toNat, b.toNat + 1, a.toNat, d.toNat, d.toNat + 1], []⟩
  | .atom _ d a r o _ => ⟨(if o == 9 then [d.toNat, d.toNat + 1] else [d.toNat]) ++ [a.toNat, a.toNat + 1], if r == 1 then [d.toNat] else [], [], []⟩
  | .satom _ d r o b _ => ⟨[], [], (if o == 9 then [d.toNat, d.toNat + 1] else [d.toNat]) ++ [b.toNat, b.toNat + 1], if r == 1 then [d.toNat] else []⟩
  | .wata d a b => ⟨[], [], [d.toNat, a.toNat, b.toNat, b.toNat + 1], []⟩
  | .wake b => ⟨[], [], [b.toNat, b.toNat + 1], []⟩
  | .zfill a b => ⟨[a.toNat], [], [b.toNat, b.toNat + 1], []⟩
  | .pf a b => ⟨[a.toNat], [], [b.toNat, b.toNat + 1], []⟩
  | .pfL2 a b => ⟨[a.toNat], [], [b.toNat, b.toNat + 1], []⟩
  | .cpy4 _ _ p d => ⟨[], [d.toNat], [p.toNat, p.toNat + 1, p.toNat + 2, p.toNat + 3, p.toNat + 4, p.toNat + 5], []⟩
  | .cpy8 _ _ p d => ⟨[], [d.toNat], [p.toNat, p.toNat + 1, p.toNat + 2, p.toNat + 3, p.toNat + 4, p.toNat + 5], []⟩
  | .cpy16 _ _ p d => ⟨[], [d.toNat], [p.toNat, p.toNat + 1, p.toNat + 2, p.toNat + 3, p.toNat + 4, p.toNat + 5], []⟩
  | .bcpy _ _ p d => ⟨[], [], [p.toNat, p.toNat + 1, p.toNat + 2, p.toNat + 3, p.toNat + 4, p.toNat + 5, p.toNat + 6, p.toNat + 7, p.toNat + 8], [d.toNat]⟩
  | .wcpy _ _ p d => ⟨[], [], [p.toNat, p.toNat + 1, p.toNat + 2, p.toNat + 3, p.toNat + 4, p.toNat + 5, p.toNat + 6, p.toNat + 7, p.toNat + 8], [d.toNat]⟩
  | .mcast _ _ p d => ⟨[], [], [p.toNat, p.toNat + 1, p.toNat + 2, p.toNat + 3, p.toNat + 4], [d.toNat]⟩
  | .gath _ _ p d => ⟨[], [], [p.toNat, p.toNat + 1, p.toNat + 2, p.toNat + 3, p.toNat + 4, p.toNat + 5, p.toNat + 6, p.toNat + 7], [d.toNat]⟩
  | .czero _ _ p d => ⟨[], [], [p.toNat, p.toNat + 1, p.toNat + 2, p.toNat + 3], [d.toNat]⟩
  | .wldS _ _ p d => ⟨[], [], [p.toNat, p.toNat + 1, p.toNat + 2, p.toNat + 3, p.toNat + 4, p.toNat + 5], [d.toNat]⟩
  | .wldG _ _ p d => ⟨[], [], [p.toNat, p.toNat + 1, p.toNat + 2, p.toNat + 3, p.toNat + 4, p.toNat + 5], [d.toNat]⟩
  | .mma _ _ p d => ⟨[], [], [p.toNat], [d.toNat]⟩
  | .mloop _ _ p d => ⟨[], [], [p.toNat, p.toNat + 1, p.toNat + 2, p.toNat + 3, p.toNat + 4, p.toNat + 5, p.toNat + 6, p.toNat + 7, p.toNat + 8, p.toNat + 9, p.toNat + 10, p.toNat + 11, p.toNat + 12, p.toNat + 13], [d.toNat]⟩
  | .mrec _ _ p d => ⟨[], [], [p.toNat, p.toNat + 1, p.toNat + 2, p.toNat + 3, p.toNat + 4, p.toNat + 5, p.toNat + 6, p.toNat + 7, p.toNat + 8, p.toNat + 9], [d.toNat]⟩
  | .accrd _ _ p d => ⟨[], [], [p.toNat, p.toNat + 1, p.toNat + 2, p.toNat + 3], [d.toNat]⟩
  | .accwr _ _ p d => ⟨[], [], [p.toNat, p.toNat + 1, p.toNat + 2, p.toNat + 3], [d.toNat]⟩
  | .accz _ _ p d => ⟨[], [], [p.toNat], [d.toNat]⟩
  | .mstat _ p d => ⟨[], [], [p.toNat], [d.toNat, d.toNat + 1]⟩
  | .collAr _ _ p d => ⟨[], [], [p.toNat, p.toNat + 1, p.toNat + 2, p.toNat + 3, p.toNat + 4, p.toNat + 5, p.toNat + 6, p.toNat + 7, p.toNat + 8], [d.toNat]⟩
  | .collRs _ _ p d => ⟨[], [], [p.toNat, p.toNat + 1, p.toNat + 2, p.toNat + 3, p.toNat + 4, p.toNat + 5, p.toNat + 6, p.toNat + 7, p.toNat + 8], [d.toNat]⟩
  | .collAg _ _ p d => ⟨[], [], [p.toNat, p.toNat + 1, p.toNat + 2, p.toNat + 3, p.toNat + 4, p.toNat + 5, p.toNat + 6, p.toNat + 7, p.toNat + 8], [d.toNat]⟩
  | .pnset _ a => ⟨[], [], [a.toNat], []⟩
  | _ => ⟨[], [], [], []⟩

/-- R100: whether the slice closes its windows before it issues the instruction, beside a hand-on link. -/
def Instr.closes : Instr → Bool
  | .nop => true
  | .bCond _ _ => true
  | .bMz _ => true
  | .bMa _ => true
  | .call _ => true
  | .jmp _ => true
  | .ret => true
  | .regang _ _ => true
  | .exit => true
  | .ecall _ => true
  | .trap _ => true
  | .brk _ => true
  | .tret => true
  | .tretSkip => true
  | .tkillGang => true
  | .tkillGrove => true
  | .tpark => true
  | .gear0 => true
  | .gear1 => true
  | .setmode _ => true
  | .msetGp _ => true
  | .msetRm _ => true
  | .msetEt _ => true
  | .rdsr _ _ => true
  | .wrsr _ _ => true
  | .waitc _ _ => true
  | .lnch _ _ => true
  | .barrArrive _ => true
  | .barrWait _ => true
  | .barrSync _ => true
  | .flush => true
  | .logw _ => true
  | .tlbinv _ => true
  | .wata _ _ _ => true
  | _ => false

/-- The link field of a linkable instruction (Table 2.1), 0 for any other. -/
def Instr.link : Instr → Nat
  | .iaddV _ _ _ l => l.toNat
  | .iaddVs _ _ _ l => l.toNat
  | .isubV _ _ _ l => l.toNat
  | .isubVs _ _ _ l => l.toNat
  | .imulV _ _ _ l => l.toNat
  | .imulVs _ _ _ l => l.toNat
  | .imulhV _ _ _ l => l.toNat
  | .imulhVs _ _ _ l => l.toNat
  | .imulhNV _ _ _ l => l.toNat
  | .imulhNVs _ _ _ l => l.toNat
  | .imadV _ _ _ l => l.toNat
  | .imadVs _ _ _ l => l.toNat
  | .iandV _ _ _ l => l.toNat
  | .iandVs _ _ _ l => l.toNat
  | .iorV _ _ _ l => l.toNat
  | .iorVs _ _ _ l => l.toNat
  | .ixorV _ _ _ l => l.toNat
  | .ixorVs _ _ _ l => l.toNat
  | .iandnV _ _ _ l => l.toNat
  | .iandnVs _ _ _ l => l.toNat
  | .ishlV _ _ _ l => l.toNat
  | .ishlVs _ _ _ l => l.toNat
  | .ishrV _ _ _ l => l.toNat
  | .ishrVs _ _ _ l => l.toNat
  | .israV _ _ _ l => l.toNat
  | .israVs _ _ _ l => l.toNat
  | .iminV _ _ _ l => l.toNat
  | .iminVs _ _ _ l => l.toNat
  | .imaxV _ _ _ l => l.toNat
  | .imaxVs _ _ _ l => l.toNat
  | .iminNV _ _ _ l => l.toNat
  | .iminNVs _ _ _ l => l.toNat
  | .imaxNV _ _ _ l => l.toNat
  | .imaxNVs _ _ _ l => l.toNat
  | .iselV _ _ _ _ l => l.toNat
  | .iselVs _ _ _ _ l => l.toNat
  | .faddV _ _ _ l => l.toNat
  | .faddVs _ _ _ l => l.toNat
  | .fsubV _ _ _ l => l.toNat
  | .fsubVs _ _ _ l => l.toNat
  | .fmulV _ _ _ l => l.toNat
  | .fmulVs _ _ _ l => l.toNat
  | .ffmaV _ _ _ l => l.toNat
  | .ffmaVs _ _ _ l => l.toNat
  | .ffmsV _ _ _ l => l.toNat
  | .ffmsVs _ _ _ l => l.toNat
  | .fnmaV _ _ _ l => l.toNat
  | .fnmaVs _ _ _ l => l.toNat
  | .fminV _ _ _ l => l.toNat
  | .fminVs _ _ _ l => l.toNat
  | .fmaxV _ _ _ l => l.toNat
  | .fmaxVs _ _ _ l => l.toNat
  | .rfadd _ _ _ l => l.toNat
  | .rfmul _ _ _ l => l.toNat
  | .rfma _ _ _ l => l.toNat
  | .rimul _ _ _ l => l.toNat
  | .riadd _ _ _ l => l.toNat
  | _ => 0

/-- R27: an instruction with a hand-on link. -/
def Instr.handOn (i : Instr) : Bool := Instr.link i == 3

/-! ## Checks before an instruction starts -/

/-- R49, R55: every register named exists in the gang. -/
def Gang.regsOk (g : Gang) (i : Instr) : Bool :=
  let r := Instr.regs i
  (r.rv ++ r.wv).all (fun n => decide (n < g.nv)) && (r.rs ++ r.ws).all fun n => decide (n < g.ns)

/-- The active-lane mask of a group (R35, R106). -/
def Gang.activeMask (g : Gang) (js : List Nat) : Word := maskOf (g.active js)

/-- R35: a trap detected before any lane starts reports the group's active lanes; its slice is the group's lowest. -/
def Gang.frontTrap (g : Gang) (c : Cur) (cause : Nat) (tval : Dword) : TrapInfo :=
  { cause := cause, tval := tval, mask := g.activeMask (g.group c.slice), slice := c.slice }

/-- The word of an instruction as TVAL reports it. -/
def wordVal (i : Instr) : Dword := (encode i).setWidth 64

/-- R96: illegal instruction, TVAL the word. -/
def Gang.illegal (g : Gang) (c : Cur) (i : Instr) : TrapInfo := g.frontTrap c 0x01 (wordVal i)

/-- R97: privileged, TVAL the word. -/
def Gang.privileged (g : Gang) (c : Cur) (i : Instr) : TrapInfo := g.frontTrap c 0x02 (wordVal i)

/-- R199: the first marked status register the instruction reads, as an engine fault: of a vector register its marked lanes, lowest lane
reported, where a marked lane is active in the group that reads it (assumption 70). -/
def Gang.engineFault? (g : Gang) (c : Cur) (i : Instr) : Option (Gang × TrapInfo) :=
  let js := g.group c.slice
  let r := Instr.regs i
  match r.rs.find? g.markS.contains with
  | some n =>
    some ({ g with markS := g.markS.filter (· != n) }, g.frontTrap c 0x10 ((g.sreg n).setWidth 64))
  | none =>
    match r.rv.find? fun n => (g.active js).any fun i => g.markV.contains (n * 32 + i) with
    | some n =>
      let lanes := (List.range 32).filter fun i => g.markV.contains (n * 32 + i)
      let low := lanes.headD 0
      some ({ g with markV := g.markV.filter fun k => k / 32 != n },
        { cause := 0x10, tval := (g.vreg n low).setWidth 64, mask := maskOf lanes, slice := low / 4 })
    | none => none

/-! ### Shadow lanes (R37, R38) -/

/-- R37: the instructions whose lanes can be checked: all that work lane by lane but memory accesses, atomics, fences, engine commands
and control. -/
def isLaneOp (i : Instr) : Bool :=
  let op := (field (encode i) 24 8).toNat
  decide (0x40 ≤ op ∧ op ≤ 0xBB)

/-- R37: the lower lanes of the pairs of a group in which exactly one lane is active, whose masked lane recomputes its operation. -/
def Gang.pairs (g : Gang) (js : List Nat) : List Nat :=
  ((js.flatMap lanesOf).filter fun l => l % 2 == 0).filter fun l => (g.active js).contains l != (g.active js).contains (l + 1)

/-- R38: the lowest pair whose two results differ. A lane recomputes what its partner has computed with its partner's operands and
mode, so that they differ only where the hardware has erred (assumption 53). -/
def State.mismatch? (s : State) (c : Cur) (g : Gang) (i : Instr) : Option TrapInfo :=
  let js := g.group c.slice
  if s.upset = 0 || !isLaneOp i || !modeSh (g.slice c.slice).mode then none
  else
    ((g.pairs js).find? fun l => s.upset.getLsbD l || s.upset.getLsbD (l + 1)).map fun l =>
      { cause := 0x0F, tval := BitVec.ofNat 64 l, mask := maskOf [l, l + 1], slice := l / 4 }

/-- Whether a slice got past the instruction it was at. -/
def moved (x y : Slice) : Bool := x.pc != y.pc || x.repc != y.repc

/-- Whether a group has committed the instruction at which it stood. -/
def State.committed (s : State) (c : Cur) (old : Gang) : Bool :=
  match s.gang? c.tile c.slot with
  | none => false
  | some g => moved (old.slice c.slice) (g.slice c.slice) && g.sup == old.sup

/-- R38: an instruction of which a shadow result differs is cancelled where it would commit, and the gang takes a machine check. -/
def State.shadowed (s : State) (c : Cur) (g : Gang) (i : Instr) (t : State) : State :=
  match s.mismatch? c g i with
  | none => t
  | some x => if t.committed c g then s.trap c x else t

/-- The executing group's turn at an instruction: nothing without one, the traps of R96, those of `pre` that precede its
operands (R97, R133), the engine fault of R199, or its effect, unless a shadow lane differs (R38). -/
def onGroupIf (i : Instr) (s : State) (pre : Cur → Gang → Option TrapInfo) (f : Cur → Gang → State) : Out :=
  match s.cur with
  | none => .next s
  | some c =>
    match s.gang? c.tile c.slot with
    | none => .next s
    | some g =>
      if !g.regsOk i then .next (s.trap c (g.illegal c i))
      else
        match pre c g with
        | some t => .next (s.trap c t)
        | none =>
          match g.engineFault? c i with
          | some (g, t) => .next ((s.setGang c.tile c.slot g).trap c t)
          | none => .next (s.shadowed c g i (f c g))

/-- No check beyond those of R96 and R199. -/
def noCheck (_ : Cur) (_ : Gang) : Option TrapInfo := none

/-- R97: a privileged instruction outside a handler. -/
def supOnly (i : Instr) (c : Cur) (g : Gang) : Option TrapInfo := if g.sup then none else some (g.privileged c i)

def onGroup (i : Instr) (s : State) (f : Cur → Gang → State) : Out := onGroupIf i s noCheck f

/-- The gang put back in its slot. -/
def State.put (s : State) (c : Cur) (g : Gang) : State := s.setGang c.tile c.slot g

/-- The gang put back, its group past the instruction. -/
def State.finish (s : State) (c : Cur) (g : Gang) : State := s.setGang c.tile c.slot (g.advance (g.group c.slice))

/-- A word of an event: the effect on a gang in a slot, nothing where the slot is empty. -/
def onGang (s : State) (tile slot : Nat) (f : Gang → State) : Out :=
  match s.gang? tile slot with
  | none => .next s
  | some g => .next (f g)

/-! ## The scoreboard (R98, R107, R132) -/

/-- R98: whether a destination that all slices share is past its window for a group: its own slices' windows have ended, and for a
group that took no part in the instruction every one of them. -/
def Pend.past (p : Pend) (js : List Nat) : Bool :=
  let mine := js.filter p.slices.contains
  (if mine.isEmpty then p.slices else mine).all p.over

/-- Whether a destination is awaited beyond its window by the group's slices. -/
def Gang.awaited (g : Gang) (js : List Nat) (isV : Bool) (n : Nat) : Bool :=
  g.pend.any fun p => p.dests.any fun d =>
    match d with
    | .vreg key => isV && key / 32 == n && js.contains (key % 32 / 4) && p.over (key % 32 / 4)
    | .sreg key => !isV && key == n && p.past js
    | .adv => false

/-- R156: whether ADV, the destination of an `isect`, is awaited beyond its window by the group's slices. -/
def Gang.advAwaited (g : Gang) (js : List Nat) : Bool := g.pend.any fun p => p.dests.contains .adv && p.past js

/-- R156: whether an instruction reads or writes ADV. -/
def usesAdv (i : Instr) : Bool :=
  match i with
  | .rdsr _ n => n.toNat == 0x19
  | .isect _ _ _ _ => true
  | _ => false

/-- Whether every register the instruction names can be read and written now. -/
def Gang.operandsReady (g : Gang) (js : List Nat) (i : Instr) : Bool :=
  let r := Instr.regs i
  (r.rv ++ r.wv).all (fun n => !g.awaited js true n) && (r.rs ++ r.ws).all (fun n => !g.awaited js false n) &&
    !(usesAdv i && g.advAwaited js)

/-! ## Repeats (R103-R105) -/

/-- Whether an opcode's D, A and B fields name registers, and the lowest bits and widths of the three fields. -/
def stepFields (op : Nat) (w : Word) : (Bool × Bool × Bool) × (Nat × Nat) × (Nat × Nat) × (Nat × Nat) :=
  let vFmt := ((14, 6), (8, 6), (2, 6))
  let sFmt := ((15, 9), (6, 9), (0, 6))
  if op < 0x20 then ((false, false, false), sFmt)
  else if op ≤ 0x34 ∨ op = 0x36 ∨ op = 0x37 then ((true, true, true), sFmt)
  else if op = 0x35 then ((false, true, true), sFmt)
  else if op = 0x38 then ((true, true, false), sFmt)
  else if op ≤ 0x3D then ((true, false, false), sFmt)
  else if op ≤ 0x3F then ((true, false, false), ((18, 6), (0, 0), (0, 0)))
  else if op = 0x53 then ((true, (field w 20 4).toNat ≠ 5, false), vFmt)
  else if op = 0x56 then ((true, false, true), vFmt)
  else if op = 0x63 ∨ op = 0x64 ∨ op = 0x70 ∨ op = 0x71 ∨ op = 0x72 ∨ op = 0x88 then ((true, true, false), vFmt)
  else if 0x8A ≤ op ∧ op ≤ 0x93 then ((true, true, op = 0x8D), vFmt)
  else if op = 0xB3 ∨ op = 0xB7 then ((true, true, false), vFmt)
  else if 0xB8 ≤ op ∧ op ≤ 0xBA then ((false, true, false), sFmt)
  else if op = 0xBB then ((true, false, false), sFmt)
  else if op = 0xD0 then ((true, true, false), vFmt)
  else if op = 0xD1 then ((true, false, true), vFmt)
  else if op = 0xD2 then ((false, false, false), vFmt)
  else if op = 0xD4 then ((false, false, true), vFmt)
  else if op = 0xD5 ∨ op = 0xD6 then ((false, true, true), vFmt)
  else if 0xE0 ≤ op ∧ op ≤ 0xEC then ((true, true, false), ((2, 6), (8, 9), (0, 0)))
  else if op = 0xED then ((false, true, false), sFmt)
  else if op ≥ 0xEE then ((false, false, false), sFmt)
  else ((true, true, true), vFmt)

/-- A field of a word raised by `n`, none where it does not fit. -/
def stepField (w : Word) (on : Bool) (f : Nat × Nat) (n : Nat) : Option Word :=
  if !on then some w
  else
    let x := w.toNat / 2 ^ f.1 % 2 ^ f.2
    if x + n < 2 ^ f.2 then some (w + BitVec.ofNat 32 (n * 2 ^ f.1)) else none

/-- R103: the body of repetition `k` under a prefix; none where a field does not fit. -/
def stepWord (prefix_ body : Word) (k : Nat) : Option Word :=
  let (_, d, a, b) := stepFields (field body 24 8).toNat body
  let n := k * 2 ^ (field prefix_ 13 2).toNat
  (stepField body (prefix_.getLsbD 17) d n).bind fun w =>
    (stepField w (prefix_.getLsbD 16) a n).bind fun w => stepField w (prefix_.getLsbD 15) b n

/-- The repetition count of a prefix. -/
def repCount (prefix_ : Word) : Nat := (field prefix_ 18 6).toNat + 1

/-- R104: whether one repetition is a legal instruction of the gang. -/
def Gang.repOk (g : Gang) (prefix_ body : Word) (k : Nat) : Bool :=
  match stepWord prefix_ body k with
  | none => false
  | some w =>
    match decode w with
    | .ok i => g.regsOk i
    | .error _ => false

/-- R104: whether a prefix and a body form a legal pair. -/
def Gang.pairOk (g : Gang) (prefix_ body : Word) : Bool :=
  let op := (field body 24 8).toNat
  let ((d, a, b), _) := stepFields op body
  decide (op ≥ 0x20) && !(decide (0xE0 ≤ op ∧ op ≤ 0xEC) && (field body 17 3) != 0) &&
    (d || !prefix_.getLsbD 17) && (a || !prefix_.getLsbD 16) && (b || !prefix_.getLsbD 15) &&
    (List.range (repCount prefix_)).all fun k => g.repOk prefix_ body k

end Sys2Proof.Machine
end

