-- ==== Sys2Proof/Machine/Flags.lean ====
section
/-!
DEFINITION. Flag computations: Z, N, C and V of the scalar operations (R108, Table 6.1), the condition codes (Table 5.4), and
the exception flags of lane operations with their traps (R72, R73).
-/

namespace Sys2Proof.Machine

/-! ## Scalar flags -/

/-- "ZN" of Table 6.1: Z and N of a result, C and V as they were. -/
def znFlags (old : Flags) (r : Word) : Flags := { old with z := r == 0, n := r.msb }

/-- The add class of R108. -/
def addFlags (a b : Word) : Flags :=
  let r := a + b
  { z := r == 0, n := r.msb, c := decide (2 ^ 32 ≤ a.toNat + b.toNat), v := a.msb == b.msb && r.msb != a.msb }

/-- The subtract class of R108. -/
def subFlags (a b : Word) : Flags :=
  let r := a - b
  { z := r == 0, n := r.msb, c := decide (b.toNat ≤ a.toNat), v := a.msb != b.msb && r.msb != a.msb }

/-- Z and N of a result, C and V clear (the high products, quotients and remainders). -/
def znClear (r : Word) : Flags := { z := r == 0, n := r.msb, c := false, v := false }

/-- Flags of the low product: C when the unsigned product needs more than 32 bits, V when the signed one does. -/
def mulFlags (a b : Word) : Flags :=
  let r := a * b
  let p := a.toInt * b.toInt
  { z := r == 0, n := r.msb, c := decide (2 ^ 32 ≤ a.toNat * b.toNat), v := decide (p < -(2 ^ 31) ∨ 2 ^ 31 ≤ p) }

/-- Table 5.4: whether a condition holds. -/
def condHolds (c : Nat) (f : Flags) : Bool :=
  match c with
  | 0 => f.z
  | 1 => !f.z
  | 2 => f.c
  | 3 => !f.c
  | 4 => f.n
  | 5 => !f.n
  | 6 => f.v
  | 7 => !f.v
  | 8 => f.c && !f.z
  | 9 => !f.c || f.z
  | 10 => f.n == f.v
  | 11 => f.n != f.v
  | 12 => !f.z && f.n == f.v
  | 13 => f.z || f.n != f.v
  | _ => true

/-! ## Exception flags of lanes -/

/-- The rounding mode, flushing and saturation of a MODE word. -/
def envOf (m : Word) : Num.Env := ⟨Num.Rm.ofCode (modeRm m), modeFtz m, modeSat m⟩

/-- R73: the flags of a lane whose enables in MODE[28:24] are set. -/
def enabledFlags (m : Word) (fl : Num.Flags) : Num.Flags := fl &&& (m.extractLsb' 24 5).setWidth 6

/-- R72: the flags of the active lanes, ORed. -/
def joinFlags (fls : List (Nat × Num.Flags)) : Num.Flags := fls.foldl (fun a x => a ||| x.2) 0

/-- R35: the trap of lanes that fault, each with its cause and TVAL, in ascending order: the lowest lane's cause and value, and
the lanes that share the cause. -/
def lanesTrap? (xs : List (Nat × Nat × Dword)) : Option TrapInfo :=
  match xs with
  | [] => none
  | (i, cause, val) :: rest =>
    some
      { cause := cause, tval := val, slice := i / 4
        mask := maskOf ((((i, cause, val) :: rest).filter fun x => x.2.1 == cause).map Prod.fst) }

/-- R35, R73: the trap of the lanes that raised an enabled exception, the lowest one's flags in TVAL. -/
def fpTrap? (m : Word) (fls : List (Nat × Num.Flags)) : Option TrapInfo :=
  lanesTrap? ((fls.filter fun x => enabledFlags m x.2 != 0).map fun x => (x.1, 0x0A, x.2.setWidth 64))

/-! ## Lane operations (R24, R25, R33, R131) -/

/-- What a forward reversible instruction pushes: the entry and the instruction's class (R158). -/
structure Push where
  entry : Rem
  cls : Nat
  deriving DecidableEq, Repr

/-- One lane's result: the word it writes, the flags it raises, the entry it pushes. -/
structure LaneRes where
  val : Word
  fl : Num.Flags := 0
  push : Option Push := none
  deriving DecidableEq, Repr

/-- A result without flags, and one with. -/
def LaneRes.word (w : Word) : LaneRes := { val := w }
def LaneRes.fp (w : Word) (fl : Num.Flags) : LaneRes := { val := w, fl := fl }

/-- The tag of an entry whose exact term could not be kept (Table 8.1). -/
def tagLossy : Nat := 0x1F

/-- TVAL of a remainder trap: word, class, tag (R169, R170). -/
def remVal (word : Word) (cls tag : Nat) : Dword := word.setWidth 64 <<< 32 ||| BitVec.ofNat 64 (cls * 256 + tag)

/-- R169: the trap of one lane's result: FP exception before remainder-lossy. -/
def laneFault? (m : Word) (r : LaneRes) : Option (Nat × Dword) :=
  if enabledFlags m r.fl != 0 then some (0x0A, r.fl.setWidth 64)
  else
    match r.push with
    | some p => if p.entry.tag = tagLossy ∧ m.getLsbD 29 then some (0x07, remVal p.entry.word p.cls tagLossy) else none
    | none => none

/-- R35, R73, R169: the trap of the lanes' results. -/
def resTrap? (m : Word) (rs : List (Nat × LaneRes)) : Option TrapInfo :=
  lanesTrap? (rs.filterMap fun r => (laneFault? m r.2).map fun t => (r.1, t.1, t.2))

/-- The second operand of a lane operation: a vector register, or a scalar read once for all lanes (R131). -/
inductive OpB where
  | v (n : Nat)
  | s (n : Nat)
  deriving DecidableEq, Repr

def Gang.opB (g : Gang) (b : OpB) (lane : Nat) : Word :=
  match b with
  | .v n => g.vreg n lane
  | .s n => g.sreg n

/-- R25: one lane position of a linked instruction. The state is the carry (none where cut) and the results so far. -/
def chainStep (g : Gang) (js : List Nat) (op : Nat → Option Word → LaneRes) (st : Option Word × List (Nat × LaneRes)) (i : Nat) :
    Option Word × List (Nat × LaneRes) :=
  if (g.active js).contains i then
    let r := op i st.1
    (some r.val, st.2 ++ [(i, r)])
  else if (js.contains (i / 4) || !(g.slice (i / 4)).live) && !modeLp (g.slice (js.headD 0)).mode then st
  else (none, st.2)

/-- R25: the results of a linked instruction and the value it hands on. -/
def chain (g : Gang) (js : List Nat) (incoming : Option Word) (op : Nat → Option Word → LaneRes) :
    Option Word × List (Nat × LaneRes) :=
  (List.range (4 * g.slices.length)).foldl (chainStep g js op) (incoming, [])

/-- The flags of the lanes' results. -/
def flagsOf (rs : List (Nat × LaneRes)) : List (Nat × Num.Flags) := rs.map fun r => (r.1, r.2.fl)

/-- One lane's result written, its entry pushed. -/
def Gang.writeLane (g : Gang) (d : Nat) (r : Nat × LaneRes) : Gang :=
  let g := g.setV d r.1 r.2.val
  match r.2.push with
  | some p => g.setRem r.1 (p.entry :: g.remOf r.1)
  | none => g

/-- The lanes' results written to a vector register, their flags taken up (R33, R72). -/
def Gang.writeLanes (g : Gang) (d : Nat) (rs : List (Nat × LaneRes)) : Gang :=
  let g := rs.foldl (fun g r => g.writeLane d r) g
  { g with fpst := g.fpst ||| joinFlags (flagsOf rs) }

/-- R33, R73: an FP trap of the lanes, or all their results together. -/
def State.commitLanes (s : State) (c : Cur) (g : Gang) (d : Nat) (rs : List (Nat × LaneRes)) : State :=
  match resTrap? (g.slice c.slice).mode rs with
  | some t => s.trap c t
  | none => s.finish c (g.writeLanes d rs)

/-- R31: whether a gang's hand-on instruction has been released with the chain cut. -/
def Gang.released (g : Gang) : Bool := g.slices.any fun x => x.live && x.cut

/-- R29, R31: what a hand-on instruction takes: cut where it has been released, an entry of the FIFO, cut, or nothing yet. -/
def State.incoming (s : State) (g : Gang) : Option (Option Word) :=
  if g.released then some none
  else
    match g.fifo with
    | e :: _ => some e
    | [] => if (s.predecessor g).isNone then some none else none

/-- R30: whether the successor's FIFO holds its four entries, whichever gang appended them (assumption 56). -/
def State.fifoFull (s : State) (g : Gang) : Bool :=
  match s.successor g with
  | some h => decide (h.fifo.length ≥ 4)
  | none => false

/-- R28: the hand-out of a hand-on instruction: to the successor's FIFO, or to HOUT, the seed of the last lane where cut. -/
def State.handOut (s : State) (c : Cur) (g : Gang) (out : Option Word) (seed : Nat → Word) : State :=
  match s.successor g with
  | some h => s.modGang h.tile h.slot fun h => { h with fifo := h.fifo ++ [out] }
  | none => s.modGang c.tile c.slot fun g => { g with hout := out.getD (seed (4 * g.slices.length - 1)) }

/-- R26-R32: a linked instruction: `l` is the link field, `seed` the replaced operand, `op` the lane's result from the operand
that takes its place, `commit` what is done with the results where no lane traps. -/
def State.linked (s : State) (c : Cur) (g : Gang) (i : Instr) (l : Nat) (seed : Nat → Word) (op : Nat → Word → LaneRes)
    (commit : State → List (Nat × LaneRes) → State × Bool) : State :=
  let js := g.group c.slice
  let run (inc : Option Word) := chain g js inc fun lane x => op lane (x.getD (seed lane))
  if l ≠ 3 then (commit s (run none).2).1
  else if g.parted then s.trap c (g.frontTrap c 0x09 (wordVal i))
  else
    match s.incoming g with
    | none => s.put c (g.waitAt js .handon)
    | some inc =>
      if s.fifoFull g then s.put c (g.waitAt js .issue)
      else
        let r := run inc
        let (t, ok) := commit s r.2
        if ok then
          (t.modGang c.tile c.slot fun h => { h with fifo := if g.released then h.fifo else h.fifo.tail }).handOut c g r.1 seed
        else t

/-- R21-R33: the lanes of a group under the link field `l`: `f` gives a lane's result from the lane, its `va`, its `vb` or `sB`,
and its old `vd`. -/
def State.runLanes (s : State) (c : Cur) (g : Gang) (i : Instr) (d a : Nat) (b : OpB) (l : Nat)
    (f : Nat → Word → Word → Word → LaneRes) : State :=
  let at_ (lane : Nat) (x y : Word) : LaneRes := f lane x y (g.vreg d lane)
  if l = 0 then
    s.commitLanes c g d ((g.active (g.group c.slice)).map fun i => (i, at_ i (g.vreg a i) (g.opB b i)))
  else
    let seed := if l = 1 then g.vreg a else fun i => g.opB b i
    let op (i : Nat) (x : Word) := if l = 1 then at_ i x (g.opB b i) else at_ i (g.vreg a i) x
    s.linked c g i l seed op fun s rs =>
      match resTrap? (g.slice c.slice).mode rs with
      | some t => (s.trap c t, false)
      | none => (s.finish c (g.writeLanes d rs), true)

/-- A lane operation under the link field `l`: `f` gives a lane's result from the gang, MODE, the lane, `a`, `b` and `d`. -/
def laneOp (i : Instr) (d a : Nat) (b : OpB) (l : Nat) (s : State)
    (f : Gang → Word → Nat → Word → Word → Word → LaneRes) (pre : Cur → Gang → Option TrapInfo := noCheck) : Out :=
  onGroupIf i s pre fun c g => s.runLanes c g i d a b l (f g (g.slice c.slice).mode)

/-- A lane operation that writes a predicate; its flags trap or are taken up like any (R137, R144). -/
def predOp (i : Instr) (d a b : Nat) (s : State) (f : Word → Word → Word → Bool × Num.Flags) : Out :=
  onGroup i s fun c g =>
    let m := (g.slice c.slice).mode
    let rs : List (Nat × Bool × Num.Flags) := (g.active (g.group c.slice)).map fun i => (i, f m (g.vreg a i) (g.vreg b i))
    let fls : List (Nat × Num.Flags) := rs.map fun r => (r.1, r.2.2)
    match fpTrap? m fls with
    | some t => s.trap c t
    | none =>
      let h : Gang := rs.foldl (fun g r => g.setP d r.1 r.2.1) g
      s.finish c { h with fpst := h.fpst ||| joinFlags fls }

/-- A long-latency lane operation: the lanes' results are awaited under the lookahead `n` (R98, R99). -/
def longOp (i : Instr) (n d : Nat) (s : State) (f : Gang → Word → Nat → LaneRes) : Out :=
  onGroup i s fun c g =>
    let js := g.group c.slice
    let m := (g.slice c.slice).mode
    let rs : List (Nat × LaneRes) := (g.active js).map fun i => (i, f g m i)
    match fpTrap? m (flagsOf rs) with
    | some t => s.trap c t
    | none =>
      let h : Gang := { g with fpst := g.fpst ||| joinFlags (flagsOf rs) }
      let vals : List (Dest × Word) := rs.map fun r => (.vreg (d * 32 + r.1), r.2.val)
      s.finish c (h.open js n (vals.map Prod.fst) vals false none)

end Sys2Proof.Machine
end

