-- ==== Sys2Proof/Machine/Issue.lean ====
section
/-!
DEFINITION. Fetching and issue: the word at a group's PC (R390), what keeps a group from issuing (R98-R101, R115, R183), and what a
step does around `exec`: windows closed before, windows counted after (R98, R100), the tick of GTC.
-/

namespace Sys2Proof.Machine

/-! ## Fetch -/

/-- What a fetch finds: the word, a fault's cause, or that a translation or line is missing. -/
inductive Fetched where
  | word (w : Word)
  | fault (cause : Nat)
  | missing
  deriving DecidableEq, Repr

/-- The word a line holds at an offset. -/
def wordIn (bs : List Byte) (off : Nat) : Word := BitVec.ofNat 32 (natOfBytes ((bs.drop off).take 4))

/-- R390: the word at an address, for the slice's group. -/
def State.fetch (s : State) (tile : Nat) (g : Gang) (j : Nat) (a : Dword) : Fetched :=
  match s.place tile (g.walked.filter fun w => w.slice == j) g.ctx a needX with
  | .zero => .word 0
  | .fault c => .fault c
  | .miss _ _ => .missing
  | .at_ loc _ =>
    match cacheHit (s.cluster (clusterOf tile)).icache (lineOf loc) s.gtc with
    | some c => .word (wordIn c.bytes (loc % 64))
    | none => .missing

/-- What a group would execute next: an instruction, with the REPC of the repetition where it stands inside a repeat, or a
fetch still to be made, of an address. -/
inductive Coming where
  | instr (i : Instr) (repc : Option Nat)
  | fetch (a : Dword)
  deriving DecidableEq, Repr

/-- The instruction of a word; a word that is none stands as the illegal instruction (R96). -/
def instrOf (w : Word) : Instr :=
  match decode w with
  | .ok i => i
  | .error _ => .illegalInstruction w

/-- The instruction at a group's PC; inside a repeat the repetition that is due (R103, R105). Prefix and body are fetched again
before each repetition; where the prefix cannot be fetched, is none that fits the body, or has a count below REPC, the body executes
once (assumption 58). -/
def State.coming (s : State) (g : Gang) (j : Nat) : Coming :=
  let x := g.slice j
  match s.fetch g.tile g j x.pc with
  | .missing => .fetch x.pc
  | .fault _ => .fetch x.pc
  | .word w =>
    if !x.inRep then .instr (instrOf w) none
    else
      match s.fetch g.tile g j (prevPc x.pc) with
      | .missing => .fetch (prevPc x.pc)
      | .fault _ => .instr (instrOf w) (some 1)
      | .word pre =>
        match decode pre with
        | .ok (.rep _ _ _) =>
          if g.pairOk pre w && decide (x.repc ≤ repCount pre) then
            match stepWord pre w (repCount pre - x.repc) with
            | some w => .instr (instrOf w) (some x.repc)
            | none => .instr (instrOf w) (some 1)
          else .instr (instrOf w) (some 1)
        | _ => .instr (instrOf w) (some 1)

/-! ## Readiness -/

/-- Whether the tile issues at all: its context runs, no switch of gear or clock is under way, it is awake (R8, R115, R251,
R341). -/
def State.tileIssues (s : State) (tile : Nat) : Bool :=
  let t := s.tile tile
  t.switching.isNone && (t.dorm == .active || t.dorm == .sealing) && (s.cluster (clusterOf tile)).relock.isNone

/-- Whether a walk still owes a group an answer. -/
def State.walking (s : State) (tile slot j : Nat) : Bool :=
  s.walks.any fun w => w.waiters.contains ⟨tile, slot, j⟩

/-- R183: a load that acquires has not returned, so no later access of the gang issues. -/
def Gang.acquiring (g : Gang) : Bool := g.pend.any fun p => !p.returned && (p.load.map fun l => l.acquire).getD false

/-- Opcodes of memory accesses and engine commands. -/
def isAccess (i : Instr) : Bool :=
  let op := (field (encode i) 24 8).toNat
  decide (0xC0 ≤ op ∧ op ≤ 0xEC)

/-- R100: whether an instruction closes the windows of the slices that are about to issue it. -/
def closesWindows (i : Instr) : Bool := Instr.closes i || Instr.handOn i

/-- R100: the results whose windows the instruction closes are there. `exit` waits for no engine command (R113). -/
def Gang.canClose (g : Gang) (js : List Nat) (i : Instr) : Bool :=
  g.pend.all fun p => p.returned || js.all (fun j => p.over j && !p.shut.contains j) ||
    (p.engine && match i with | .exit => true | _ => false)

/-- R338: in a context that records, results of the gang that are still to be logged; its exit waits for them (assumption 50). -/
def State.unlogged (s : State) (g : Gang) (i : Instr) : Bool :=
  (s.ctx g.ctx).loglim != 0 && (match i with | .exit => true | _ => false) &&
    g.pend.any fun p => !p.returned && !p.engine && !p.dests.isEmpty

/-- The class of a command (Table 10.1): 0 COPY, 1 GATH, 2 MTX, 3 COLL. -/
def CmdOp.cls : CmdOp → Nat
  | .gath => 1
  | .wld _ => 2
  | .mma => 2
  | .mloop => 2
  | .mrec => 2
  | .accrd => 2
  | .accwr => 2
  | .accz => 2
  | .coll _ => 3
  | _ => 0

/-- The engine command of an instruction: its kind, the words of its parameter block, pennant, first parameter register and status
register (Table 10.1). -/
def command? (i : Instr) : Option (CmdOp × Nat × BitVec 3 × BitVec 9 × BitVec 6) :=
  match i with
  | .cpy4 _ pn p d => some (.cpy 4, 6, pn, p, d)
  | .cpy8 _ pn p d => some (.cpy 8, 6, pn, p, d)
  | .cpy16 _ pn p d => some (.cpy 16, 6, pn, p, d)
  | .bcpy _ pn p d => some (.bcpy, 9, pn, p, d)
  | .wcpy _ pn p d => some (.wcpy, 9, pn, p, d)
  | .mcast _ pn p d => some (.mcast, 5, pn, p, d)
  | .gath _ pn p d => some (.gath, 8, pn, p, d)
  | .czero _ pn p d => some (.czero, 4, pn, p, d)
  | .wldS _ pn p d => some (.wld true, 6, pn, p, d)
  | .wldG _ pn p d => some (.wld false, 6, pn, p, d)
  | .mma _ pn p d => some (.mma, 1, pn, p, d)
  | .mloop _ pn p d => some (.mloop, 14, pn, p, d)
  | .mrec _ pn p d => some (.mrec, 10, pn, p, d)
  | .accrd _ pn p d => some (.accrd, 4, pn, p, d)
  | .accwr _ pn p d => some (.accwr, 4, pn, p, d)
  | .accz _ pn p d => some (.accz, 1, pn, p, d)
  | .collAr _ pn p d => some (.coll 0, 9, pn, p, d)
  | .collRs _ pn p d => some (.coll 1, 9, pn, p, d)
  | .collAg _ pn p d => some (.coll 2, 9, pn, p, d)
  | _ => none

/-- R101: whether a live slice of a gang has an open window. -/
def Gang.windowsOpen (g : Gang) : Bool := g.pend.any fun p => p.slices.any fun j => (g.slice j).live && !p.over j

/-- R101: whether a slice of an issue group has an open window. -/
def Gang.groupOpen (g : Gang) (j : Nat) : Bool := (g.group j).any fun k => g.pend.any fun p => !p.over k

/-- R56, R101: whether a gang waits for room in its engine queues: every group with an open window stands at a command whose class is at
its limit. -/
def State.atLimit (s : State) (g : Gang) : Bool :=
  (g.leaders.filter g.groupOpen).all fun j => match s.coming g j with
    | .instr i _ => (command? i).any fun x => decide (255 ≤ (g.queues.getD x.1.cls []).length)
    | .fetch _ => false

/-- R101, R251: whether a gang's groups may issue: its context runs, or is being stopped while the gang has an open window and is not
held by R56. -/
def State.runs (s : State) (g : Gang) : Bool :=
  (s.ctx g.ctx).st == .running || ((s.ctx g.ctx).st == .stopping && g.windowsOpen && !s.atLimit g)

/-- R251: whether a stop of a context still waits for windows, before it stops the engines. -/
def State.windowsLeft (s : State) (n : Nat) : Bool :=
  s.gangs.any fun e => e.2.ctx == n && !e.2.ended && e.2.windowsOpen && !s.atLimit e.2

/-- Whether a group waits at its instruction, and not in one of the waits that an event ends. -/
def Wait.atIssue (w : Wait) : Bool :=
  match w with
  | .run => true
  | .issue => true
  | .room _ => true
  | .own _ => true
  | .lines _ => true
  | .window _ => true
  | .home _ _ => true
  | .walk => true
  | .fetch => true
  | _ => false

/-- R390: whether a group's own line, or its translation, is still to be fetched. -/
def State.fetches (s : State) (g : Gang) (j : Nat) : Bool :=
  s.tileIssues g.tile && s.runs g && !s.walking g.tile g.slot j && (g.slice j).wait.atIssue &&
    match s.coming g j with
    | .fetch _ => true
    | .instr _ _ => false

/-- R104: whether a group at a repeat prefix waits for the body's word. -/
def State.fetchesBody (s : State) (g : Gang) (j : Nat) : Bool :=
  s.tileIssues g.tile && s.runs g && !s.walking g.tile g.slot j && (g.slice j).wait == .fetch && (g.slice j).phase == 1

/-! ## Around exec -/

/-- The turn the schedule gives; past its end, one tick, and the choices in rotation with GTC. -/
def State.turn (s : State) : Turn := s.agenda.headD { ticks := 1, pick := s.gtc, input := none }

/-- R105: REPC before a body: the repetition's, 1 where the body executes once, or left alone outside a repeat. -/
def Slice.beforeBody (repc : Option Nat) (x : Slice) : Slice :=
  match repc with
  | none => if x.inRep then { x with inRep := false, repc := 0 } else x
  | some n => if x.inRep || decide (1 < n) then { x with inRep := true, repc := n } else x

/-- R307, R390: the line and the translation that a fetch at an address uses are the most recently used ones. -/
def State.touchFetch (s : State) (g : Gang) (j : Nat) (a : Dword) : State :=
  match s.place g.tile (g.walked.filter fun w => w.slice == j) g.ctx a needX with
  | .at_ loc _ =>
    (s.touchAt g.tile g.ctx a needX).modCluster (clusterOf g.tile) fun k =>
      { k with icache := cacheTouch k.icache (lineOf loc) }
  | _ => s

/-- What is done before a group issues: it executes, its windows close where R100 says so, and REPC is what R105 leaves. -/
def State.before (s : State) (c : Cur) (i : Instr) (repc : Option Nat) : State :=
  match s.gang? c.tile c.slot with
  | none => s
  | some g =>
    let x := g.slice c.slice
    let s := (if x.inRep then s.touchFetch g c.slice (prevPc x.pc) else s).touchFetch g c.slice x.pc
    let js := g.group c.slice
    let g := g.modSlices js fun x => { Slice.beforeBody repc x with ready := none, issued := s.gtc }
    let g := if closesWindows i then (g.closeWindows js).settle else g
    { s.setGang c.tile c.slot g with cur := some c }

/-- What is done after it: if the group issued, the windows of its slices count one instruction, except the one it opened, and
results whose windows have ended are written (R98). -/
def State.after (s : State) (c : Cur) (old : Gang) (i : Instr) : State :=
  let js := old.group c.slice
  match s.gang? c.tile c.slot with
  | none => { s with cur := none }
  | some g =>
    let own := if g.pend.any (fun p => p.id == old.nextId) then old.nextId else g.nextId + 1
    let counts := moved (old.slice c.slice) (g.slice c.slice) && !g.sup == !old.sup &&
      (match i with | .rep _ _ _ => false | _ => true)
    let g := if counts then (g.countWindows js own).settle else g
    { s.setGang c.tile c.slot g with cur := none }

/-- GTC moves on. -/
def State.tick (s : State) (n : Nat) : State := { s with gtc := s.gtc + n }

/-- The turn taken off the schedule. -/
def State.popTurn (s : State) : State := { s with agenda := s.agenda.tail }

end Sys2Proof.Machine
end

