-- ==== Sys2Proof/Machine/Log.lean ====
section
/-!
DEFINITION. The replay log (spec/19_determinism.md R336-R339): entries staged on a tile, the room an instruction reserves, and the
log-full trap.
-/

namespace Sys2Proof.Machine

/-- Whether a context records a log (R336). -/
def State.recording (s : State) (ctx : Nat) : Bool := (s.ctx ctx).loglim != 0

/-- Table 19.3: an entry. -/
def logEntry (kind gtc source payload : Nat) : LogEntry :=
  BitVec.ofNat 128 (payload % 2 ^ 56 * 2 ^ 72 + source % 2 ^ 16 * 2 ^ 56 + kind % 2 ^ 8 * 2 ^ 48 + gtc % 2 ^ 48)

/-- Source of a tile event and of a gang event (Table 19.3). -/
def tileSource (tile : Nat) : Nat := 2 ^ 15 + tile * 32
def gangSource (g : Gang) : Nat := g.tile * 32 + g.slot

/-- R337: an entry staged on a tile, after a 0x0C entry where the epoch has changed. -/
def State.stage (s : State) (tile ctx kind source payload : Nat) : State :=
  if !s.recording ctx then s
  else
    let hi := s.gtc / 2 ^ 48
    s.modTile tile fun t =>
      let known := t.epoch.getD ((s.ctx ctx).logStart / 2 ^ 48)
      let t := if known = hi then t else
        { t with stage := t.stage ++ [logEntry 0x0C s.gtc (tileSource tile) hi], epoch := some hi }
      { t with stage := t.stage ++ [logEntry kind s.gtc source payload] }

def State.stageGang (s : State) (g : Gang) (kind payload : Nat) : State := s.stage g.tile g.ctx kind (gangSource g) payload

def State.stageTile (s : State) (tile ctx kind payload : Nat) : State := s.stage tile ctx kind (tileSource tile) payload

/-- Slices of a group as the park entries give them (Table 19.4, kinds 0x03 and 0x04). -/
def sliceMask (js : List Nat) : Nat := (js.map fun j => 2 ^ j).sum

/-- R339: entries for which a gang's unfinished instructions hold room: two for each lane of an acquire load that has not
returned, one for the wake of each parked group, two for a `barr.sync` that is to park. -/
def Gang.reserved (g : Gang) : Nat :=
  (g.pend.map fun p => if p.returned then 0 else match p.load with | some l => 2 * l.addrs.length | none => 0).sum +
    (g.leaders.map fun j => match (g.slice j).wait with
      | .wata => 1
      | .park => 1
      | .barrier _ => 1
      | .arrive _ => if (g.slice j).phase = 2 then 2 else 0
      | _ => 0).sum

/-- R339: entries for which instructions in flight on a tile hold room, its `.ret` atomics among them. -/
def State.reserved (s : State) (tile : Nat) : Nat :=
  ((s.gangsOf tile).map Gang.reserved).sum +
    ((s.tile tile).sq.filter fun e => match e.req with | .atomic _ _ _ _ (some _) _ => true | _ => false).length

/-- R339: whether an instruction of a recording context finds room for `n` entries; 16 of the 128 are for tile events. -/
def State.logRoom (s : State) (tile ctx n : Nat) : Bool :=
  !s.recording ctx || decide ((s.tile tile).stage.length + s.reserved tile + n ≤ 112)

/-- R339: whether the tile finds room for a tile event and the epoch entry it may need. -/
def State.tileRoom (s : State) (tile ctx : Nat) : Bool :=
  !s.recording ctx || decide ((s.tile tile).stage.length + s.reserved tile + 2 ≤ 128)

/-- R339: log-full at the executing group. -/
def State.logFull (s : State) (c : Cur) (g : Gang) : State :=
  let x := s.ctx g.ctx
  let put : Dword := (BitVec.ofNat 64 (x.logBase + x.logPut)) &&& 0xFFFFFFFFFFFFF
  s.trap c (g.frontTrap c 0x0B (if (s.tile g.tile).logFault then put ||| 0x8000000000000000 else put))

end Sys2Proof.Machine
end

