-- ==== Sys2Proof/Machine/Access.lean ====
section
/-!
DEFINITION. Memory accesses of gangs (spec/09_isa_memory.md R177-R185): lane addresses and their checks, the sources of a
load's bytes, stores into the tile's store queue, the scratchpad and the windows.
-/

namespace Sys2Proof.Machine

/-! ## Addresses and checks (R177) -/

/-- A lane's address; lane 32 stands for a scalar access. -/
structure LaneAddr where
  lane : Nat
  addr : Dword
  deriving DecidableEq, Repr

/-- R177: the addresses of the active lanes: base pair and sign-extended offset. -/
def Gang.laneAddrs (g : Gang) (js : List Nat) (a b : Nat) : List LaneAddr :=
  (g.active js).map fun i => ⟨i, g.sreg64 b + (g.vreg a i).signExtend 64⟩

/-- R177: the address of a scalar access. -/
def Gang.scalarAddr (g : Gang) (a b : Nat) : List LaneAddr := [⟨32, g.sreg64 b + (g.sreg a).signExtend 64⟩]

/-- R177: alignment to the width (no rule where the width is 1), range, translation and permission; R319: the host's link. While that is
lost, a host address gives 0x0F before what its instruction makes of it: a `wata` there (R190), or an atomic of too narrow a scope
(R186), would else give 0x05 (assumption 69). -/
def State.placeOf (s : State) (g : Gang) (j width need : Nat) (a : Dword) : Place :=
  if a.toNat % width ≠ 0 then .fault 0x03
  else if 2 ^ 52 ≤ a.toNat then .fault 0x05
  else
    match s.place g.tile (g.walked.filter fun w => w.slice == j) g.ctx a need with
    | .at_ loc sc => if isHost loc && s.hostLost then .fault 0x0F else .at_ loc sc
    | p => p

/-- R177: alignment and range of a scratchpad address. The place is the byte's offset in the tile. -/
def Gang.scratchPlace (g : Gang) (width : Nat) (a : Dword) : Place :=
  if a.toNat % width ≠ 0 then .fault 0x03
  else if g.scratch < a.toNat + width then .fault 0x05
  else .at_ (g.scratchBase + a.toNat) false

/-- Lanes that fault, with their causes. -/
def faultsOf (xs : List (LaneAddr × Place)) : List (LaneAddr × Nat) :=
  xs.filterMap fun x => match x.2 with
    | .fault c => some (x.1, c)
    | _ => none

/-- R35, R177: the trap of the lanes that fault. -/
def Gang.laneTrap (g : Gang) (c : Cur) (need : Nat) (xs : List (LaneAddr × Place)) : Option TrapInfo :=
  match faultsOf xs with
  | [] => none
  | (l, cause) :: rest =>
    let lanes := (((l, cause) :: rest).filter fun x => x.2 == cause).map fun x => x.1.lane
    some
      { cause := cause, tval := l.addr
        mask := if l.lane = 32 then g.activeMask (g.group c.slice) else maskOf lanes
        slice := if l.lane = 32 then c.slice else l.lane / 4
        need := if cause = 4 ∨ cause = 5 then need else 0 }

/-- R177, R308: an access whose lanes stand at `xs`: it waits for the walks it lacks, traps, or goes on. -/
def State.access (s : State) (c : Cur) (g : Gang) (need : Nat) (xs : List (LaneAddr × Place))
    (k : State → List (LaneAddr × Place) → State) : State :=
  let misses := xs.filterMap fun x => match x.2 with
    | .miss va clear => some (va, clear)
    | _ => none
  if !misses.isEmpty then
    (misses.foldl (fun s m => s.askWalk g.ctx m.1 m.2 need c) s).put c (g.waitAt (g.group c.slice) .walk)
  else
    match g.laneTrap c need xs with
    | some t => s.trap c t
    | none => k (xs.foldl (fun s x => s.touchAt g.tile g.ctx x.1.addr need) s) xs

/-- R177, R182: the same for the scratchpad, which needs no translation. -/
def State.accessLocal (s : State) (c : Cur) (g : Gang) (need : Nat) (xs : List (LaneAddr × Place))
    (k : List (LaneAddr × Place) → State) : State :=
  match g.laneTrap c need xs with
  | some t => s.trap c t
  | none => k xs

/-- Addresses placed for a global access of a group. -/
def State.placed (s : State) (c : Cur) (g : Gang) (width need : Nat) (xs : List LaneAddr) : List (LaneAddr × Place) :=
  xs.map fun x => (x, s.placeOf g c.slice width need x.addr)

/-! ## Loads (R179) -/

/-- What the store queue holds of a byte: nothing; a store's byte, the youngest; or an atomic younger than any store, whose
result only home knows (assumption 17). -/
def Tile.sqByte (t : Tile) (loc : Nat) : Option (Option Byte) :=
  t.sq.foldl (fun r e =>
    if e.line ≠ lineOf loc then r
    else
      match e.req with
      | .store bytes _ => ((Sparse.find? bytes (loc % 64)).map some).orElse fun _ => r
      | .atomic _ _ _ _ _ _ => some none
      | .wake => r) none

/-- R179, R305: the byte of the store queue, else of a live L1 copy where the page allows one; none where home must answer. -/
def State.sourceByte (s : State) (tile : Nat) (cached : Bool) (loc : Nat) : Option Byte :=
  match (s.tile tile).sqByte loc with
  | some b => b
  | none =>
    if cached then (cacheHit (s.tile tile).l1 (lineOf loc) s.gtc).map fun c => c.bytes.getD (loc % 64) 0 else none

/-- How a load takes its bytes (Table 5.5). -/
inductive LoadKind where
  | plain | nt | acquire
  deriving DecidableEq, Repr

/-- Whether L1 may hold the line of a place (R232, R305). -/
def cacheable (loc : Nat) (sc : Bool) : Bool := !isHost loc && !sc

/-- The registers a lane of a load writes: `width / 4` of them from `reg`, at least one. -/
def loadDests (reg width : Nat) (lanes : List LaneAt) : List Dest :=
  lanes.flatMap fun l => (List.range (max 1 (width / 4))).map fun r =>
    if l.lane = 32 then .sreg (reg + r) else .vreg ((reg + r) * 32 + l.lane)

/-- Every byte of the lanes of a load, with whether it may come from L1. -/
def laneBytes (width : Nat) (xs : List (LaneAddr × Place)) : List (Nat × Bool) :=
  xs.flatMap fun x => match x.2 with
    | .at_ loc sc => (List.range width).map fun k => (loc + k, cacheable loc sc)
    | _ => []

/-- Values without repeats, in order of first appearance. -/
def distinct (xs : List Nat) : List Nat := xs.foldl (fun r x => if r.contains x then r else r ++ [x]) []

/-- F1 of R241: whether an earlier load of the gang is still to read a line at home. -/
def Gang.unread (g : Gang) (line : Nat) : Bool := g.pend.any fun p => !p.dests.isEmpty && p.load.any fun l => l.need.contains line

/-- R183, R239, R241: the entries of a tile's queue, whichever gang's, that hold bytes an acquire load of the tile reads. -/
def State.ownEntries (s : State) (g : Gang) (bytes : List (Nat × Bool)) : List Nat :=
  ((s.tile g.tile).sq.filter fun e => bytes.any fun b => lineOf b.1 == e.line &&
    (match e.req with | .store m _ => (Sparse.find? m (b.1 % 64)).isSome | .atomic _ _ _ _ _ _ => true | .wake => false)).map
      SqEntry.seq

/-- R179, R183: a load of lanes whose places are known. -/
def State.startLoad (s : State) (c : Cur) (g : Gang) (n reg width : Nat) (signed : Bool) (kind : LoadKind)
    (xs : List (LaneAddr × Place)) (phys : Bool := false) : State :=
  let js := g.group c.slice
  let t := s.tile g.tile
  let bytes := laneBytes width xs
  let got : Sparse Byte := if kind = .acquire then [] else
    bytes.foldl (fun m b => match s.sourceByte g.tile b.2 b.1 with
      | some v => Sparse.put m b.1 v
      | none => m) []
  let need := distinct ((bytes.filter fun b => (Sparse.find? got b.1).isNone).map fun b => lineOf b.1)
  let keep := if kind = .plain then need.filter fun l => bytes.any fun b => b.2 && lineOf b.1 == l else []
  let lanes := xs.map fun x => (⟨x.1.lane, match x.2 with | .at_ loc _ => some loc | _ => none, x.1.addr⟩ : LaneAt)
  let part : LoadPart :=
    { reg := reg, lanes := lanes, width := width, signed := signed, got := got, need := need, keep := keep
      acquire := kind == .acquire, time := s.gtc, since := t.nextSeq, mapped := xs.any fun x => s.isMapped phys x.1.addr
      addrs := if kind == .acquire && s.recording g.ctx then xs.map fun x => (x.1.lane, x.1.addr.toNat) else [] }
  let s := s.modTile g.tile fun t => { t with l1 := (distinct (bytes.map fun b => lineOf b.1)).foldl cacheTouch t.l1 }
  s.finish c (g.open js n (loadDests reg width lanes) [] false (some part))

/-- R179, R183: a load whose places are known, at issue. One waits while an earlier load of its gang is still to read a line of its
own (F1), and one that acquires for its tile's stores to its bytes. -/
def State.issueLoad (s : State) (c : Cur) (g : Gang) (n reg width : Nat) (signed : Bool) (kind : LoadKind)
    (xs : List (LaneAddr × Place)) (phys : Bool := false) : State :=
  let bytes := laneBytes width xs
  let own := if kind = .acquire then s.ownEntries g bytes else []
  let unread := (distinct (bytes.map fun b => lineOf b.1)).filter g.unread
  if !unread.isEmpty then s.put c (g.waitAt (g.group c.slice) (.lines unread))
  else if !own.isEmpty then s.put c (g.waitAt (g.group c.slice) (.own own))
  else if kind = .acquire && !s.logRoom g.tile g.ctx (2 * xs.length) then s.logFull c g
  else s.startLoad c g n reg width signed kind xs phys

/-- R179, R183: a load from global memory or a domain address. -/
def State.load (s : State) (c : Cur) (g : Gang) (n reg width : Nat) (signed : Bool) (kind : LoadKind) (xs : List LaneAddr) : State :=
  s.access c g needR (s.placed c g width needR xs) fun s xs => s.issueLoad c g n reg width signed kind xs

/-- Bytes known at issue, returned as a load's result. -/
def State.loadKnown (s : State) (c : Cur) (g : Gang) (n reg width : Nat) (signed : Bool) (xs : List (LaneAddr × Nat))
    (byte : Nat → Byte) : State :=
  let lanes := xs.map fun x => (⟨x.1.lane, some x.2, x.1.addr⟩ : LaneAt)
  let got : Sparse Byte := xs.foldl (fun m x =>
    (List.range width).foldl (fun m k => Sparse.put m (x.2 + k) (byte (x.2 + k))) m) []
  s.finish c (g.open (g.group c.slice) n (loadDests reg width lanes) [] false
    (some { reg := reg, lanes := lanes, width := width, signed := signed, got := got }))

/-- R182: a load from the grove's scratchpad. -/
def State.loadScratch (s : State) (c : Cur) (g : Gang) (n reg width : Nat) (signed : Bool) (xs : List LaneAddr) : State :=
  s.accessLocal c g needR (xs.map fun x => (x, g.scratchPlace width x.addr)) fun xs =>
    let t := s.tile g.tile
    s.loadKnown c g n reg width signed
      (xs.filterMap fun x => match x.2 with | .at_ loc _ => some (x.1, loc) | _ => none) t.scratchByte

/-! ## Stores (R181) -/

/-- Store lines a tile's queue holds (R181). -/
def sqLines : Nat := 64

/-- Store lines in the queue now: one for each line of each store (assumption 61). -/
def Tile.sqUsed (t : Tile) : Nat := t.sq.countP fun e => match e.req with | .store _ _ => true | _ => false

/-- Whether the queue has room for so many lines; more than it can hold at all, as a refill or `rsdrop` may store, go through it one after
another once it is empty (assumption 61). -/
def Tile.sqFits (t : Tile) (n : Nat) : Bool := decide (t.sqUsed + min n sqLines ≤ sqLines)

/-- What one lane stores: place, virtual address and bytes. -/
structure LaneStore where
  loc : Nat
  addr : Dword
  bytes : List Byte
  deriving DecidableEq, Repr

/-- A request of a gang put at the end of its tile's queue. -/
def State.enqueue (s : State) (g : Gang) (line : Nat) (addr : Dword) (req : Req) (mapped nt : Bool := false) : State :=
  let seq := (s.tile g.tile).nextSeq
  let e : SqEntry :=
    { seq := seq, slot := g.slot, gen := g.gen, launch := g.launch, line := line, req := req, ctx := g.ctx, addr := addr
      mapped := mapped, nt := nt }
  let s := s.modTile g.tile fun t => { t with nextSeq := t.nextSeq + 1, sq := t.sq ++ [e] }
  match req with
  | .store _ _ =>
    if isHost (line * 64) then
      let h : HostStore :=
        { tile := g.tile, slot := g.slot, gen := g.gen, launch := g.launch, seq := seq, line := line, addr := addr }
      { s with hostStores := s.hostStores ++ [h] }
    else s
  | _ => s

/-- A line of a store: its number, the address of its lowest lane there, its bytes. -/
structure StoreLine where
  line : Nat
  addr : Dword
  bytes : Sparse Byte
  deriving DecidableEq, Repr

/-- R181: the bytes of the lanes put together line by line, a higher lane's byte over a lower's. -/
def mergeStores (xs : List LaneStore) : List StoreLine :=
  (distinct (xs.map fun x => lineOf x.loc)).map fun line =>
    let mine := xs.filter fun x => lineOf x.loc == line
    { line := line, addr := (mine.map LaneStore.addr).headD 0
      bytes := mine.foldl (fun m x => (x.bytes.mapIdx fun k b => (x.loc % 64 + k, b)).foldl (fun m b => Sparse.put m b.1 b.2) m) [] }

/-- How a store goes to memory: as zero lines (R193), `.nt` (R181), by a physical address (R185). -/
structure StoreKind where
  zero : Bool := false
  nt : Bool := false
  phys : Bool := false
  deriving DecidableEq, Repr

/-- R181: stores of a gang entering the store queue; none where it lacks room. A store to a domain address is noted (R275). -/
def State.storeLines (s : State) (g : Gang) (kind : StoreKind) (xs : List LaneStore) : Option State :=
  let lines := mergeStores xs
  if !(s.tile g.tile).sqFits lines.length then none
  else
    let s := lines.foldl (fun s l =>
      s.enqueue g l.line l.addr (.store l.bytes kind.zero) (s.isMapped kind.phys l.addr) kind.nt) s
    some (if !kind.phys && lines.any fun l => decide (2 ^ 51 ≤ l.addr.toNat) then
        s.modGang g.tile g.slot fun g => { g with domStored := true } else s)

/-- The bytes of registers, word by word from the lowest (R178). -/
def wordBytes (width : Nat) (ws : List Word) : List Byte :=
  (ws.flatMap fun w => [w.extractLsb' 0 8, w.extractLsb' 8 8, w.extractLsb' 16 8, w.extractLsb' 24 8]).take width

/-- R178: what a lane stores, from `width / 4` registers of `reg`, at least one. -/
def Gang.storeData (g : Gang) (reg width : Nat) (lane : Nat) : List Byte :=
  wordBytes width ((List.range (max 1 (width / 4))).map fun r =>
    if lane = 32 then g.sreg (reg + r) else g.vreg (reg + r) lane)

/-- The lane stores of an access whose places are known. -/
def Gang.laneStores (g : Gang) (reg width : Nat) (xs : List (LaneAddr × Place)) : List LaneStore :=
  xs.filterMap fun x => match x.2 with
    | .at_ loc _ => some ⟨loc, x.1.addr, g.storeData reg width x.1.lane⟩
    | _ => none

/-- R181: stores that have passed their checks: into the queue, or waiting at issue for the lines of it that they take. -/
def State.issueStores (s : State) (c : Cur) (g : Gang) (kind : StoreKind) (xs : List LaneStore) : State :=
  match s.storeLines g kind xs with
  | none => s.put c (g.waitAt (g.group c.slice) (.room (mergeStores xs).length))
  | some t =>
    match t.gang? c.tile c.slot with
    | none => t
    | some g => t.finish c g

/-- R181: a store of registers whose places are known. -/
def State.startStore (s : State) (c : Cur) (g : Gang) (reg width : Nat) (xs : List (LaneAddr × Place)) (kind : StoreKind := {}) :
    State := s.issueStores c g kind (g.laneStores reg width xs)

/-- R181: a store to global memory or a domain address. -/
def State.store (s : State) (c : Cur) (g : Gang) (reg width : Nat) (xs : List LaneAddr) (nt : Bool := false) : State :=
  s.access c g needW (s.placed c g width needW xs) fun s xs => s.startStore c g reg width xs { nt := nt }

/-- A group's wait in a fence, with what is earlier than it (R188): the requests of its tile and the results of its gang so far. -/
def State.waitFence (s : State) (c : Cur) (g : Gang) (scope : Nat) (acquire : Bool) : State :=
  let mark := ((s.tile g.tile).nextSeq, g.nextId)
  s.put c (g.modSlices (g.group c.slice) fun x => { x with wait := .fence scope acquire, mark := mark })

/-- R184: the scope of the fence of a release store: 2 device, 3 domain, 4 system, the widest of its lanes; device scope where no lane
is active (assumption 62). -/
def releaseScope (xs : List (LaneAddr × Place)) : Nat :=
  xs.foldl (fun m x => max m (match x.2 with
    | .at_ loc _ => if isHost loc then 4 else if 2 ^ 51 ≤ x.1.addr.toNat then 3 else 2
    | _ => 2)) 2

/-- R184: a release store: its fence's wait, then the store. -/
def State.storeRelease (s : State) (c : Cur) (g : Gang) (reg : Nat) (xs : List LaneAddr) : State :=
  s.access c g needW (s.placed c g 4 needW xs) fun s xs =>
    if (g.slice c.slice).phase = 0 then s.waitFence c g (releaseScope xs) false
    else s.startStore c g reg 4 xs

/-- The lane row a gang feeds (R278). -/
def Gang.row (g : Gang) : Nat := g.pos.getD 0 / 4

/-- R182, R244: one byte of a gang's store into the scratchpad: of two rows' stores that commit together, in one tick, row 1's
remains (assumption 65). -/
def Tile.storeByte (row now : Nat) (t : Tile) (b : Nat × Byte) : Tile :=
  if row = 0 then if t.rowOne.1 = now ∧ t.rowOne.2.contains b.1 then t else t.setScratch b.1 b.2
  else { t.setScratch b.1 b.2 with rowOne := (now, b.1 :: (if t.rowOne.1 = now then t.rowOne.2 else [])) }

/-- R182: a store to the grove's scratchpad. -/
def State.storeScratch (s : State) (c : Cur) (g : Gang) (reg width : Nat) (xs : List LaneAddr) : State :=
  s.accessLocal c g needW (xs.map fun x => (x, g.scratchPlace width x.addr)) fun xs =>
    let s := s.modTile g.tile fun t => (g.laneStores reg width xs).foldl (fun t x =>
      (x.bytes.mapIdx fun k b => (x.loc + k, b)).foldl (Tile.storeByte g.row s.gtc) t) t
    s.finish c g

/-! ## Physical word access in handlers (R12, R185) -/

/-- Where a physical address with its generation leads: memory, a tile window, an accumulator word, or a trap's cause. -/
inductive PhysPlace where
  | mem (loc : Nat)
  | window
  | acc (phys : Nat)
  | fault (cause : Nat)
  deriving DecidableEq, Repr

/-- R12, R319: the region of a word access. -/
def State.physPlace (s : State) (a : Dword) : PhysPlace :=
  let p := (a.extractLsb' 0 48).toNat
  if p % 4 ≠ 0 then .fault 0x03
  else if isHbm p then if a.extractLsb' 48 16 = 0 then .mem p else .fault 0x05
  else if isHost p then if s.hostLost then .fault 0x0F else .mem p
  else if isTileWindow p then if windowPart (p % 0x100000) = .reserved then .fault 0x05 else .window
  else if isAccWindow p then .acc p
  else .fault 0x05

/-- R185: `sld.w.phys` in a handler. -/
def State.loadPhys (s : State) (c : Cur) (g : Gang) (n reg : Nat) (x : LaneAddr) : State :=
  match s.physPlace x.addr with
  | .fault cause => s.access c g needR [(x, .fault cause)] fun s _ => s
  | .mem loc => s.issueLoad c g n reg 4 false .plain [(x, .at_ loc false)] true
  | .window =>
    if s.windowPending x.addr then s.put c (g.waitAt (g.group c.slice) (.window x.addr))
    else
      let w := s.readWindow x.addr
      s.loadKnown c g n reg 4 false [(x, 0)] fun k => w.extractLsb' (8 * k) 8
  | .acc p =>
    let (cl, i) := accPart p
    let w := (s.cluster cl).accWord i
    s.loadKnown c g n reg 4 false [(x, 0)] fun k => w.extractLsb' (8 * k) 8

/-- R185: `sst.w.phys` in a handler. -/
def State.storePhys (s : State) (c : Cur) (g : Gang) (reg : Nat) (x : LaneAddr) : State :=
  match s.physPlace x.addr with
  | .fault cause => s.access c g needW [(x, .fault cause)] fun s _ => s
  | .mem loc => s.startStore c g reg 4 [(x, .at_ loc false)] { phys := true }
  | .window => (s.finish c g).sendWindow x.addr (bytesOfNat 4 (g.sreg reg).toNat)
  | .acc p =>
    let (cl, i) := accPart p
    (s.modCluster cl fun k => k.setAcc i (g.sreg reg)).finish c g

end Sys2Proof.Machine
end

