-- ==== Sys2Proof/Machine/Memory.lean ====
section
/-!
DEFINITION. The memory, atomic, fence, wait and hint instructions, opcodes 0xC0-0xD6 (spec/09_isa_memory.md, R177-R194, with
R330 and R333 for held atomics).
-/

namespace Sys2Proof.Machine

/-! ## Vector loads and stores -/

/-- A vector load under the H field (Table 5.5). -/
def vecLoad (i : Instr) (n : BitVec 4) (d a b : BitVec 6) (h : BitVec 2) (width : Nat) (signed : Bool) (s : State) : Out :=
  onGroup i s fun c g =>
    let xs := g.laneAddrs (g.group c.slice) a.toNat b.toNat
    if h = 3 then s.loadScratch c g n.toNat d.toNat width signed xs
    else s.load c g n.toNat d.toNat width signed (if h = 1 then .nt else .plain) xs

/-- A vector store under the H field. -/
def vecStore (i : Instr) (d a b : BitVec 6) (h : BitVec 2) (width : Nat) (s : State) : Out :=
  onGroup i s fun c g =>
    let xs := g.laneAddrs (g.group c.slice) a.toNat b.toNat
    if h = 3 then s.storeScratch c g d.toNat width xs else s.store c g d.toNat width xs (h == 1)

/-- R178: `ld.b`. -/
def execLdB (n : BitVec 4) (d a b : BitVec 6) (h : BitVec 2) (s : State) : Out := vecLoad (.ldB n d a b h) n d a b h 1 false s

/-- R178: `ld.bs`. -/
def execLdBs (n : BitVec 4) (d a b : BitVec 6) (h : BitVec 2) (s : State) : Out := vecLoad (.ldBs n d a b h) n d a b h 1 true s

/-- R178: `ld.h`. -/
def execLdH (n : BitVec 4) (d a b : BitVec 6) (h : BitVec 2) (s : State) : Out := vecLoad (.ldH n d a b h) n d a b h 2 false s

/-- R178: `ld.hs`. -/
def execLdHs (n : BitVec 4) (d a b : BitVec 6) (h : BitVec 2) (s : State) : Out := vecLoad (.ldHs n d a b h) n d a b h 2 true s

/-- R178: `ld.w`. -/
def execLdW (n : BitVec 4) (d a b : BitVec 6) (h : BitVec 2) (s : State) : Out := vecLoad (.ldW n d a b h) n d a b h 4 false s

/-- R183: `ld.acq.w`. -/
def execLdAcqW (n : BitVec 4) (d a b : BitVec 6) (s : State) : Out :=
  onGroup (.ldAcqW n d a b) s fun c g =>
    s.load c g n.toNat d.toNat 4 false .acquire (g.laneAddrs (g.group c.slice) a.toNat b.toNat)

/-- R178: `ld.d`. -/
def execLdD (n : BitVec 4) (d a b : BitVec 6) (h : BitVec 2) (s : State) : Out := vecLoad (.ldD n d a b h) n d a b h 8 false s

/-- R178: `ld.q`. -/
def execLdQ (n : BitVec 4) (d a b : BitVec 6) (h : BitVec 2) (s : State) : Out := vecLoad (.ldQ n d a b h) n d a b h 16 false s

/-- R178: `st.b`. -/
def execStB (d a b : BitVec 6) (h : BitVec 2) (s : State) : Out := vecStore (.stB d a b h) d a b h 1 s

/-- R178: `st.h`. -/
def execStH (d a b : BitVec 6) (h : BitVec 2) (s : State) : Out := vecStore (.stH d a b h) d a b h 2 s

/-- R178: `st.w`. -/
def execStW (d a b : BitVec 6) (h : BitVec 2) (s : State) : Out := vecStore (.stW d a b h) d a b h 4 s

/-- R184: `st.rel.w`. -/
def execStRelW (d a b : BitVec 6) (s : State) : Out :=
  onGroup (.stRelW d a b) s fun c g => s.storeRelease c g d.toNat (g.laneAddrs (g.group c.slice) a.toNat b.toNat)

/-- R178: `st.d`. -/
def execStD (d a b : BitVec 6) (h : BitVec 2) (s : State) : Out := vecStore (.stD d a b h) d a b h 8 s

/-- R178: `st.q`. -/
def execStQ (d a b : BitVec 6) (h : BitVec 2) (s : State) : Out := vecStore (.stQ d a b h) d a b h 16 s

/-! ## Scalar loads and stores -/

/-- R178: `sld.w`. -/
def execSldW (n : BitVec 4) (d a b : BitVec 6) (h : BitVec 2) (s : State) : Out :=
  onGroup (.sldW n d a b h) s fun c g => s.load c g n.toNat d.toNat 4 false .plain (g.scalarAddr a.toNat b.toNat)

/-- R183: `sld.acq`. -/
def execSldAcq (n : BitVec 4) (d a b : BitVec 6) (s : State) : Out :=
  onGroup (.sldAcq n d a b) s fun c g => s.load c g n.toNat d.toNat 4 false .acquire (g.scalarAddr a.toNat b.toNat)

/-- R185: `sld.w.phys` in a handler, `sld.w.nt` elsewhere. -/
def execSldWPhys (n : BitVec 4) (d a b : BitVec 6) (s : State) : Out :=
  onGroup (.sldWPhys n d a b) s fun c g =>
    let x := g.scalarAddr a.toNat b.toNat
    if g.sup then s.loadPhys c g n.toNat d.toNat (x.headD ⟨32, 0⟩) else s.load c g n.toNat d.toNat 4 false .nt x

/-- R178: `sld.d`. -/
def execSldD (n : BitVec 4) (d a b : BitVec 6) (h : BitVec 2) (s : State) : Out :=
  onGroup (.sldD n d a b h) s fun c g =>
    s.load c g n.toNat d.toNat 8 false (if h = 1 then .nt else .plain) (g.scalarAddr a.toNat b.toNat)

/-- R178: `sst.w`. -/
def execSstW (d a b : BitVec 6) (h : BitVec 2) (s : State) : Out :=
  onGroup (.sstW d a b h) s fun c g => s.store c g d.toNat 4 (g.scalarAddr a.toNat b.toNat)

/-- R184: `sst.rel`. -/
def execSstRel (d a b : BitVec 6) (s : State) : Out :=
  onGroup (.sstRel d a b) s fun c g => s.storeRelease c g d.toNat (g.scalarAddr a.toNat b.toNat)

/-- R185: `sst.w.phys` in a handler, `sst.w.nt` elsewhere. -/
def execSstWPhys (d a b : BitVec 6) (s : State) : Out :=
  onGroup (.sstWPhys d a b) s fun c g =>
    let x := g.scalarAddr a.toNat b.toNat
    if g.sup then s.storePhys c g d.toNat (x.headD ⟨32, 0⟩) else s.store c g d.toNat 4 x true

/-- R178: `sst.d`. -/
def execSstD (d a b : BitVec 6) (h : BitVec 2) (s : State) : Out :=
  onGroup (.sstD d a b h) s fun c g => s.store c g d.toNat 8 (g.scalarAddr a.toNat b.toNat) (h == 1)

/-! ## Atomics (R186, R187) -/

/-- Table 9.3: whether the scope covers the address. -/
def scopeCovers (h : Nat) (a : Dword) (loc : Nat) : Bool :=
  if isHost loc then h == 3 else if 2 ^ 51 ≤ a.toNat then decide (h ≥ 2) else true

/-- A lane's place with the scope's check added. -/
def inScope (h : Nat) (x : LaneAddr × Place) : LaneAddr × Place :=
  match x.2 with
  | .at_ loc sc => (x.1, if scopeCovers h x.1.addr loc then .at_ loc sc else .fault 0x05)
  | p => (x.1, p)

/-- Entries of a tile's ordered-atomic buffer (R330). -/
def detEntries : Nat := 4096

/-- One lane of an atomic sent to its home; the tile's L1 copy of the line goes (assumption 17). -/
def State.sendAtomic (s : State) (g : Gang) (op : Nat) (x y : Word) (loc : Nat) (addr : Dword) (pend : Option Nat)
    (dest : Option Dest) : State :=
  let s := s.enqueue g (lineOf loc) addr (.atomic op x y (loc % 64) pend dest) (s.isMapped false addr)
  s.modTile g.tile fun t => { t with l1 := t.l1.filter fun c => c.line != lineOf loc }

/-- Whether an atomic of a lane is held (R330). -/
def held (g : Gang) (ret : Bool) (loc : Nat) : Bool := g.det && !ret && !isHost loc

/-- R186, R330: an atomic whose lanes' places are known. -/
def State.startAtomic (s : State) (c : Cur) (g : Gang) (n reg op : Nat) (ret : Bool) (xs : List (LaneAddr × Nat)) : State :=
  let reg' (l : LaneAddr) (r : Nat) : Word := if l.lane = 32 then g.sreg (reg + r) else g.vreg (reg + r) l.lane
  let key (l : LaneAddr) : Dest := if l.lane = 32 then .sreg reg else .vreg (reg * 32 + l.lane)
  let later := xs.filter fun x => held g ret x.2
  let now := xs.filter fun x => !held g ret x.2
  if detEntries < (s.tile g.tile).det.length + later.length then s.put c (g.waitAt (g.group c.slice) .drain)
  else if ret && !s.logRoom g.tile g.ctx xs.length then s.logFull c g
  else
    let s := now.foldl (fun s x => s.sendAtomic g op (reg' x.1 0) (reg' x.1 1) x.2 x.1.addr
      (if ret then some g.nextId else none) (if ret then some (key x.1) else none)) s
    let hold (x : LaneAddr × Nat) : Held :=
      { launch := g.launch.getD 0, slot := g.slot, gen := g.gen, grove := g.grove, gang := g.gidx, lane := x.1.lane
        seq := g.atomSeq, loc := x.2, op := op, x := reg' x.1 0, y := reg' x.1 1
        va := if s.isMapped false x.1.addr then some (tableVa x.1.addr) else none }
    let s := s.modTile g.tile fun t => { t with det := t.det ++ later.map hold }
    let g := { g with atomSeq := g.atomSeq + 1, domStored := g.domStored || xs.any fun x => decide (2 ^ 51 ≤ x.1.addr.toNat) }
    s.finish c (if ret then g.open (g.group c.slice) n (xs.map fun x => key x.1) [] false none else g)

/-- R186: an atomic of lanes at addresses, under scope `h`. -/
def State.atomic (s : State) (c : Cur) (g : Gang) (n reg op h : Nat) (ret : Bool) (xs : List LaneAddr) : State :=
  s.access c g needRW ((s.placed c g 4 needRW xs).map (inScope h)) fun s xs =>
    s.startAtomic c g n reg op ret (xs.filterMap fun x => match x.2 with | .at_ loc _ => some (x.1, loc) | _ => none)

/-- R186: `atom`. -/
def execAtom (n : BitVec 4) (d a : BitVec 6) (r : BitVec 1) (o : BitVec 4) (h : BitVec 2) (s : State) : Out :=
  onGroup (.atom n d a r o h) s fun c g =>
    s.atomic c g n.toNat d.toNat o.toNat h.toNat (r == 1)
      ((g.active (g.group c.slice)).map fun i => ⟨i, g.vreg (a.toNat + 1) i ++ g.vreg a.toNat i⟩)

/-- R186: `satom`. -/
def execSatom (n : BitVec 4) (d : BitVec 6) (r : BitVec 1) (o : BitVec 4) (b : BitVec 6) (h : BitVec 2) (s : State) : Out :=
  onGroup (.satom n d r o b h) s fun c g =>
    s.atomic c g n.toNat d.toNat o.toNat h.toNat (r == 1) [⟨32, g.sreg64 b.toNat⟩]

/-! ## Fences (R188) -/

/-- Every load of the gang before a result has returned (Table 9.5); a prefetch is none. -/
def Gang.loadsReturned (g : Gang) (before : Nat) : Bool :=
  g.pend.all fun p => decide (before ≤ p.id) || p.returned || p.load.isNone || p.dests.isEmpty

/-- Whether an entry of a store queue is a gang's store or atomic. -/
def SqEntry.ofGang (e : SqEntry) (g : Gang) : Bool :=
  e.slot == g.slot && e.gen == g.gen && (match e.req with | .wake => false | _ => true)

/-- Table 9.5: whether the release wait of a scope has ended: 0 gang, 1 tile, 2 device, 3 domain, 4 system. It waits for what is
earlier than the fence: requests of the tile and results of the gang before `mark`. -/
def State.fenceDone (s : State) (g : Gang) (scope : Nat) (mark : Nat × Nat) : Bool :=
  g.loadsReturned mark.2 &&
    (decide (scope < 2) || !((s.tile g.tile).sq.any fun e => e.ofGang g && decide (e.seq < mark.1))) &&
    (decide (scope < 2) || decide (g.horizon + (if scope ≥ 3 then 8 else 0) ≤ s.gtc)) &&
    (scope != 4 || !s.hostStores.any fun h => h.tile == g.tile && h.slot == g.slot && h.gen == g.gen && decide (h.seq < mark.1))

/-- Table 9.5: the acquire action at the current time: the tile's L1 and the cluster's instruction cache lose what was granted
before (R390). -/
def State.selfInvalidate (s : State) (tile : Nat) : State :=
  let s := s.modTile tile fun t => { t with l1 := invalidateBefore t.l1 s.gtc }
  s.modCluster (clusterOf tile) fun k => { k with icache := invalidateBefore k.icache s.gtc }

/-- A fence: it waits, then its group goes on. -/
def fenceOp (i : Instr) (scope : Nat) (acquire : Bool) (s : State) : Out :=
  onGroup i s fun c g =>
    if (g.slice c.slice).phase = 0 then s.waitFence c g scope acquire else s.finish c g

/-- R188: `fence.rel`. -/
def execFenceRel (sc : BitVec 3) (s : State) : Out := fenceOp (.fenceRel sc) sc.toNat false s

/-- R188: `fence.acq`: the wait of tile scope, then the acquire action at the wider scopes. -/
def execFenceAcq (sc : BitVec 3) (s : State) : Out := fenceOp (.fenceAcq sc) (min sc.toNat 1) (decide (sc.toNat ≥ 2)) s

/-- R188: `fence.ar`. -/
def execFenceAr (sc : BitVec 3) (s : State) : Out := fenceOp (.fenceAr sc) sc.toNat (decide (sc.toNat ≥ 2)) s

/-! ## Waiting on a word (R190-R192) -/

/-- R388: which watch table serves a place: the die and slice of its home. A word at another device's domain address, whose physical
address is not known here, has the table that its offset names in a set for each device and context (assumption 63). -/
def homeSlice (loc : Nat) : Nat := (if isRemote loc then loc / 2 ^ 37 * 64 else 0) + dieOf loc * 32 + loc / 64 % 32

/-- R190, R388: watches an L2 slice holds. -/
def watchEntries : Nat := 256

/-- Whether the watch table of a place has no free entry. -/
def State.watchFull (s : State) (loc : Nat) : Bool :=
  decide ((s.watches.countP fun w => !w.ended s.gtc && homeSlice (w.line * 64) == homeSlice loc) ≥ watchEntries)

/-- R191, R391: the end of the budget of a `wata` that a slice has left and comes back to. -/
def Slice.keptEnd (x : Slice) : Option Nat := (x.budget.find? fun b => b.1 == x.pc).map Prod.snd

/-- A slice that parks at a `wata`, with the end of its budget where it has one. -/
def Slice.parkAt (x : Slice) (limit : Option Nat) : Slice :=
  { x with wait := .wata, budget := x.budgetsBut x.pc ++ (limit.map fun e => (x.pc, e)).toList }

/-- R235: a W noted in a tile's completion list. -/
def Tile.listCompletion (t : Tile) (line w : Nat) : Tile :=
  { t with
    clist := (line, max w (((t.clist.find? fun x => x.1 == line).map Prod.snd).getD 0)) :: t.clist.filter fun x => x.1 != line }

/-- R235: whether a tile may read a line at home: no completion of its own is still to come, of an atomic sent before place
`before` of the tile's order neither (assumption 17). -/
def Tile.mayReadAt (t : Tile) (now line before : Nat) : Bool :=
  !(t.clist.any fun x => x.1 == line && decide (now < x.2)) &&
    !(t.sq.any fun e => e.line == line && decide (e.seq < before) && match e.req with | .atomic _ _ _ _ _ _ => true | _ => false)

/-- The same for a read made now. -/
def Tile.mayRead (t : Tile) (now line : Nat) : Bool := t.mayReadAt now line t.nextSeq

/-- R233, R235, R316: whether a tile can read `n` lines from a place at home now. -/
def State.readable (s : State) (tile loc n : Nat) : Bool :=
  s.carries loc &&
    (List.range n).all fun k => (s.tile tile).mayRead s.gtc (lineOf loc + k) && s.inTurn (lineOf loc + k) tile

/-- R190, R233: the time whose value a read of a line at home takes that comes after what the home has done in this tick: a write
taken before it in this tick whose W is the next is seen (Table 26.5, assumption 63). -/
def Home.seenAt (h : Home) (now : Nat) : Nat := if h.wrote = now ∧ h.lastW = now + 1 then now + 1 else now

/-- R190, R391: `wata` at a word whose place is known: one home action that reads and watches. -/
def State.startWata (s : State) (c : Cur) (g : Gang) (d a loc : Nat) : State :=
  let js := g.group c.slice
  let x := g.slice c.slice
  let limit : Option Nat := x.keptEnd.orElse fun _ => if g.sreg d = 0 then none else some (s.gtc + (g.sreg d).toNat)
  if !s.readable g.tile loc 1 then s.put c (g.waitAt js (.home loc 1))
  else
    let t := (s.home (lineOf loc)).seenAt s.gtc
    let s := s.modHome (lineOf loc) fun h => h.took s.gtc g.tile
    if s.homeWord t loc ≠ g.sreg a ∨ limit.any (fun e => decide (e ≤ s.gtc)) ∨ s.watchFull loc then s.finish c g
    else if !s.logRoom g.tile g.ctx 2 then s.logFull c g
    else
      let w : Watch :=
        { line := lineOf loc, since := t, tile := g.tile, slot := g.slot, slice := c.slice, fired := s.firstDue (lineOf loc) t }
      let s := { s with watches := s.watches ++ [w] }
      (s.stageGang g 0x03 (1 + sliceMask js * 8)).put c (g.modSlices js fun y => y.parkAt limit)

/-- R190: `wata`. A page that reads as zeros takes no home action, so the group does not park (R306, assumption 18). -/
def execWata (d a b : BitVec 6) (s : State) : Out :=
  onGroup (.wata d a b) s fun c g =>
    let x : LaneAddr := ⟨32, g.sreg64 b.toNat⟩
    let p := match s.placeOf g c.slice 4 needR x.addr with
      | .at_ loc sc => if isHost loc then .fault 0x05 else .at_ loc sc
      | p => p
    s.access c g needR [(x, p)] fun s _ =>
      match p with
      | .at_ loc _ => s.startWata c g d.toNat a.toNat loc
      | _ => s.finish c g

/-- The place in its frame of an address whose translation has a zero hint (R306). -/
def State.framePlace (s : State) (g : Gang) (j : Nat) (a : Dword) : Option Nat :=
  let va := tableVa a
  let held := g.walked.filterMap fun w => match w.result with
    | .ok x => if w.slice = j then some x else none
    | .fault _ => none
  ((held ++ (s.tile g.tile).tlb ++ (s.cluster (clusterOf g.tile)).tlb).find? fun x => x.covers g.ctx va && x.allows needR).map fun x =>
    x.pa + va % 2 ^ x.size

/-- R192: `wake`, which travels to the home of its line even where the page reads as zeros. -/
def execWake (b : BitVec 6) (s : State) : Out :=
  onGroup (.wake b) s fun c g =>
    let x : LaneAddr := ⟨32, g.sreg64 b.toNat⟩
    let p := s.placeOf g c.slice 1 needR x.addr
    let dest := match p with
      | .at_ loc _ => some loc
      | _ => s.framePlace g c.slice x.addr
    s.access c g needR [(x, p)] fun s _ =>
      match dest with
      | some loc => (s.enqueue g (lineOf loc) x.addr .wake (s.isMapped false x.addr)).finish c g
      | none => s.finish c g

/-! ## Zero lines and prefetch (R193, R194) -/

/-- R193: `zfill`. -/
def execZfill (a b : BitVec 6) (s : State) : Out :=
  onGroup (.zfill a b) s fun c g =>
    s.access c g needW (s.placed c g 1 needW (g.laneAddrs (g.group c.slice) a.toNat b.toNat)) fun s xs =>
      let stores := xs.filterMap fun x => match x.2 with
        | .at_ loc _ => some (⟨lineOf loc * 64, x.1.addr, List.replicate 64 0⟩ : LaneStore)
        | _ => none
      s.issueStores c g { zero := true } stores

/-- The stores of a tile's queue to a line, put over its bytes in order. -/
def Tile.overlay (t : Tile) (line : Nat) (c : CacheLine) : CacheLine :=
  t.sq.foldl (fun c e => if e.line ≠ line then c else match e.req with | .store bytes zero => c.patch bytes zero | _ => c) c

/-- R179, R230, R233: a line read at home enters a tile's L1 with its lease. -/
def State.fillL1 (s : State) (tile ctx line : Nat) : State :=
  let bytes := s.homeBytes s.gtc (line * 64) 64
  let zero := s.zeroLine line
  let (s, e) := s.grantLease line tile (s.ctx ctx).lease
  let copy : CacheLine := { line := line, bytes := bytes, grant := s.gtc, expiry := e, zero := zero }
  s.modTile tile fun t => { t with l1 := cacheInsert l1Tags l1Data t.l1 (t.overlay line copy) }

/-- The slice under which the walks of a gang's prefetches are kept. -/
def prefetchSlice : Nat := 8

/-- R194: the lanes of a prefetch whose translations are there: their lines are to be read, for L1 as by a plain load or for L2 only;
a lane that faults, or reads zeros, is dropped; the others wait for their walks. -/
def State.placePrefetch (s : State) (g : Gang) (id : Nat) (l : LoadPart) : State :=
  let at_ := l.lanes.map fun x => (x, s.placeOf g prefetchSlice 1 needR x.addr)
  let lines := distinct (at_.filterMap fun x => match x.2 with
    | .at_ loc sc =>
      if l.reg = 1 then
        if cacheable loc sc && (cacheHit (s.tile g.tile).l1 (lineOf loc) s.gtc).isNone then some (lineOf loc) else none
      else if isHbm loc then some (lineOf loc) else none
    | _ => none)
  let misses := at_.filterMap fun x => match x.2 with
    | .miss va clear => some (x.1, va, clear)
    | _ => none
  let part := { l with
    lanes := misses.map Prod.fst, need := distinct (l.need ++ lines)
    keep := if l.reg = 1 then distinct (l.keep ++ lines) else [] }
  let s := misses.foldl (fun s m => s.askWalk g.ctx m.2.1 m.2.2 needR ⟨g.tile, g.slot, prefetchSlice⟩) s
  let done := part.lanes.isEmpty && part.need.isEmpty
  s.modGang g.tile g.slot fun g =>
    { g with
      pend := if done then g.pend.filter fun p => p.id != id else (g.modPend id fun p => { p with load := some part }).pend
      walked := g.walked.filter fun w => w.slice != prefetchSlice }

/-- R194: a prefetch, a load with no destination that completes at issue; `reg` tells L1 from L2. -/
def prefetchOp (i : Instr) (a b : BitVec 6) (intoL1 : Bool) (s : State) : Out :=
  onGroup i s fun c g =>
    let js := g.group c.slice
    let part : LoadPart :=
      { reg := if intoL1 then 1 else 0, width := 1, signed := false, since := (s.tile g.tile).nextSeq
        lanes := (g.laneAddrs js a.toNat b.toNat).map fun x => ⟨x.lane, none, x.addr⟩ }
    let p : Pend := { id := g.nextId, slices := js, left := List.replicate 8 0, dests := [], load := some part }
    (s.finish c { g with pend := g.pend ++ [p], nextId := g.nextId + 1 }).placePrefetch g g.nextId part

/-- R194: `pf`. -/
def execPf (a b : BitVec 6) (s : State) : Out := prefetchOp (.pf a b) a b true s

/-- R194: `pf.l2`. -/
def execPfL2 (a b : BitVec 6) (s : State) : Out := prefetchOp (.pfL2 a b) a b false s

end Sys2Proof.Machine
end

