-- ==== Sys2Proof/Machine/Control.lean ====
section
/-!
DEFINITION. Repeat prefix, branches, calls, the rendezvous and the end of slices, traps and their return, `tpark`, pennants and
engine waits, `logw`, `tlbinv` and the gear requests (spec/05_encoding.md R103-R105, spec/06_isa_control.md R106-R129,
spec/02_execution.md R39-R45).
-/

namespace Sys2Proof.Machine

/-! ## The repeat prefix (R103, R104) -/

/-- R112, R310: a fetch fault at an address, TPC the group's own. -/
def State.fetchFault (s : State) (c : Cur) (g : Gang) (a : Dword) (cause : Nat) : State :=
  s.trap c { g.frontTrap c cause a with need := if cause = 4 ∨ cause = 5 then needX else 0 }

/-- R103: `rep`: the body is fetched and the pair checked, then the repetitions are due. -/
def execRep (n : BitVec 6) (f : BitVec 3) (t : BitVec 2) (s : State) : Out :=
  onGroup (.rep n f t) s fun c g =>
    let js := g.group c.slice
    let body := nextPc (g.slice c.slice).pc
    match s.fetch g.tile g c.slice body with
    | .missing => s.put c (g.waitPhase js 1 .fetch)
    | .fault cause => s.fetchFault c g body cause
    | .word w =>
      let pre := encode (.rep n f t)
      if !g.pairOk pre w then s.trap c (g.illegal c (.rep n f t))
      else s.put c (g.modSlices js fun x =>
        { x with pc := nextPc x.pc, repc := repCount pre, inRep := true, wait := .run, phase := 0 })

/-- R96: a word that is no instruction. -/
def execIllegalInstruction (word : Word) (s : State) : Out :=
  onGroup (.illegalInstruction word) s fun c g => s.trap c (g.frontTrap c 0x01 (word.setWidth 64))

/-! ## Control flow (R111, R112) -/

/-- Four times a signed word offset. -/
def branchOffset (o : BitVec 20) : Dword := o.signExtend 64 <<< 2

/-- R89: where a branch at an address leads. -/
def branchTarget (x : Dword) (o : BitVec 20) : Dword := addr52 (x + branchOffset o)

/-- The group sent to where `f` leads each of its slices. -/
def State.send (s : State) (c : Cur) (g : Gang) (f : Slice → Slice) : State := s.put c (g.modSlices (g.group c.slice) f)

/-- R111: `nop`. -/
def execNop (s : State) : Out := onGroup .nop s fun c g => s.finish c g

/-- R111: `b.<cond>`. -/
def execBCond (cd : BitVec 4) (o : BitVec 20) (s : State) : Out :=
  onGroup (.bCond cd o) s fun c g =>
    if condHolds cd.toNat (g.slice c.slice).fl then s.send c g fun x => x.goto (branchTarget x.pc o) else s.finish c g

/-- R40: a branch that each slice decides by `p`; a group whose slices disagree parts into its slices. -/
def sliceBranch (i : Instr) (o : BitVec 20) (s : State) (p : Gang → Nat → Bool) : Out :=
  onGroup i s fun c g =>
    let js := g.group c.slice
    let parts := js.any (p g) && js.any fun j => !p g j
    let h := g.mapSlices fun j x =>
      if !js.contains j then x
      else
        let x := if p g j then x.goto (branchTarget x.pc o) else x.advance
        if parts then { x with grp := j } else x
    s.put c { h with walked := h.walked.filter fun w => some w.slice != js.head? }

/-- R40: `b.mz`. -/
def execBMz (o : BitVec 20) (s : State) : Out := sliceBranch (.bMz o) o s Gang.mz

/-- R40: `b.ma`. -/
def execBMa (o : BitVec 20) (s : State) : Out := sliceBranch (.bMa o) o s Gang.ma

/-- R111, R51: `call`. -/
def execCall (o : BitVec 20) (s : State) : Out :=
  onGroup (.call o) s fun c g =>
    if (g.slice c.slice).cdepth = 0xFFFF then s.trap c (g.illegal c (.call o))
    else s.send c g fun x => { x.goto (branchTarget x.pc o) with link := nextPc x.pc, cdepth := x.cdepth + 1 }

/-- R112: `jmp`. -/
def execJmp (a : BitVec 9) (s : State) : Out :=
  onGroup (.jmp a) s fun c g =>
    let t := g.sreg64 a.toNat
    if t &&& 3 ≠ 0 then s.trap c (g.frontTrap c 0x03 t)
    else if 2 ^ 52 ≤ t.toNat then s.trap c { g.frontTrap c 0x05 t with need := needX }
    else s.send c g fun x => x.goto t

/-- R111, R51: `ret`. The group goes where its lowest slice's LINK leads (assumption 20). -/
def execRet (s : State) : Out :=
  onGroup .ret s fun c g =>
    let lead := g.slice c.slice
    if lead.cdepth = 0 then s.trap c (g.illegal c .ret)
    else s.send c g fun x => { x.goto lead.link with cdepth := x.cdepth - 1 }

/-! ## The rendezvous (R42-R44) -/

/-- What a slice waiting in `regang` remembers: the slices it names and the destination. -/
def regangPhase (mask d : Nat) : Nat := 1 + mask + 256 * d

def regangMask (phase : Nat) : Nat := (phase - 1) % 256
def regangDest (phase : Nat) : Nat := (phase - 1) / 256

/-- R42: the slices that wait in `regang` at an address. -/
def Gang.waitingAt (g : Gang) (x : Dword) : List Nat :=
  g.liveSlices.filter fun j => (g.slice j).wait == .regang && (g.slice j).pc == x

/-- R42: whether every slice that a waiting one names waits there too or lives no more. -/
def Gang.allArrived (g : Gang) (ws : List Nat) : Bool :=
  ws.all fun j => (List.range 8).all fun k =>
    !(regangMask (g.slice j).phase).testBit k || ws.contains k || !(g.slice k).live

/-- R43: the rendezvous completed. -/
def Gang.meet (g : Gang) (ws : List Nat) : Gang :=
  match ws with
  | [] => g
  | m :: _ =>
    let lead := g.slice m
    let merged := ws.filter fun j => (g.slice j).cdepth == lead.cdepth && (g.slice j).mode == lead.mode
    let d := regangDest lead.phase
    let g := g.mapSlices fun j x =>
      if !ws.contains j then x
      else
        let x := x.advance
        if merged.contains j then { x with grp := m, fl := lead.fl } else { x with grp := j }
    g.setS d (BitVec.ofNat 32 (sliceMask merged))

/-- R42: the rendezvous at an address completed if every slice it names has come. -/
def Gang.tryMeet (g : Gang) (x : Dword) : Gang :=
  let ws := g.waitingAt x
  if !ws.isEmpty && g.allArrived ws then g.meet ws else g

/-- R42: `regang`; in a unified gang it completes at once, with the mask of the live slices (R44). -/
def execRegang (d a : BitVec 9) (s : State) : Out :=
  onGroup (.regang d a) s fun c g =>
    let js := g.group c.slice
    if !g.parted then s.finish c (g.setS d.toNat (BitVec.ofNat 32 (sliceMask js))) else
    let mask := (g.sreg a.toNat).toNat % 256 ||| sliceMask js
    let x := (g.slice c.slice).pc
    s.put c ((g.waitPhase js (regangPhase mask d.toNat) .regang).tryMeet x)

/-- R42: rendezvous that the end of slices completes. -/
def Gang.meetAll (g : Gang) : Gang :=
  (g.liveSlices.filterMap fun j => if (g.slice j).wait = .regang then some (g.slice j).pc else none).foldl
    (fun g x => g.tryMeet x) g

/-- R45: `exit`. -/
def execExit (s : State) : Out :=
  onGroup .exit s fun c g =>
    let h := g.modSlices (g.group c.slice) fun x => { x with live := false, wait := .run, phase := 0 }
    if h.liveSlices.isEmpty then (s.put c h).endGang c.tile c.slot else s.put c h.meetAll

/-! ## Traps (R119-R122) -/

/-- R119: a software trap with its immediate. -/
def softTrap (i : Instr) (cause : Nat) (imm : BitVec 15) (s : State) : Out :=
  onGroup i s fun c g => s.trap c (g.frontTrap c cause (imm.setWidth 64))

/-- R119: `ecall`. -/
def execEcall (imm : BitVec 15) (s : State) : Out := softTrap (.ecall imm) 0x0D imm s

/-- R119: `trap`. -/
def execTrap (imm : BitVec 15) (s : State) : Out := softTrap (.trap imm) 0x0E imm s

/-- R119: `brk`. -/
def execBrk (imm : BitVec 15) (s : State) : Out := softTrap (.brk imm) 0x0C imm s

/-- R120: `tret`. -/
def execTret (s : State) : Out := onGroupIf .tret s (supOnly .tret) fun c g => s.put c (g.tret false)

/-- R120: `tret.skip`. -/
def execTretSkip (s : State) : Out := onGroupIf .tretSkip s (supOnly .tretSkip) fun c g => s.put c (g.tret true)

/-- R121: `tkill gang`. -/
def execTkillGang (s : State) : Out := onGroupIf .tkillGang s (supOnly .tkillGang) fun c _ => s.endGang c.tile c.slot

/-- R121: `tkill grove`: its launch ends killed. -/
def execTkillGrove (s : State) : Out :=
  onGroupIf .tkillGrove s (supOnly .tkillGrove) fun _ g => (s.endGrove g).markKilled g.launch

/-- R312: whether the context's fault queue has a slot free for one more record, GET read at home. -/
def State.queueRoom (s : State) (ctx : Nat) : Bool :=
  let x := s.ctx ctx
  let get := (s.homeWord s.gtc (x.fq + 4)).toNat
  decide ((x.fqPut + x.posts.length + 2 ^ 32 - get) % 2 ^ 32 < x.fqSize)

/-- R122, Table 17.4: what `tpark` posts. -/
def Gang.parkRecord (g : Gang) (c : Cur) : FaultRec :=
  if g.sup then
    { kind := 1, cause := (g.trap.tcause.extractLsb' 0 8).toNat, tile := g.tile, slot := g.slot, gen := g.gen
      addr := g.trap.tval, pc := g.trap.tpc, mask := g.trap.tmask, need := g.trap.need, lane := c.slice }
  else
    { kind := 2, cause := 0, tile := g.tile, slot := g.slot, gen := g.gen, pc := (g.slice c.slice).pc
      mask := g.activeMask (g.group c.slice), lane := c.slice }

/-- R122: `tpark`. At SUP = 0 in a parted gang it parks the group that executes it (assumption 60). -/
def execTpark (s : State) : Out :=
  onGroup .tpark s fun c g =>
    let js := g.group c.slice
    if !s.logRoom g.tile g.ctx 2 then s.logFull c g
    else if !s.queueRoom g.ctx then s.put c (g.waitAt js .issue)
    else ((s.post g.ctx (g.parkRecord c)).stageGang g 0x03 (2 + sliceMask js * 8)).put c (g.waitAt js .park)

/-! ## Mode (R114) -/

/-- R114: MODE of the group written after the check of R52. -/
def State.writeMode (s : State) (c : Cur) (g : Gang) (m : Word) : State :=
  if modeOk m then s.finish c (g.modSlices (g.group c.slice) fun x => { x with mode := m })
  else s.trap c (g.frontTrap c 0x01 (m.setWidth 64))

/-- A field of a word replaced. -/
def putField (w : Word) (lo len v : Nat) : Word :=
  (w &&& ~~~(BitVec.ofNat 32 ((2 ^ len - 1) * 2 ^ lo))) ||| BitVec.ofNat 32 (v % 2 ^ len * 2 ^ lo)

/-- R114: `setmode`. -/
def execSetmode (a : BitVec 9) (s : State) : Out :=
  onGroup (.setmode a) s fun c g => s.writeMode c g (g.sreg a.toNat)

/-- R114: `mset.gp`. -/
def execMsetGp (v : BitVec 3) (s : State) : Out :=
  onGroup (.msetGp v) s fun c g => s.writeMode c g (putField (g.slice c.slice).mode 0 3 v.toNat)

/-- R114: `mset.et`. -/
def execMsetEt (v : BitVec 6) (s : State) : Out :=
  onGroup (.msetEt v) s fun c g => s.writeMode c g (putField (g.slice c.slice).mode 3 6 v.toNat)

/-- R114: `mset.rm`. -/
def execMsetRm (v : BitVec 3) (s : State) : Out :=
  onGroup (.msetRm v) s fun c g => s.writeMode c g (putField (g.slice c.slice).mode 9 3 v.toNat)

/-! ## Gear (R115) -/

/-- R115: a gear request of a gang in a slot; it clears the sunk mark (R297). -/
def Tile.requestGear (t : Tile) (cap want : Bool) (slot : Nat) : Tile :=
  let t := { t with sunk := false }
  if t.gear = want then { t with request := if want then t.request else none }
  else if want && cap then { t with request := some true }
  else { t with switching := some (want, 1, slot), request := none }

/-- R115: `gear 0` and `gear 1`. -/
def gearOp (i : Instr) (want : Bool) (s : State) : Out :=
  onGroup i s fun c g =>
    if (s.tile c.tile).switching.isSome then s.put c (g.waitAt (g.group c.slice) .issue)
    else (s.modTile c.tile fun t => t.requestGear (s.ctx g.ctx).capped want g.slot).finish c g

/-- R115: `gear 0`. -/
def execGear0 (s : State) : Out := gearOp .gear0 false s

/-- R115: `gear 1`. -/
def execGear1 (s : State) : Out := gearOp .gear1 true s

/-! ## Engine waits and pennants (R123, R124) -/

/-- R123: the counter of an engine class. -/
def Gang.count (g : Gang) (cls : Nat) : Nat := (g.queues.getD cls []).length

/-- R123: `waitc`. -/
def execWaitc (k : BitVec 2) (n : BitVec 8) (s : State) : Out :=
  onGroup (.waitc k n) s fun c g =>
    if g.count k.toNat ≤ n.toNat then s.finish c g else s.put c (g.waitAt (g.group c.slice) .issue)

/-- R124: a pennant set or cleared. -/
def Gang.setPennant (g : Gang) (k : Nat) (v : Option Bool) : Gang := { g with pnst := g.pnst.set k v }

/-- R124: `pnset`. -/
def execPnset (k : BitVec 9) (a : BitVec 9) (s : State) : Out :=
  onGroup (.pnset k a) s fun c g => s.finish c (g.setPennant k.toNat (some (g.sreg a.toNat != 0))).decideHeads

/-- R124: `pnclr`. -/
def execPnclr (k : BitVec 9) (s : State) : Out :=
  onGroup (.pnclr k) s fun c g => s.finish c (g.setPennant k.toNat none)

/-! ## `flush`, `logw`, `tlbinv` (R127-R129) -/

/-- R127, R332: whether a drain under way holds an atomic of a gang from before its atomic `seq`. -/
def State.flushing (s : State) (g : Gang) (seq : Nat) : Bool :=
  s.drains.any fun d => d.entries.any fun e => e.1 == g.tile && e.2.ofGang g && decide (e.2.seq < seq)

/-- A group's wait in a `flush`, with the gang's next atomic (R127). -/
def Gang.waitFlush (g : Gang) (js : List Nat) : Gang :=
  g.modSlices js fun x => { x with wait := .drain, phase := 1, mark := (0, g.atomSeq) }

/-- R127: `flush`: a drain of what the gang holds, and a wait until that and every other drain that has taken atomics of the gang is
done. -/
def execFlush (s : State) : Out :=
  onGroup .flush s fun c g =>
    let js := g.group c.slice
    if !g.det || (g.slice c.slice).phase ≠ 0 then s.finish c g
    else if (s.tile c.tile).det.any fun h => h.ofGang g then
      (s.startDrain { point := 2, launch := g.launch.getD 0, tile := c.tile, slot := c.slot, part := c.slice, entries := [] } [c.tile]
        fun _ h => h.ofGang g).put c (g.waitFlush js)
    else if s.flushing g g.atomSeq then s.put c (g.waitFlush js)
    else s.finish c g

/-- R128: `logw`. -/
def execLogw (a : BitVec 9) (s : State) : Out :=
  onGroup (.logw a) s fun c g =>
    if !s.recording g.ctx then s.finish c g
    else if !s.logRoom g.tile g.ctx 1 then s.logFull c g
    else (s.stageGang g 0x0B ((g.sreg a.toNat).toNat + c.slice * 2 ^ 32)).finish c g

/-- R129: `tlbinv`. -/
def execTlbinv (a : BitVec 9) (s : State) : Out :=
  onGroupIf (.tlbinv a) s (supOnly (.tlbinv a)) fun c g =>
    let va := g.sreg64 a.toNat
    (s.removePage g.ctx (if va = 0xFFFFFFFFFFFFFFFF then none else some (va.toNat % 2 ^ 52))).finish c g

end Sys2Proof.Machine
end

