-- ==== Sys2Proof/Machine/MemEvents.lean ====
section
/-!
DEFINITION. What the memory system does by itself: stores and atomics at their homes, loads returning, leases and completions
ending, instruction lines and translations arriving, waits of fences and `wata` ending (R179-R192, R233-R236, R303-R308, R390).
-/

namespace Sys2Proof.Machine

/-! ## Stores and atomics (R181, R186) -/

/-- The entry of a tile's queue with a number. -/
def Tile.entry? (t : Tile) (seq : Nat) : Option SqEntry := t.sq.find? fun e => e.seq == seq

/-- R181: requests of a tile reach a line's home in the order of their issue. -/
def Tile.nextOfLine (t : Tile) (e : SqEntry) : Bool :=
  e.w.isNone && !(t.sq.any fun x => x.line == e.line && decide (x.seq < e.seq) && x.w.isNone)

/-- F1 of R241: whether a load that the entry's gang issued before it is still to read its line at home. -/
def State.olderLoad (s : State) (tile : Nat) (e : SqEntry) : Bool :=
  match s.gang? tile e.slot with
  | none => false
  | some g => g.gen == e.gen && g.pend.any fun p => !p.dests.isEmpty && match p.load with
      | some l => l.need.contains e.line && decide (l.since ≤ e.seq)
      | none => false

/-- R319: a gang's stores and atomics reach the host in the order of their issue. -/
def Tile.nextOfHost (t : Tile) (e : SqEntry) : Bool :=
  !isHost (e.line * 64) ||
    !(t.sq.any fun x => isHost (x.line * 64) && x.slot == e.slot && x.gen == e.gen && decide (x.seq < e.seq) && x.w.isNone)

/-- Whether an entry can reach its line's home now. -/
def State.canArrive (s : State) (tile : Nat) (e : SqEntry) : Bool :=
  (s.tile tile).nextOfLine e && (s.tile tile).nextOfHost e && !s.olderLoad tile e && s.carries (e.line * 64) && s.inTurn e.line tile

/-- An entry of a tile's queue changed. -/
def State.modEntry (s : State) (tile seq : Nat) (f : SqEntry → SqEntry) : State :=
  s.modTile tile fun t => { t with sq := t.sq.map fun e => if e.seq = seq then f e else e }

/-- R181: a store line arrives: its W is formed, the tile's own copy takes its bytes; or a wake arrives (R192). -/
def State.arrive (s : State) (tile : Nat) (e : SqEntry) : State :=
  match e.req with
  | .store bytes zero =>
    let (s, w) := s.homeWrite e.line tile bytes zero
    let s := (if e.nt then s.agedL2 e.line else s).modEntry tile e.seq fun e => { e with w := some w }
    let s := s.modTile tile fun t => { t with l1 := patchL1 t.l1 e.line bytes zero }
    { s with hostStores := s.hostStores.map fun h => if h.tile = tile ∧ h.seq = e.seq then { h with w := some w } else h }
  | .wake => ((s.wakeLine e.line).modHome e.line fun h => h.took s.gtc tile).modTile tile fun t => { t with sq := t.sq.filter fun x => x.seq != e.seq }
  | .atomic _ _ _ _ _ _ => s

/-- R181: `STORE_HOME_ARRIVAL`. -/
def execStoreHomeArrival (s : State) : Out :=
  let tile := s.subject.unit
  match (s.tile tile).entry? s.subject.slot with
  | none => .next s
  | some e => if s.canArrive tile e then .next (s.arrive tile e) else .next s

/-- R181: `STORE_APPLY`. -/
def execStoreApply (s : State) : Out := .next (s.applyLine s.subject.unit)

/-- R181, R186, R187: an atomic performed at its word's home on the value every earlier write leaves. -/
def State.performAtomic (s : State) (who loc op : Nat) (x y : Word) : State × Word × Nat :=
  let line := lineOf loc
  let old := s.homeWord (max s.gtc (s.home line).lastW) loc
  let new := atomicWord op old x y
  let (s, w) := s.homeWrite line who ((bytesOfNat 4 new.toNat).mapIdx fun k b => (loc % 64 + k, b))
  (s, old, w)

/-- R186: `ATOMIC_HOME`. -/
def execAtomicHome (s : State) : Out :=
  let tile := s.subject.unit
  match (s.tile tile).entry? s.subject.slot with
  | none => .next s
  | some e =>
    match e.req with
    | .atomic op x y off _ _ =>
      if s.canArrive tile e then
        let (s, old, w) := s.performAtomic tile (e.line * 64 + off) op x y
        .next (s.modEntry tile e.seq fun e => { e with w := some w, old := old })
      else .next s
    | _ => .next s

/-- R338: entries of the results of a `.ret` atomic, lane by lane. -/
def State.stageResults (s : State) (g : Gang) (vals : List (Dest × Word)) : State :=
  vals.foldl (fun s v => s.stageGang g 0x08 (v.2.toNat + 2 ^ 32 * (match v.1 with | .vreg key => key % 32 | _ => 32))) s

/-- R116: the results of a gang that can be written are written, but not while its tile switches its gear. -/
def State.settleGang (s : State) (tile slot : Nat) : State :=
  if (s.tile tile).switching.isSome then s else s.modGang tile slot Gang.settle

/-- R121, R338: a gang without a launch that has ended, once what it had issued is logged. -/
def State.reap (s : State) (tile slot : Nat) : State :=
  match s.gang? tile slot with
  | none => s
  | some g => if g.ended && g.launch.isNone && g.pend.isEmpty then s.retireSlot tile slot else s

/-- R187: the old value of one lane of a `.ret` atomic comes back; the last one returns the result. -/
def State.deliverOld (s : State) (tile : Nat) (e : SqEntry) : State :=
  match e.req with
  | .atomic _ _ _ _ (some id) (some d) =>
    match s.gang? tile e.slot with
    | none => s
    | some g =>
      if g.gen ≠ e.gen then s
      else
        let g := g.modPend id fun p => { p with vals := p.vals ++ [(d, e.old)] }
        if (s.tile tile).sq.any fun x => x.slot == e.slot && x.gen == e.gen &&
            (match x.req with | .atomic _ _ _ _ p _ => p == some id | _ => false) then
          s.setGang tile e.slot g
        else
          let vals := ((g.pend.find? fun p => p.id == id).map Pend.vals).getD []
          (((s.setGang tile e.slot (g.modPend id fun p => { p with returned := true })).settleGang tile e.slot).stageResults g vals).reap
            tile e.slot
  | _ => s

/-- A greatest W kept for each line, of those not yet in force. -/
def noteLine (now line w : Nat) (m : Sparse Nat) : Sparse Nat :=
  Sparse.put (m.filter fun x => decide (now < x.2)) line (max w (Sparse.get 0 m line))

/-- R203: a returned W noted with its gang, and with the commands of it that wait for the store. -/
def State.noteStore (s : State) (tile : Nat) (e : SqEntry) (w : Nat) : State :=
  match s.gangOf tile e.slot e.gen with
  | none => s
  | some g =>
    s.setGang tile g.slot
      { g with
        recent := noteLine s.gtc e.line w g.recent
        queues := g.queues.map fun q => q.map fun c =>
          if c.waits.contains e.seq then { c with seen := noteLine s.gtc e.line w c.seen } else c }

/-- R181, R235: a store's or atomic's W returns to its tile, gang and launch. -/
def State.complete (s : State) (tile : Nat) (e : SqEntry) (w : Nat) : State :=
  let s := s.modTile tile fun t => ({ t with sq := t.sq.filter fun x => x.seq != e.seq } : Tile).listCompletion e.line w
  let s := (s.noteStore tile e w).modGang tile e.slot fun g =>
    if g.gen = e.gen ∧ !g.ended then { g with horizon := max g.horizon w } else g
  let s := s.modLaunchOf e.launch fun l => { l with horizon := max l.horizon w }
  s.deliverOld tile e

/-- Whether an entry is the oldest of its line: completions of a line return in the order of its home actions. -/
def Tile.oldestOfLine (t : Tile) (e : SqEntry) : Bool := !(t.sq.any fun x => x.line == e.line && decide (x.seq < e.seq))

/-- R181: `STORE_COMPLETION_RETURN`. An atomic's result comes back once its W has passed (assumption 17). -/
def execStoreCompletionReturn (s : State) : Out :=
  let tile := s.subject.unit
  match (s.tile tile).entry? s.subject.slot with
  | none => .next s
  | some e =>
    match e.w with
    | none => .next s
    | some w =>
      let late := match e.req with | .atomic _ _ _ _ _ _ => decide (s.gtc < w) | _ => false
      if (s.tile tile).oldestOfLine e && !late then .next (s.complete tile e w) else .next s

/-- R235: `COMPLETION_LIST_EXPIRY`. -/
def execCompletionListExpiry (s : State) : Out :=
  .next (s.modTile s.subject.unit fun t =>
    { t with clist := t.clist.filter fun x => !(x.1 == s.subject.slot && decide (x.2 ≤ s.gtc)) })

/-- R319: `HOST_STORE_ACKNOWLEDGE`: the oldest store of the slot's gangs that the host has applied. -/
def execHostStoreAcknowledge (s : State) : Out :=
  let mine (h : HostStore) : Bool := h.tile == s.subject.unit && h.slot == s.subject.slot
  match s.hostStores.find? mine with
  | some h =>
    match h.w with
    | some w => if w ≤ s.gtc then .next { s with hostStores := s.hostStores.eraseP mine } else .next s
    | none => .next s
  | none => .next s

/-! ## Loads (R179, R183, R233) -/

/-- F1 of R241: whether an earlier load of the gang is still to read a line at home. -/
def Gang.earlierLoad (g : Gang) (id line : Nat) : Bool :=
  g.pend.any fun p => decide (p.id < id) && !p.dests.isEmpty && ((p.load.map fun l => l.need.contains line).getD false)

/-- The lanes' bytes of a load in one line. -/
def LoadPart.bytesIn (l : LoadPart) (line : Nat) : List Nat :=
  l.lanes.flatMap fun x => match x.loc with
    | some loc => ((List.range l.width).map fun k => loc + k).filter fun b => lineOf b == line
    | none => []

/-- R179: a line of a load read at home. -/
def State.readLine (s : State) (tile : Nat) (g : Gang) (id line : Nat) (l : LoadPart) : State :=
  let got := (l.bytesIn line).foldl (fun m b =>
    if (Sparse.find? m b).isSome then m else Sparse.put m b (s.homeByte s.gtc b)) l.got
  let times := l.lanes.filterMap fun x => match x.loc with
    | some loc => if lineOf loc = line then some (x.lane, s.wordTime s.gtc loc) else none
    | none => none
  let part : LoadPart :=
    { l with got := got, need := l.need.filter (· != line), time := max l.time s.gtc, logged := l.logged ++ times }
  let s := if l.keep.contains line then s.fillL1 tile g.ctx line else s.touchL2 line
  s.setGang tile g.slot (g.modPend id fun p => { p with load := some part })

/-- R233: `LOAD_HOME_READ`. -/
def execLoadHomeRead (s : State) : Out :=
  let j := s.subject
  onGang s j.unit j.slot fun g =>
    match g.pend.find? fun p => p.id == j.part with
    | none => s
    | some p =>
      match p.load with
      | none => s
      | some l =>
        if l.need.contains j.item && (s.tile j.unit).mayReadAt s.gtc j.item l.since && !g.earlierLoad p.id j.item &&
            s.carries (j.item * 64) && s.inTurn j.item j.unit then
          s.readLine j.unit g p.id j.item l
        else s

/-- R178: the word `r` a lane of a load writes. -/
def LoadPart.word (l : LoadPart) (x : LaneAt) (r : Nat) : Word :=
  let bytes := (List.range l.width).map fun k => match x.loc with
    | some loc => (Sparse.find? l.got (loc + k)).getD 0
    | none => 0
  let n := natOfBytes ((bytes.drop (4 * r)).take 4)
  if l.signed && decide (l.width < 4) && decide (n ≥ 2 ^ (8 * l.width - 1)) then BitVec.ofInt 32 (n - 2 ^ (8 * l.width))
  else BitVec.ofNat 32 n

/-- R178: what a load writes. -/
def LoadPart.vals (l : LoadPart) : List (Dest × Word) :=
  l.lanes.flatMap fun x => (List.range (max 1 (l.width / 4))).map fun r =>
    (if x.lane = 32 then .sreg (l.reg + r) else .vreg ((l.reg + r) * 32 + x.lane), l.word x r)

/-- R338: the entries of an acquire load, address and value time lane by lane. -/
def State.stageAcquire (s : State) (g : Gang) (l : LoadPart) : State :=
  l.addrs.foldl (fun s a =>
    let s := s.stageGang g 0x05 (a.2 / 4 % 2 ^ 50 + a.1 * 2 ^ 50)
    s.stageGang g 0x06 (((l.logged.find? fun x => x.1 == a.1).map Prod.snd).getD 0 % 2 ^ 48)) s

/-- R179: `LOAD_RETURN`. An acquire drops the L1 lines granted before its read time (R183); a prefetch goes on or ends (R194). -/
def execLoadReturn (s : State) : Out :=
  let j := s.subject
  onGang s j.unit j.slot fun g =>
    match g.pend.find? fun p => p.id == j.part with
    | none => s
    | some p =>
      match p.load with
      | none => s
      | some l =>
        if p.dests.isEmpty && !g.ended then s.placePrefetch g p.id l
        else if p.returned || !l.need.isEmpty then s
        else
          let s := if l.acquire then
              (s.modTile j.unit fun t => { t with l1 := invalidateBefore t.l1 l.time }).stageAcquire g l
            else s
          ((s.setGang j.unit j.slot (g.modPend p.id fun p => { p with vals := l.vals, returned := true })).settleGang j.unit j.slot).reap
            j.unit j.slot

/-- R98: `LONG_LATENCY_RESULT_RETURN`. -/
def execLongLatencyResultReturn (s : State) : Out :=
  let j := s.subject
  onGang s j.unit j.slot fun g =>
    match g.pend.find? fun p => p.id == j.part with
    | none => s
    | some p =>
      if p.load.isSome || !(p.dests.all fun d => p.vals.any fun v => v.1 == d) || p.returned then s
      else (s.setGang j.unit j.slot (g.modPend p.id fun p => { p with returned := true })).settleGang j.unit j.slot

/-- R233: `L1_LEASE_EXPIRY`. -/
def execL1LeaseExpiry (s : State) : Out :=
  .next (s.modTile s.subject.unit fun t =>
    { t with l1 := t.l1.filter fun c => !(c.line == s.subject.slot && decide (c.expiry < s.gtc)) })

/-! ## Instruction lines (R390) -/

/-- R390: lines of a cluster's instruction cache. -/
def icacheLines : Nat := 1024

/-- R390: a line read at home enters the cluster's instruction cache; lines whose leases have ended leave it. -/
def State.fillIcache (s : State) (tile ctx line : Nat) : State :=
  let bytes := s.homeBytes s.gtc (line * 64) 64
  let (s, e) := s.grantLease line tile (s.ctx ctx).lease
  s.modCluster (clusterOf tile) fun k =>
    { k with
      icache := cacheInsert icacheLines icacheLines (k.icache.filter fun c => decide (s.gtc ≤ c.expiry))
        { line := line, bytes := bytes, grant := s.gtc, expiry := e } }

/-- The address whose word a group lacks: at a repeat prefix whose body it waits for, the body's (R104). -/
def State.fetchAddr (s : State) (g : Gang) (j : Nat) : Dword :=
  let x := g.slice j
  match s.coming g j with
  | .fetch a => a
  | .instr _ _ => if x.wait = .fetch ∧ x.phase = 1 then nextPc x.pc else x.pc

/-- R390: `IFETCH_MISS_FILL` for a group that lacks its word: the line is read at home, a walk is asked for, or the fetch faults. TPC of
a fault is the group's own address, X + 4 with REPC as it stands where a body is fetched again within its repeat (assumption 58). -/
def execIfetchMissFill (s : State) : Out :=
  let c : Cur := ⟨s.subject.unit, s.subject.slot, s.subject.part⟩
  onGang s c.tile c.slot fun g =>
    if !(g.slice c.slice).live || (g.group c.slice).head? != some c.slice || !(s.fetches g c.slice || s.fetchesBody g c.slice) then s
    else
      let a := s.fetchAddr g c.slice
      match s.place c.tile (g.walked.filter fun w => w.slice == c.slice) g.ctx a needX with
      | .zero => s
      | .fault cause => s.fetchFault c g a cause
      | .miss va clear => (s.askWalk g.ctx va clear needX c).put c (g.modSlices (g.group c.slice) fun x =>
          { x with wait := if x.wait = .run then .fetch else x.wait })
      | .at_ loc _ =>
        let s := s.touchAt c.tile g.ctx a needX
        if (cacheHit (s.cluster (clusterOf c.tile)).icache (lineOf loc) s.gtc).isSome then s
        else if isHost loc && s.hostLost then s.fetchFault c g a 0x0F
        else if !s.carries loc || !s.inTurn (lineOf loc) c.tile then s
        else s.fillIcache c.tile g.ctx (lineOf loc)

/-! ## Walks (R303-R308) -/

/-- R307: a translation enters a TLB of `n` entries in place of what it had for the page. -/
def tlbInsert (n : Nat) (x : Xlat) (tlb : List Xlat) : List Xlat :=
  (x :: tlb.filter fun y => !(y.covers x.ctx x.va || x.covers y.ctx y.va)).take n

/-- R307: a walk's translation kept in the TLBs of a tile and its cluster. -/
def State.keepXlat (s : State) (tile : Nat) (x : Xlat) : State :=
  let s := s.modTile tile fun t => { t with tlb := tlbInsert 256 x t.tlb }
  s.modCluster (clusterOf tile) fun k => { k with tlb := tlbInsert 4096 x k.tlb }

/-- R308: a walk's outcome given to one group that waits on it; a translation is kept where the walk ended without fault for the
access that asked for it (R307). -/
def State.deliverWalk (s : State) (w : Walk) (r : WalkResult) (c : Cur) : State :=
  let s := match r with
    | .ok x => (if x.allows w.need then s.keepXlat c.tile x else s).notePage x
    | .fault _ => s
  s.modGang c.tile c.slot fun g =>
    { g with walked := { slice := c.slice, va := w.va, result := r } :: g.walked.filter fun x =>
        !(x.slice == c.slice && x.va / 65536 == w.va / 65536) }

/-- R303: `PAGE_WALK`. -/
def execPageWalk (s : State) : Out :=
  match s.walks[s.subject.unit]? with
  | none => .next s
  | some w =>
    if w.clear || !s.walkRuns s.subject.unit then .next s
    else
      let r := s.walkTable w.ctx w.va
      .next (w.waiters.foldl (fun s c => s.deliverWalk w r c) { s with walks := s.walks.eraseIdx s.subject.unit })

/-- R306: the results of walks that the waiters of a clearing held for its page. -/
def State.dropWalked (s : State) (va : Nat) (c : Cur) : State :=
  s.modGang c.tile c.slot fun g =>
    { g with walked := g.walked.filter fun w => !(w.slice == c.slice && w.va / 65536 == va / 65536) }

/-- R306: the 1,024 lines of a frame written as zero lines; the greatest W. -/
def State.zeroFrame (s : State) (frame : Nat) : State × Nat :=
  let zeros : Sparse Byte := (List.range 64).map fun k => (k, 0)
  (List.range 1024).foldl (fun r k =>
    let (s, w) := r.1.homeWrite (lineOf frame + k) deviceNo zeros true
    (s, max r.2 w)) (s, 0)

/-- R306: the entry that a page's clearing is to change, with the frame; none where the page has no zero hint. -/
def State.hinted (s : State) (ctx va : Nat) : Option (Nat × Nat) :=
  match s.walkTable ctx va, s.leafAt va 4 (s.ctx ctx).root with
  | .ok x, some entry => if x.zh then some (entry, x.pa) else none
  | _, _ => none

/-- R306: the compare-and-exchange that clears ZH in an entry: the time at which it is in force. It comes after the zero lines, whose
greatest W is `after`, and writes nothing where the entry has changed. -/
def State.clearEntry (s : State) (entry : Nat) (old : Dword) (after : Nat) : State × Nat :=
  let newest := max (max s.gtc after) (s.home (lineOf entry)).lastW
  if s.homeDword newest entry = old then
    s.storeAfter deviceNo entry [(s.homeByte newest entry) &&& 0xDF] after
  else (s, newest)

/-- R306: what the clearing of a page does first: its frame's lines, or nothing where the hint has gone. -/
def State.startClear (s : State) (w : Walk) : State × Walk :=
  match s.hinted w.ctx w.va with
  | some (entry, frame) =>
    let old := s.homeDword s.gtc entry
    let (s, v) := s.zeroFrame frame
    (s, { w with from_ := some v, entry := some (entry, old) })
  | none => (s, { w with from_ := some s.gtc, entry := none })

/-- R306: `ZERO_PAGE_CLEAR`: the frame's lines are zeroed; once they are in force the entry is cleared; once that is in force the
page's translations go, and the accesses that wait walk again. -/
def execZeroPageClear (s : State) : Out :=
  match s.walks[s.subject.unit]? with
  | none => .next s
  | some w =>
    let put (r : State × Walk) : Out := .next { r.1 with walks := r.1.walks.set s.subject.unit r.2 }
    if !w.clear || !s.walkRuns s.subject.unit then .next s
    else
      match w.from_ with
      | none => put (s.startClear w)
      | some v =>
        if s.gtc < v then .next s
        else
          match w.entry with
          | some (entry, old) =>
            let (s, v) := s.clearEntry entry old v
            put (s, { w with from_ := some v, entry := none })
          | none =>
            let s := { s with walks := s.walks.eraseIdx s.subject.unit }
            .next (w.waiters.foldl (fun s c => s.dropWalked w.va c) (s.removePage w.ctx (some w.va)))

/-- R306: the clearing of a page of which no translation is held, every home action of it made at once; the time at which it is in
force. -/
def State.clearNow (s : State) (ctx va : Nat) : State × Nat :=
  match s.hinted ctx va with
  | none => (s, 0)
  | some (entry, frame) =>
    let old := s.homeDword s.gtc entry
    let (s, v) := s.zeroFrame frame
    s.clearEntry entry old v

/-! ## Waits (R29, R188-R191) -/

/-- R188: `FENCE_WAIT_COMPLETE`: the wait ends, the acquire action of Table 9.5 is done, and the group issues again. -/
def execFenceWaitComplete (s : State) : Out :=
  let j := s.subject
  onGang s j.unit j.slot fun g =>
    match (g.slice j.part).wait with
    | .fence scope acquire =>
      if g.pos.isSome && s.runs g && s.fenceDone g scope (g.slice j.part).mark then
        let s := if acquire then s.selfInvalidate j.unit else s
        s.setGang j.unit j.slot (g.modSlices (g.group j.part) fun x => { x with wait := .run, phase := x.phase + 1 })
      else s
    | _ => s

/-- The watch of a slice. -/
def Watch.isOf (w : Watch) (tile slot slice : Nat) : Bool :=
  w.launch.isNone && w.tile == tile && w.slot == slot && w.slice == slice

/-- R191, R342: a `wata` completes: its watch goes, its group passes on, the tile is sent a wake message, and the wake is logged. -/
def State.endWata (s : State) (tile slot slice : Nat) (g : Gang) : State :=
  let js := g.group slice
  let s := { s with watches := s.watches.filter fun w => !w.isOf tile slot slice }
  ((s.setGang tile slot (g.advance js)).wakeTile tile).stageGang g 0x04 (1 + sliceMask js * 8)

/-- R190: `WATA_UNPARK`, on a tile that is awake (R342). -/
def execWataUnpark (s : State) : Out :=
  let j := s.subject
  onGang s j.unit j.slot fun g =>
    if (g.slice j.part).wait = .wata ∧ !(s.tile j.unit).asleep ∧
        (s.watches.any fun w => w.isOf j.unit j.slot j.part && w.ended s.gtc) then
      s.endWata j.unit j.slot j.part g
    else s

/-- R190: `WATA_BUDGET_EXPIRY`, on a tile that is awake (R342). -/
def execWataBudgetExpiry (s : State) : Out :=
  let j := s.subject
  onGang s j.unit j.slot fun g =>
    if (g.slice j.part).wait = .wata ∧ !(s.tile j.unit).asleep ∧ ((g.slice j.part).keptEnd.any fun e => decide (e ≤ s.gtc)) then
      s.endWata j.unit j.slot j.part g
    else s

/-- R29: `HANDON_WAIT_RESUME`: an entry has come, or the chain is cut. -/
def execHandonWaitResume (s : State) : Out :=
  let j := s.subject
  onGang s j.unit j.slot fun g =>
    if (g.slice j.part).wait = .handon ∧ (s.incoming g).isSome then
      s.setGang j.unit j.slot (g.modSlices (g.group j.part) fun x => { x with wait := .run })
    else s

end Sys2Proof.Machine
end

