-- ==== Sys2Proof/Machine/Engine.lean ====
section
/-!
DEFINITION. What the engines share (spec/10_isa_engines.md R195-R206): acceptance of a command, the checks of parameter values,
address spaces, faults met while a command runs, status words and completion.
-/

namespace Sys2Proof.Machine

/-! ## Parameters -/

/-- A word, and an address pair, of a parameter block. -/
def Cmd.par (c : Cmd) (k : Nat) : Word := c.params.getD k 0

def Cmd.addr (c : Cmd) (k : Nat) : Dword := c.par (k + 1) ++ c.par k

/-- Bits `lo` to `lo + len - 1` of a word of a parameter block. -/
def Cmd.bits (c : Cmd) (k lo len : Nat) : Nat := ((c.par k).extractLsb' lo len).toNat

/-- A word of a parameter block as a signed number. -/
def Cmd.int (c : Cmd) (k : Nat) : Int := (c.par k).toInt

/-- One check of R200: whether the field fails, and the code that gives. -/
abbrev Check := Bool × Nat

def alignedTo (n : Nat) (a : Dword) : Check := (a.toNat % n != 0, 0x02)

def fails (b : Bool) : Check := (b, 0x03)

/-- A signed word that is no multiple of `n`. -/
def strideOf (n : Nat) (w : Word) : Check := fails (w.toNat % n != 0)

/-- R200: the code of the first failing field, 0 where none fails. -/
def firstCode (cs : List Check) : Nat := ((cs.find? fun c => c.1).map Prod.snd).getD 0

/-- R214: the operand formats. -/
def operandFormat (et : Nat) : Bool := et == 3 || et == 4 || decide (7 ≤ et ∧ et ≤ 10) || decide (32 ≤ et ∧ et ≤ 59)

/-- Bits of an element of a format (R214). -/
def formatBits (et : Nat) : Nat := if et = 3 ∨ et = 4 then 16 else if et = 9 ∨ et = 10 then 4 else 8

/-- Rows of a weight tile (R216). -/
def weightRows (et : Nat) : Nat := if formatBits et = 4 then 256 else 128

/-- Bytes of a row of 128 columns (R216). -/
def weightRowBytes (et : Nat) : Nat := 16 * formatBits et

/-- Table 10.4: the checks of a copy command. -/
def copyChecks (g : Gang) (c : Cmd) : List Check :=
  match c.op with
  | .cpy _ =>
    [fails (decide (c.bits 4 0 6 ≥ g.nv) || decide (c.bits 4 8 6 ≥ g.nv) || c.bits 4 6 2 != 0 || c.bits 4 14 2 != 0 ||
        c.bits 4 16 2 == 3 || c.bits 4 18 2 == 3 || c.bits 4 20 12 != 0),
      fails ((c.par 5).toNat == 0 || decide (4096 < (c.par 5).toNat))]
  | .bcpy =>
    [alignedTo 16 (c.addr 0), alignedTo 16 (c.addr 2),
      fails ((c.par 4).toNat % 16 != 0 || decide ((c.par 4).toNat < 16) || decide (2 ^ 20 < (c.par 4).toNat)),
      fails ((c.par 5).toNat == 0 || decide (65536 < (c.par 5).toNat)), strideOf 16 (c.par 6), strideOf 16 (c.par 7),
      fails (c.bits 8 0 2 == 3 || c.bits 8 2 2 == 3 || c.bits 8 4 28 != 0)]
  | .wcpy =>
    [alignedTo 16 (c.addr 0), alignedTo 16 (c.addr 2), fails (c.bits 4 0 16 == 0 || c.bits 4 16 16 % 16 != 0),
      strideOf 16 (c.par 5), fails (c.bits 6 28 4 != 0), fails (c.bits 7 8 4 == 0 || c.bits 7 12 4 != 0),
      fails (c.bits 8 0 8 == 0 || c.bits 8 8 2 == 3 || c.bits 8 10 2 == 3 || c.bits 8 12 20 != 0)]
  | .mcast =>
    [alignedTo 16 (c.addr 0), ((c.par 2).toNat % 16 != 0, 0x02),
      fails ((c.par 3).toNat % 16 != 0 || decide ((c.par 3).toNat < 16) || decide (262144 < (c.par 3).toNat)),
      fails (c.bits 4 9 1 != 0 || c.bits 4 10 2 == 3 || c.bits 4 12 20 != 0)]
  | .gath =>
    [alignedTo 16 (c.addr 0), alignedTo 4 (c.addr 2), alignedTo 16 (c.addr 4),
      fails ((c.par 6).toNat == 0 || decide (65536 < (c.par 6).toNat)),
      fails (c.bits 7 0 8 == 0 || decide (64 < c.bits 7 0 8) || c.bits 7 8 2 == 3 || c.bits 7 10 2 == 3 || c.bits 7 12 2 == 3 ||
        c.bits 7 14 18 != 0)]
  | .czero =>
    [alignedTo 16 (c.addr 0),
      fails ((c.par 2).toNat % 16 != 0 || decide ((c.par 2).toNat < 16) || decide (2 ^ 31 < (c.par 2).toNat)),
      fails (c.bits 3 0 2 == 3 || c.bits 3 2 30 != 0)]
  | _ => []

/-- Table 10.5: the checks of a matrix command. A scale register of an `mma` is looked at where A is scaled (assumption 64). -/
def matrixChecks (g : Gang) (c : Cmd) : List Check :=
  match c.op with
  | .wld _ =>
    let et := c.bits 3 0 6
    [alignedTo 64 (c.addr 0), fails ((c.par 2).toNat % 64 != 0 || decide ((c.par 2).toNat < weightRowBytes et)),
      fails (!operandFormat et || c.bits 3 7 25 != 0), ((c.par 3).getLsbD 6 && (c.addr 4).toNat % 16 != 0, 0x02)]
  | .mma =>
    let m := c.bits 0 16 6 + 1
    let rows := if formatBits c.et = 16 then 2 * m else m
    [fails (decide (g.nsl < 8) || decide (32 < m) || decide (g.nv < c.bits 0 0 6 + rows) ||
      ((c.par 0).getLsbD 14 && decide (g.nv ≤ c.bits 0 8 6)) || decide (128 < c.bits 0 24 7 + m) ||
      c.bits 0 6 2 != 0 || c.bits 0 15 1 != 0 || c.bits 0 23 1 != 0 || c.bits 0 31 1 != 0)]
  | .mloop =>
    [alignedTo 16 (c.addr 0), strideOf 16 (c.par 2), strideOf 16 (c.par 3), alignedTo 64 (c.addr 4), strideOf 64 (c.par 6),
      strideOf 64 (c.par 7), fails ((c.par 8).toNat == 0 || decide (2 ^ 24 ≤ (c.par 8).toNat)),
      fails (!operandFormat (c.bits 9 0 6) || !operandFormat (c.bits 9 6 6) || c.bits 9 31 1 != 0 ||
        decide (128 < c.bits 9 15 7 + c.bits 9 22 7 + 1)),
      alignedTo 16 (c.addr 10), alignedTo 16 (c.addr 12)]
  | .mrec =>
    [alignedTo 16 (c.addr 0), strideOf 16 (c.par 2), strideOf 16 (c.par 3), alignedTo 16 (c.addr 4), strideOf 16 (c.par 6),
      strideOf 16 (c.par 7), fails ((c.par 8).toNat == 0 || decide (2 ^ 24 ≤ (c.par 8).toNat)),
      fails (!operandFormat (c.bits 9 0 6) || c.bits 9 16 16 != 0)]
  | .accrd => rowChecks
  | .accwr => rowChecks
  | .accz => [fails (c.bits 0 16 16 != 0 || decide (128 < c.bits 0 0 7 + c.bits 0 8 7 + 1))]
  | _ => []
where
  rowChecks : List Check :=
    [alignedTo 16 (c.addr 0), fails ((c.par 2).toNat % 16 != 0 || decide ((c.par 2).toNat < 512)),
      fails (c.bits 3 17 15 != 0 || decide (128 < c.bits 3 0 7 + c.bits 3 8 7 + 1))]

/-- Table 10.9: the checks of a collective's block that come before its communicator's entry is known, and after. -/
def collChecks (c : Cmd) : List Check :=
  [alignedTo 16 (c.addr 2), alignedTo 16 (c.addr 4), fails ((c.par 6).toNat == 0 || decide (2 ^ 31 ≤ (c.par 6).toNat)),
    fails (decide (4 < c.bits 7 0 6) || c.bits 7 6 2 != 0 || decide (2 < c.bits 7 8 2) || decide (1 < c.bits 7 10 2) ||
      c.bits 7 12 20 != 0)]

/-! ## Address spaces (R201) -/

/-- Where an engine's access leads: memory at home, a page that reads as zeros, a byte of the tile's scratchpad, a window, an
accumulator word; or it must wait, has a page to be cleared of its zero hint first (R306), lacks a page, or fails with a code of
Table 10.3. -/
inductive EnginePlace where
  | mem (loc : Nat)
  | zero
  | scratch (off : Nat)
  | window
  | acc (phys : Nat)
  | wait
  | clear
  | missing
  | bad (code : Nat)
  deriving DecidableEq, Repr

/-- R201, R319, R322: an access of `n` bytes in a space. A page-table entry that cannot be read ends it with 0x0A, source or destination
(assumption 69). -/
def State.enginePlace (s : State) (g : Gang) (sup : Bool) (space : Nat) (a : Dword) (n need : Nat) : EnginePlace :=
  match space with
  | 0 =>
    match s.placeNow g.ctx a need with
    | .fault c =>
      if c = 0x04 then .missing
      else if c = 0x0F then .bad (if s.isMapped false a then 0x0A else 0x09)
      else .bad 0x04
    | .miss va _ => if s.clearing g.ctx va then .wait else .clear
    | .zero => .zero
    | .at_ loc _ => if isHost loc && s.hostLost then .bad 0x09 else if s.carries loc then .mem loc else .wait
  | 1 => if g.scratch < a.toNat + n then .bad 0x04 else .scratch (g.scratchBase + a.toNat)
  | _ =>
    let p := (a.extractLsb' 0 48).toNat
    if isTileWindow p then
      if windowPart (p % 0x100000) = .reserved ∨ !(sup || (s.ctx g.ctx).tiles.contains ((p - 0xF00000000000) / 0x100000)) then .bad 0x04
      else .window
    else if isAccWindow p then
      if sup || (s.ctx g.ctx).banks.contains ((accPart p).1 * 2 + (accPart p).2 / 16384) then .acc p else .bad 0x04
    else if !sup then .bad 0x04
    else if isHbm (p + n - 1) then if a.extractLsb' 48 16 = 0 then .mem p else .bad 0x04
    else if isHost p then if s.hostLost then .bad 0x09 else if s.hostUp then .mem p else .wait
    else .bad 0x04

/-- A window address with its generation. -/
def windowAddr (gen : BitVec 16) (tile off : Nat) : Dword :=
  (gen.setWidth 64 <<< 48) + BitVec.ofNat 64 (0xF00000000000 + tile * 0x100000 + off)

/-- The window address of a byte of the tile's scratchpad, with the generation of a gang's allocation (R11). -/
def Gang.scratchAddr (g : Gang) (off : Nat) : Dword := windowAddr (g.spgen.extractLsb' 0 16) g.tile (0x80000 + off)

def bytesOfWord (w : Word) : List Byte := bytesOfNat 4 w.toNat

/-- Bytes as words, lowest first. -/
def wordsOfBytes (bs : List Byte) : List Word :=
  (List.range (bs.length / 4)).map fun k => BitVec.ofNat 32 (natOfBytes ((bs.drop (4 * k)).take 4))

/-- The bytes an engine reads at a place. -/
def State.engineBytes (s : State) (g : Gang) (p : EnginePlace) (a : Dword) (n : Nat) : List Byte :=
  match p with
  | .mem loc => s.homeBytes s.gtc loc n
  | .scratch off => (List.range n).map fun k =>
      if s.reaches (g.scratchAddr (off + k)) then (s.tile g.tile).scratchByte (off + k) else 0
  | .window => (List.range (n / 4)).flatMap fun k => bytesOfWord (s.readWindow (wordAt a k))
  | .acc phys =>
    let (c, i) := accPart phys
    (List.range (n / 4)).flatMap fun k => bytesOfWord ((s.cluster c).accWord (i + k))
  | _ => List.replicate n 0

/-- How a read or write of an engine ends: `clear` names an address whose page is to be cleared of its zero hint first (R306), `missing`
one whose page is not there, with the permission it wants (R202). -/
inductive EngineRes (α : Type) where
  | ok (x : α)
  | wait
  | clear (a : Dword)
  | missing (a : Dword) (need : Nat)
  | bad (code : Nat)
  deriving DecidableEq, Repr

/-- The lines of some bytes. -/
def linesOf (loc n : Nat) : List Nat := (List.range (lineOf (loc + n - 1) - lineOf loc + 1)).map fun k => lineOf loc + k

/-- R203: a command reads a line at home once the W of its gang's earlier stores to it have come. -/
def State.unseen (s : State) (c : Cmd) (line : Nat) : Bool := decide (s.gtc < Sparse.get 0 c.seen line)

/-- Reading bytes that lie in one page and, at home, in one line or more. -/
def State.engineRead1 (s : State) (g : Gang) (c : Cmd) (space : Nat) (a : Dword) (n : Nat) : EngineRes (List Byte) :=
  match s.enginePlace g c.sup space a n needR with
  | .wait => .wait
  | .clear => .clear a
  | .missing => .missing a needR
  | .bad k => .bad k
  | .mem loc =>
    if (linesOf loc n).any (s.unseen c) then .wait
    else if (linesOf loc n).any s.bad.contains then .bad 0x0A
    else .ok (s.homeBytes s.gtc loc n)
  | .window =>
    if (List.range (n / 4)).any fun k => s.windowPending (wordAt a k) then .wait else .ok (s.engineBytes g .window a n)
  | p => .ok (s.engineBytes g p a n)

/-- Reading `n` bytes, at most 512, which may cross one page boundary. -/
def State.engineRead (s : State) (g : Gang) (c : Cmd) (space : Nat) (a : Dword) (n : Nat) : EngineRes (List Byte) :=
  let k := min n (65536 - a.toNat % 65536)
  match s.engineRead1 g c space a k with
  | .ok bs =>
    if k = n then .ok bs
    else
      match s.engineRead1 g c space (a + BitVec.ofNat 64 k) (n - k) with
      | .ok cs => .ok (bs ++ cs)
      | r => r
  | r => r

/-- What a write of an engine gives: the state, the greatest W (0 where there is none), and the 16 B units that were discarded, in
whole or in part (R11, R12). -/
structure Wrote where
  state : State
  w : Nat := 0
  stale : List Dword := []
  deriving DecidableEq, Repr

/-- R233, R323: the requester's number of a command's writes at home: its cluster's engines', or the port's that brought a collective's
data. -/
def Cmd.number (c : Cmd) (g : Gang) : Nat := c.who.getD (engineNo g.tile)

/-- R203: a command as the writer of a unit, for one of its lanes; `pos` tells its line operations apart. -/
def Cmd.writer (c : Cmd) (g : Gang) (lane : Nat) : Writer := ⟨g.tile, g.slot % 32, g.gen, c.op.cls, lane, c.pos⟩

/-- R12: bytes from a window address as 16 B units. -/
def unitsFrom (a : Dword) (bs : List Byte) : List (Dword × List Byte) :=
  (List.range ((bs.length + 15) / 16)).map fun k => (a + BitVec.ofNat 64 (16 * k), (bs.drop (16 * k)).take 16)

/-- R11, R14: one unit of a command written through a window, or held for a tile that holds writes back. -/
def State.windowUnit (by_ : Writer) (r : Wrote) (u : Dword × List Byte) : Wrote :=
  let tile := windowTile u.1
  if r.state.holds tile then
    { r with state := r.state.modTile tile fun t => { t with held := t.held ++ [.write ⟨u.1, u.2, some by_⟩] } }
  else
    let x := r.state.writeUnit u.1 u.2
    { r with state := x.1, stale := if x.2 then r.stale else r.stale ++ [u.1] }

/-- Units written through a window, with the wake message of R342. -/
def State.engineWindow (s : State) (by_ : Writer) (a : Dword) (bs : List Byte) : Wrote :=
  let r := (unitsFrom a bs).foldl (State.windowUnit by_) { state := s }
  { r with state := r.state.wakeTile (windowTile a) }

/-- Writing bytes at a place in one page (R203): a store at home, scratchpad bytes, or words in a window. A zero line stands in the
tile's L1 as one too (R212), and its W in the tile's completion list, before which the tile reads the line no more at home (R235). -/
def State.engineWrite1 (s : State) (g : Gang) (c : Cmd) (lane : Nat) (p : EnginePlace) (a : Dword) (bs : List Byte)
    (zero : Bool) : Wrote :=
  match p with
  | .mem loc =>
    let (s, w) := s.storeHome (c.number g) loc bs zero
    let s := if zero then
        s.modTile g.tile fun t =>
          ({ t with l1 := patchL1 t.l1 (lineOf loc) (bs.mapIdx fun k b => (k, b)) true } : Tile).listCompletion (lineOf loc) w
      else s
    { state := s, w := w }
  | .scratch off => s.engineWindow (c.writer g lane) (g.scratchAddr off) bs
  | .window => s.engineWindow (c.writer g lane) a bs
  | .acc phys =>
    let (k, i) := accPart phys
    { state := s.modCluster k fun k => ((wordsOfBytes bs).mapIdx fun j w => (i + j, w)).foldl (fun k x => k.setAcc x.1 x.2) k }
  | _ => { state := s }

/-- R233: whether the engine's turn at the lines of a place has come. -/
def State.engineTurn (s : State) (g : Gang) (c : Cmd) (p : EnginePlace) (n : Nat) : Bool :=
  match p with
  | .mem loc => (linesOf loc n).all fun l => s.inTurn l (c.number g)
  | _ => true

/-- Where a write of `n` bytes goes, or why it cannot be made now. -/
def State.engineReady (s : State) (g : Gang) (c : Cmd) (space : Nat) (a : Dword) (n : Nat) : EngineRes EnginePlace :=
  match s.enginePlace g c.sup space a n needW with
  | .wait => .wait
  | .clear => .clear a
  | .missing => .missing a needW
  | .bad k => .bad k
  | p => if s.engineTurn g c p n then .ok p else .wait

/-- R11: discarded units counted in DROP. -/
def State.countDrops (s : State) (units : List Dword) : State :=
  units.foldl (fun s a => s.modTile (windowTile a) Tile.discard) s

/-- What was discarded counted. -/
def Wrote.counted (x : Wrote) : Wrote := { x with state := x.state.countDrops x.stale }

def EngineRes.bind {α β : Type} (r : EngineRes α) (f : α → EngineRes β) : EngineRes β :=
  match r with
  | .ok x => f x
  | .wait => .wait
  | .clear a => .clear a
  | .missing a need => .missing a need
  | .bad k => .bad k

/-- One unit written, or why it cannot be; what was discarded is not yet counted. `zero` says that it makes a zero line (R231). -/
def State.engineUnit (s : State) (g : Gang) (c : Cmd) (lane space : Nat) (a : Dword) (bs : List Byte) (zero : Bool := false) :
    EngineRes Wrote :=
  (s.engineReady g c space a bs.length).bind fun p =>
    .ok ((if space = 0 then s.notePageAt g.ctx a else s).engineWrite1 g c lane p a bs zero)

/-- One unit written, or why it cannot be. -/
def State.engineWriteIn (s : State) (g : Gang) (c : Cmd) (space : Nat) (a : Dword) (bs : List Byte) : EngineRes Wrote :=
  (s.engineUnit g c 0 space a bs).bind fun x => .ok x.counted

/-- A row written, which may cross one page boundary. -/
def State.engineWrite (s : State) (g : Gang) (c : Cmd) (space : Nat) (a : Dword) (bs : List Byte) : EngineRes Wrote :=
  let k := min bs.length (65536 - a.toNat % 65536)
  if k = bs.length then s.engineWriteIn g c space a bs
  else
    let b := a + BitVec.ofNat 64 k
    (s.engineReady g c space b (bs.length - k)).bind fun _ =>
      (s.engineWriteIn g c space a (bs.take k)).bind fun x =>
        (x.state.engineWriteIn g c space b (bs.drop k)).bind fun y =>
          .ok { y with w := max x.w y.w, stale := x.stale ++ y.stale }

/-! ## Acceptance (R196-R200) -/

/-- The register a command reports in: whether it is a vector register, and its number. -/
def Cmd.statusKey (c : Cmd) : Bool × Nat := (match c.op with | .cpy _ => true | _ => false, c.status)

/-- R196: a status register that is still pending from an earlier command. The result of an `mstat` in its window is no such status
(assumption 70). -/
def Gang.statusPending (g : Gang) (c : Cmd) : Bool := g.queues.any fun q => q.any fun x => x.statusKey == c.statusKey

/-- R196: the vector registers a command reads at issue. The second scale register of an `mma` holds the scales of elements beyond 128,
which only a step of 4-bit activations takes (R217). -/
def Cmd.vecReads (c : Cmd) : List Nat :=
  match c.op with
  | .cpy _ => [c.bits 4 0 6, c.bits 4 8 6]
  | .mma =>
    let m := c.bits 0 16 6 + 1
    (List.range (if formatBits c.et = 16 then 2 * m else m)).map (fun k => c.bits 0 0 6 + k) ++
      (if !(c.par 0).getLsbD 14 then [] else if formatBits c.et = 4 then [c.bits 0 8 6, c.bits 0 8 6 + 1] else [c.bits 0 8 6])
  | _ => []

/-- R199: an engine fault of a marked vector register that a command reads in some of the lanes. -/
def Gang.vecFault? (g : Gang) (regs lanes : List Nat) : Option (Gang × TrapInfo) :=
  (regs.find? fun n => lanes.any fun i => g.markV.contains (n * 32 + i)).map fun n =>
    let marked := (List.range 32).filter fun i => g.markV.contains (n * 32 + i)
    let low := marked.headD 0
    ({ g with markV := g.markV.filter fun k => k / 32 != n },
      { cause := 0x10, tval := (g.vreg n low).setWidth 64, mask := maskOf marked, slice := low / 4 })

/-- R282: the aligned window of 64 fc that a time lies in: FMUL is the multiple of 25 MHz (Table 1.3). -/
def Cluster.window (c : Cluster) (now : Nat) : Nat := now * (c.cclk.toNat % 256) / 2560

/-- R282: the counts of the window that a time lies in. -/
def Cluster.rolled (c : Cluster) (now : Nat) : Cluster :=
  let w := c.window now
  if w = c.mtxWin then c else { c with mtxPrev := if w = c.mtxWin + 1 then c.mtxNow else 0, mtxNow := 0, mtxWin := w }

/-- R282: whether the slew limit of the cluster holds back another matrix command. -/
def Cluster.limited (c : Cluster) : Bool := c.slew != 0 && decide (c.mtxPrev + c.slew ≤ c.mtxNow)

/-- A command put at the end of its queue, its status register awaited (R196-R198). -/
def Gang.enqueueCmd (g : Gang) (js : List Nat) (n : Nat) (c : Cmd) : Gang :=
  let dests : List Dest := match c.op with
    | .cpy _ => c.lanes.map fun i => .vreg (c.status * 32 + i)
    | _ => [.sreg c.status]
  let h := g.open js n dests [] false none
  Gang.decideHeads { h with
    pend := g.pend ++ (h.pend.drop g.pend.length).map fun p => { p with engine := true }
    queues := g.queues.modify c.op.cls fun q => q ++ [{ c with pend := g.nextId }] }

/-- The vector registers of the gang that a command reads at issue. -/
def Cmd.operands (c : Cmd) (g : Gang) : List Nat := c.vecReads.filter fun r => decide (r < g.nv)

/-- R199: the engine fault of a vector operand that a command meets at issue. -/
def Gang.operandFault? (g : Gang) (j : Nat) (cmd : Cmd) : Option (Gang × TrapInfo) :=
  g.vecFault? (cmd.operands g) (match cmd.op with
    | .mma => List.range 32
    | _ => g.active (g.group j))

/-- R56, R196: whether a command waits at issue for room in its class, for its status register, or for its vector operands. -/
def Gang.acceptWaits (g : Gang) (cmd : Cmd) : Bool :=
  decide (255 ≤ g.count cmd.op.cls) || g.statusPending cmd || (cmd.operands g).any fun r => g.awaited g.liveSlices true r

/-- R56, R196, R282: whether a command waits at issue, be it for the slew limit. -/
def State.acceptHeld (s : State) (g : Gang) (cmd : Cmd) : Bool :=
  g.acceptWaits cmd || (cmd.op.cls == 2 && ((s.cluster (clusterOf g.tile)).rolled s.gtc).limited)

/-- R196: a command at issue: it takes the engine fault of a vector operand, waits, or is accepted. -/
def State.accept (s : State) (c : Cur) (g : Gang) (n : Nat) (cmd : Cmd) : State :=
  let js := g.group c.slice
  match g.operandFault? c.slice cmd with
  | some (g, t) => (s.put c g).trap c t
  | none =>
    if s.acceptHeld g cmd then s.put c (g.waitAt js .issue)
    else
      let s := if cmd.op.cls = 2 then
          s.modCluster (clusterOf g.tile) fun k => let k := k.rolled s.gtc; { k with mtxNow := k.mtxNow + 1 }
        else s
      s.finish c (g.enqueueCmd js n cmd)

/-- The command an instruction gives, as read from its parameter block. -/
def State.newCmd (s : State) (c : Cur) (g : Gang) (op : CmdOp) (len : Nat) (pn : BitVec 3) (p : BitVec 9) (d : BitVec 6) : Cmd :=
  { op := op
    params := (List.range len).map fun k => g.sreg (p.toNat + k)
    status := d.toNat, pend := 0, lanes := g.active (g.group c.slice), pennant := pn.toNat
    et := modeEt (g.slice c.slice).mode, sup := g.sup, accepted := s.gtc
    waits := ((s.tile g.tile).sq.filter fun e => e.ofGang g).map SqEntry.seq, seen := g.recent }

/-- A command whose parameters fail with a code ends in its turn without moving anything (R200). -/
def Cmd.checked (c : Cmd) (code : Nat) : Cmd := if code = 0 then c else { c with code := code, finished := true }

/-! ## Faults while a command runs (R202) -/

/-- The head of a queue. -/
def Gang.head? (g : Gang) (cls : Nat) : Option Cmd := (g.queues.getD cls []).head?

/-- The head of a queue changed. -/
def Gang.modHead (g : Gang) (cls : Nat) (f : Cmd → Cmd) : Gang :=
  { g with queues := g.queues.modify cls fun q => match q with
      | [] => []
      | c :: rest => f c :: rest }

/-- The record an engine posts of a missing page (Table 17.4, kind 4). -/
def Gang.stallRecord (g : Gang) (cls step : Nat) (a : Dword) (need lane : Nat) : FaultRec :=
  { kind := 4, cause := 0x04, tile := g.tile, slot := g.slot % 32, gen := g.gen, cls := cls, addr := a, step := step, need := need
    lane := lane }

/-- Whether the engines work for a gang: its context runs, or is being stopped and still waits for windows (R101, R251), and its
cluster is not relocking (R8). -/
def State.engineRuns (s : State) (g : Gang) : Bool :=
  ((s.ctx g.ctx).st == .running || ((s.ctx g.ctx).st == .stopping && s.windowsLeft g.ctx)) &&
    (s.cluster (clusterOf g.tile)).relock.isNone

/-- R198: a status word: DONE, code and COUNT. -/
def statusWord (code count : Nat) : Word :=
  BitVec.ofNat 32 (2 ^ 31 + (if code = 0 then 0 else 2 ^ 30 + code * 2 ^ 24) + min count 0xFFFFFF)

/-- R202: a code met later in the command's order stands beside an earlier one: a hard one replaces 0x05. -/
def laterCode (old new : Nat) : Nat := if old = 0 ∨ old = 5 then new else old

/-- R314: the W of a unit noted for its page. -/
def Cmd.wrote (c : Cmd) (a : Dword) (w : Nat) : Cmd :=
  let page := tableVa a / 65536
  { c with pages := if w = 0 then c.pages else Sparse.put c.pages page (max w (Sparse.get 0 c.pages page)) }

/-- R203, R314: the greatest W of some bytes written, noted for each page they lie in where they went through the page table. -/
def State.noteWrote (s : State) (c : Cmd) (space : Nat) (a : Dword) (n w : Nat) : Cmd :=
  let c := { c with maxW := max c.maxW w }
  if space = 0 ∧ s.isMapped false a then (c.wrote a w).wrote (a + BitVec.ofNat 64 (n - 1)) w else c

/-- The values a command reports. -/
def Cmd.report (c : Cmd) (word : Word) : List (Dest × Word) :=
  match c.op with
  | .cpy _ =>
    c.lanes.map fun i => (.vreg (c.status * 32 + i),
      match c.copies.find? fun x => x.lane == i with
      | some x => if c.decided = some false then word else statusWord x.code ((x.bytes + 15) / 16)
      | none => word)
  | _ => [(.sreg c.status, word)]

/-- R203, R205: whether units of the head of a queue are still held for a tile. -/
def State.unitsHeld (s : State) (g : Gang) (cls : Nat) : Bool :=
  s.tiles.any fun t => t.2.held.any fun m => match m with
    | .write w => w.by_.any fun x => x.tile == g.tile && x.slot == g.slot % 32 && x.gen == g.gen && x.cls == cls
    | _ => false

/-- R197, R203: the head of a queue completes: its status is written and its counter falls in the same instant, once GTC has come to
the greatest W; the next command is decided. A status for a retired gang is dropped and counted (R113, R205); a gang that has ended counts
as retired while its slot is not yet freed (assumption 70). The wait of a tile that holds writes back is R14's. -/
def State.completeHead (s : State) (tile slot cls : Nat) (word : Cmd → Word) : State :=
  match s.gang? tile slot with
  | none => s
  | some g =>
    match g.head? cls with
    | none => s
    | some c =>
      let beyond := (c.decided == some true && c.finished && decide (c.maxW ≤ s.gtc)) || c.decided == some false
      if !beyond || !s.engineRuns g || s.unitsHeld g cls then s
      else if s.holds tile then s.wakeTile tile
      else
        let w := if c.decided = some false then statusWord 1 0 else word c
        let g' := { g with queues := g.queues.modify cls List.tail }.decideHeads
        if g.ended then
          let s := s.modTile tile Tile.discard
          if slot ≥ 32 ∧ g'.queues.all List.isEmpty then s.dropGang tile slot else s.setGang tile slot g'
        else
          (s.setGang tile slot (g'.modPend c.pend fun p => { p with vals := c.report w, returned := true }).settle).wakeTile tile

end Sys2Proof.Machine
end

