-- ==== Sys2Proof/Machine/Copy.lean ====
section
/-!
DEFINITION. The copy engine: `cpy`, `bcpy`, `wcpy`, `mcast`, `gath`, `czero` (spec/10_isa_engines.md R203-R212), the start of a
line and the completion of a command.
-/

namespace Sys2Proof.Machine

/-! ## Units -/

/-- One unit of a copy: its source, none for zeros, its destinations, each a space and an address, and its bytes. -/
structure CopyUnit where
  src : Option (Nat × Dword)
  dsts : List (Nat × Dword)
  len : Nat
  deriving DecidableEq, Repr

def plus (a : Dword) (n : Int) : Dword := a + BitVec.ofInt 64 n

/-- R208: unit `u` of a `bcpy`. -/
def Cmd.bcpyUnit (c : Cmd) (u : Nat) : CopyUnit :=
  let per := (c.par 4).toNat / 16
  let row := u / per
  let at_ (k : Nat) (stride : Int) : Dword := plus (c.addr k) (row * stride + 16 * (u % per))
  { src := some (c.bits 8 0 2, at_ 0 (c.int 6)), dsts := [(c.bits 8 2 2, at_ 2 (c.int 7))], len := 16 }

/-- R209: unit `u` of a `wcpy`. -/
def Cmd.wcpyUnit (c : Cmd) (u : Nat) : CopyUnit :=
  let g := c.bits 8 0 8
  let kw := c.bits 7 0 4 + 1
  let kh := c.bits 7 4 4 + 1
  let e := u / g
  let y := e / kw % kh
  let x : Int := ((c.par 6).extractLsb' 0 16).toInt + (e / (kw * kh) * c.bits 7 8 4 : Nat) + (e % kw : Nat)
  let src := plus (c.addr 0) (y * c.int 5 + x * c.bits 4 16 16 + 16 * c.bits 7 16 16 + 16 * (u % g))
  { src := if 0 ≤ x ∧ x < c.bits 4 0 16 then some (c.bits 8 8 2, src) else none
    dsts := [(c.bits 8 10 2, plus (c.addr 2) (16 * u))], len := 16 }

/-- R210: unit `u` of an `mcast`; a target that ends before the unit takes no part, its part is told apart elsewhere. -/
def Cmd.mcastUnit (c : Cmd) (u : Nat) : CopyUnit :=
  { src := some (c.bits 4 10 2, plus (c.addr 0) (16 * u))
    dsts := (c.targets.filter fun t => decide (16 * u + 16 ≤ t.room)).map fun t => (2, plus t.addr (16 * u)), len := 16 }

/-- R211: the address of the index that unit `u` of a `gath` needs. -/
def Cmd.gathIndex (c : Cmd) (u : Nat) : Dword := plus (c.addr 2) (4 * (u / c.bits 7 0 8))

/-- R211: unit `u` of a `gath` whose index is known. -/
def Cmd.gathUnit (c : Cmd) (u : Nat) : CopyUnit :=
  let e := c.bits 7 0 8
  let index := (c.index.map Prod.snd).getD 0
  { src := if index = 0xFFFFFFFF then none else some (c.bits 7 10 2, plus (c.addr 0) (index.toNat * (16 * e) + 16 * (u % e)))
    dsts := [(c.bits 7 12 2, plus (c.addr 4) (16 * u))], len := 16 }

/-- R212: a unit of a `czero` from its 16 B unit `u`: a whole line of global memory at once, else 16 bytes. -/
def Cmd.czeroUnit (c : Cmd) (u : Nat) : CopyUnit :=
  let a := plus (c.addr 0) (16 * u)
  let whole := c.bits 3 0 2 == 0 && a.toNat % 64 == 0 && decide (16 * u + 64 ≤ (c.par 2).toNat)
  { src := none, dsts := [(c.bits 3 0 2, a)], len := if whole then 64 else 16 }

/-- 16 B units of a command. -/
def Cmd.units (c : Cmd) : Nat :=
  match c.op with
  | .bcpy => (c.par 4).toNat / 16 * (c.par 5).toNat
  | .wcpy => (c.bits 6 16 12 + 1) * (c.bits 7 4 4 + 1) * (c.bits 7 0 4 + 1) * c.bits 8 0 8
  | .mcast => (c.par 3).toNat / 16
  | .gath => (c.par 6).toNat * c.bits 7 0 8
  | .czero => (c.par 2).toNat / 16
  | _ => 0

/-- The next unit of a command other than `cpy`. -/
def Cmd.nextUnit (c : Cmd) : CopyUnit :=
  match c.op with
  | .bcpy => c.bcpyUnit c.pos
  | .wcpy => c.wcpyUnit c.pos
  | .mcast => c.mcastUnit c.pos
  | .gath => c.gathUnit c.pos
  | _ => c.czeroUnit c.pos

/-- R211: a `gath` with the index of its next element, which it reads before it writes any of the element. -/
def State.withIndex (s : State) (g : Gang) (c : Cmd) : EngineRes Cmd :=
  let e := c.pos / c.bits 7 0 8
  if c.op ≠ .gath ∨ c.index.map Prod.fst = some e then .ok c
  else
    (s.engineRead g c (c.bits 7 8 2) (c.gathIndex c.pos) 4).bind fun bs =>
      .ok { c with index := some (e, BitVec.ofNat 32 (natOfBytes bs)) }

/-- What an unit's writes have given: the state, the greatest W, bytes written, and the destinations that were stale. -/
structure Copied where
  state : State
  w : Nat := 0
  bytes : Nat := 0
  stale : List Dword := []
  deriving DecidableEq, Repr

/-- A unit written to one more destination. -/
def State.copyTo (g : Gang) (c : Cmd) (lane : Nat) (bs : List Byte) (zero : Bool) (x : Copied) (d : Nat × Dword) : EngineRes Copied :=
  (x.state.engineUnit g c lane d.1 d.2 bs (zero && d.1 == 0)).bind fun y =>
    .ok { state := y.state, w := max x.w y.w, bytes := if y.stale.isEmpty then x.bytes + bs.length else x.bytes
          stale := x.stale ++ y.stale }

/-- R203: one unit, of a lane: its source read, then its destinations written; one that must wait or fails is found before any is
written. What was discarded is not yet counted in DROP. -/
def State.copyUnit (s : State) (g : Gang) (c : Cmd) (lane : Nat) (u : CopyUnit) : EngineRes Copied :=
  let bytes : EngineRes (List Byte) := match u.src with
    | none => .ok (List.replicate u.len 0)
    | some (space, a) => s.engineRead g c space a u.len
  bytes.bind fun bs =>
    let ready : EngineRes Unit := u.dsts.foldl (fun r d => r.bind fun _ =>
      (s.engineReady g c d.1 d.2 bs.length).bind fun _ => .ok ()) (.ok ())
    ready.bind fun _ =>
      u.dsts.foldl (fun r d => r.bind fun x => State.copyTo g c lane bs (u.len == 64) x d) (.ok { state := s })

/-! ## Starting a line (R197) -/

/-- What a queue's turn gives: nothing to start, or the state and the command after it. -/
abbrev Turned := Option (State × Cmd)

/-- The 64 B line of a command's next destination. -/
def CopyUnit.line (u : CopyUnit) : Nat := ((u.dsts.head?).map fun d => d.2.toNat / 64).getD 0

/-- R202: a command that has met a missing page posts its record and stalls. -/
def State.stallCmd (s : State) (g : Gang) (c : Cmd) (a : Dword) (need : Nat) : State × Cmd :=
  (s.post g.ctx (g.stallRecord c.op.cls c.pos a need 0), { c with stall := true })

/-- R306: the page of an address that an engine writes asked to be cleared of its zero hint. -/
def State.clearPage (s : State) (g : Gang) (a : Dword) : State := s.askClear g.ctx (tableVa a) g.tile

/-- A unit done. -/
def Cmd.doneUnit (c : Cmd) (u : CopyUnit) (x : Copied) : Cmd :=
  let pos := c.pos + u.len / 16
  let c := u.dsts.foldl (fun c d => x.state.noteWrote c d.1 d.2 u.len x.w) c
  let short := match c.op with
    | .mcast => c.targets.any fun t => decide (t.room < 16 * c.pos + 16)
    | _ => false
  { c with
    pos := pos, bytes := c.bytes + x.bytes, code := laterCode c.code (if !x.stale.isEmpty || short then 5 else c.code)
    finished := decide (c.units ≤ pos) }

/-- R11: targets of an `mcast` that end before its next unit count it in DROP. -/
def State.dropShort (s : State) (c : Cmd) : State :=
  match c.op with
  | .mcast => (c.targets.filter fun t => decide (t.room < 16 * c.pos + 16)).foldl (fun s t =>
      s.modTile (windowTile t.addr) Tile.discard) s
  | _ => s

/-- The units of one line of a command other than `cpy`, at most `n` more; `line` is none before the first. -/
def State.copyRun (g : Gang) : Nat → Option Nat → State → Cmd → Turned
  | 0, _, s, c => some (s, c)
  | n + 1, line, s, c =>
    if c.finished || c.stall then line.map fun _ => (s, c)
    else
      match s.withIndex g c with
      | .wait => line.map fun _ => (s, c)
      | .clear a => some (s.clearPage g a, c)
      | .missing a need => some (s.stallCmd g c a need)
      | .bad k => some (s, { c with code := laterCode c.code k, finished := true })
      | .ok c =>
        let u := c.nextUnit
        if line.any (fun l => l != u.line) then some (s, c)
        else
          match s.copyUnit g c 0 u with
          | .wait => line.map fun _ => (s, c)
          | .clear a => some (s.clearPage g a, c)
          | .missing a need => some (s.stallCmd g c a need)
          | .bad k => some (s, { c with code := laterCode c.code k, finished := true })
          | .ok x => State.copyRun g n (some u.line) ((x.state.countDrops x.stale).dropShort c) (c.doneUnit u x)

/-! ### `cpy` (R207) -/

/-- Bytes of an element. -/
def Cmd.width (c : Cmd) : Nat :=
  match c.op with
  | .cpy w => w
  | _ => 16

/-- The next unit of a lane. -/
def Cmd.laneUnit (c : Cmd) (l : LaneCopy) : CopyUnit :=
  let off : Int := l.pos * c.width
  { src := some (c.bits 4 16 2, plus l.src off), dsts := [(c.bits 4 18 2, plus l.dst off)], len := c.width }

def LaneCopy.open (l : LaneCopy) : Bool := !l.done && !l.stall

/-- The lanes of a `cpy` with one replaced; the command has ended once all have. -/
def Cmd.putLane (c : Cmd) (l : LaneCopy) : Cmd :=
  let ls := c.copies.map fun x => if x.lane = l.lane then l else x
  { c with copies := ls, finished := ls.all LaneCopy.done }

/-- The units of one line so far: the state and the command after them, whether any was taken, and the 16 B units that were
discarded (R12). -/
structure LineRun where
  state : State
  cmd : Cmd
  taken : Bool := false
  stale : List Dword := []
  deriving DecidableEq, Repr

/-- A lane after one more element of a command of `n` elements. -/
def LaneCopy.step (l : LaneCopy) (n : Nat) (x : Copied) : LaneCopy :=
  { l with
    pos := l.pos + 1, bytes := l.bytes + x.bytes, code := laterCode l.code (if x.stale.isEmpty then l.code else 5)
    done := decide (n ≤ l.pos + 1) }

/-- R207: the next elements of one lane, at most `n`, as long as they lie in the line. -/
def State.laneRun (g : Gang) (line : Nat) : Nat → LineRun → LaneCopy → LineRun
  | 0, r, _ => r
  | n + 1, r, l =>
    let u := r.cmd.laneUnit l
    if !l.open || u.line ≠ line then r
    else
      match r.state.copyUnit g r.cmd l.lane u with
      | .wait => r
      | .clear a => { r with state := r.state.clearPage g a, taken := true }
      | .missing a need =>
        { r with
          state := r.state.post g.ctx (g.stallRecord 0 l.pos a need l.lane), cmd := r.cmd.putLane { l with stall := true }
          taken := true }
      | .bad k => { r with cmd := r.cmd.putLane { l with code := laterCode l.code k, done := true }, taken := true }
      | .ok x =>
        let l := l.step (r.cmd.par 5).toNat x
        let cmd := u.dsts.foldl (fun c d => x.state.noteWrote c d.1 d.2 u.len x.w) r.cmd
        State.laneRun g line n
          { state := x.state, cmd := cmd.putLane l, taken := true, stale := r.stale ++ x.stale.map fun a => a &&& ~~~15 } l

/-- R207: the elements of one line, of whichever lanes have their next one in it; the first line that can start. A 16 B unit of a window
that lanes fill by several elements and that is discarded counts once in DROP (R11, R12). -/
def State.cpyRun (s : State) (g : Gang) (c : Cmd) : Turned :=
  let lines := distinct ((c.copies.filter LaneCopy.open).map fun l => (c.laneUnit l).line)
  lines.findSome? fun line =>
    let r := c.copies.foldl (State.laneRun g line (64 / c.width)) { state := s, cmd := c }
    if r.taken then some (r.state.countDrops r.stale.eraseDups, { r.cmd with pos := c.pos + 1 }) else none

/-! ### The rotation -/

/-- R203: the stores and atomics a copy waits for have returned their W. -/
def State.sourcesReady (s : State) (g : Gang) (c : Cmd) : Bool :=
  c.waits.all fun q => !((s.tile g.tile).sq.any fun e => e.seq == q)

/-- One queue's turn. -/
def State.queueTurn (s : State) (g : Gang) (cls : Nat) : Turned :=
  match g.head? cls with
  | none => none
  | some c =>
    if c.decided ≠ some true ∨ c.finished ∨ !s.engineRuns g ∨ !s.sourcesReady g c then none
    else
      match c.op with
      | .cpy _ => s.cpyRun g c
      | _ => State.copyRun g 4 none s c

/-- The queues of a cluster in the order of R197. -/
def State.copyQueues (s : State) (cluster : Nat) : List (Nat × Nat × Nat) :=
  (List.range 4).flatMap fun j =>
    (s.gangs.filter fun e => e.2.tile == 4 * cluster + j).flatMap fun e => [(e.2.tile, e.2.slot, 0), (e.2.tile, e.2.slot, 1)]

/-- Whether a queue stands after another in the rotation. -/
def after (q : Nat × Nat × Nat) (last : Option (Nat × Nat × Nat)) : Bool :=
  match last with
  | none => true
  | some l => decide (l.1 < q.1) || (l.1 == q.1 && (decide (l.2.1 < q.2.1) || (l.2.1 == q.2.1 && decide (l.2.2 < q.2.2))))

/-- A queue's turn, with the queue. -/
def State.turnOf (s : State) (q : Nat × Nat × Nat) : Option ((Nat × Nat × Nat) × State × Cmd) :=
  (s.gang? q.1 q.2.1).bind fun g => (s.queueTurn g q.2.2).map fun r => (q, r.1, r.2)

/-- R197: `COPY_LINE_START`. -/
def execCopyLineStart (s : State) : Out :=
  let k := s.subject.unit
  let last := (s.cluster k).rot
  let qs := s.copyQueues k
  match ((qs.filter fun q => after q last) ++ qs.filter fun q => !after q last).findSome? s.turnOf with
  | none => .next s
  | some (q, t, c) =>
    .next ((t.modGang q.1 q.2.1 fun g => g.modHead q.2.2 fun _ => c).modCluster k fun x => { x with rot := some q })

/-- R197, R203: `COPY_COMPLETE`. -/
def execCopyComplete (s : State) : Out :=
  .next (s.completeHead s.subject.unit s.subject.slot s.subject.part fun c => statusWord c.code ((c.bytes + 15) / 16))

/-! ## The instructions -/

/-- A copy command other than `cpy` and `mcast`. -/
def copyOp (i : Instr) (op : CmdOp) (len : Nat) (n : BitVec 4) (pn : BitVec 3) (p : BitVec 9) (d : BitVec 6) (s : State) : Out :=
  onGroup i s fun c g =>
    let cmd := s.newCmd c g op len pn p d
    s.accept c g n.toNat (cmd.checked (firstCode (copyChecks g cmd)))

/-- R207: the lanes of a `cpy`, those whose addresses are misaligned ended with 0x02. -/
def Cmd.lanesOf (c : Cmd) (g : Gang) : List LaneCopy :=
  c.lanes.map fun i =>
    let src := c.addr 0 + (g.vreg (c.bits 4 0 6) i).signExtend 64
    let dst := c.addr 2 + (g.vreg (c.bits 4 8 6) i).signExtend 64
    let bad := src.toNat % c.width != 0 || dst.toNat % c.width != 0
    { lane := i, src := src, dst := dst, code := if bad then 2 else 0, done := bad }

/-- R207: `cpy`. -/
def cpyOp (i : Instr) (w : Nat) (n : BitVec 4) (pn : BitVec 3) (p : BitVec 9) (d : BitVec 6) (s : State) : Out :=
  onGroup i s fun c g =>
    let cmd := s.newCmd c g (.cpy w) 6 pn p d
    let code := firstCode (copyChecks g cmd)
    let lanes := cmd.lanesOf g
    s.accept c g n.toNat
      (if code = 0 then { cmd with copies := lanes, finished := lanes.all LaneCopy.done } else cmd.checked code)

/-- R207: `cpy.4`. -/
def execCpy4 (n : BitVec 4) (g : BitVec 3) (p : BitVec 9) (d : BitVec 6) (s : State) : Out := cpyOp (.cpy4 n g p d) 4 n g p d s

/-- R207: `cpy.8`. -/
def execCpy8 (n : BitVec 4) (g : BitVec 3) (p : BitVec 9) (d : BitVec 6) (s : State) : Out := cpyOp (.cpy8 n g p d) 8 n g p d s

/-- R207: `cpy.16`. -/
def execCpy16 (n : BitVec 4) (g : BitVec 3) (p : BitVec 9) (d : BitVec 6) (s : State) : Out := cpyOp (.cpy16 n g p d) 16 n g p d s

/-- R208: `bcpy`. -/
def execBcpy (n : BitVec 4) (g : BitVec 3) (p : BitVec 9) (d : BitVec 6) (s : State) : Out :=
  copyOp (.bcpy n g p d) .bcpy 9 n g p d s

/-- R209: `wcpy`. -/
def execWcpy (n : BitVec 4) (g : BitVec 3) (p : BitVec 9) (d : BitVec 6) (s : State) : Out :=
  copyOp (.wcpy n g p d) .wcpy 9 n g p d s

/-- R211: `gath`. -/
def execGath (n : BitVec 4) (g : BitVec 3) (p : BitVec 9) (d : BitVec 6) (s : State) : Out :=
  copyOp (.gath n g p d) .gath 8 n g p d s

/-- R212: `czero`. -/
def execCzero (n : BitVec 4) (g : BitVec 3) (p : BitVec 9) (d : BitVec 6) (s : State) : Out :=
  copyOp (.czero n g p d) .czero 4 n g p d s

/-! ### `mcast` (R210) -/

/-- Whether a gang flies a banner (R286). -/
def State.flies (s : State) (g : Gang) (b : Nat) : Bool :=
  match g.launch.bind s.launch? with
  | some l => l.members.any fun m => m.gang == g.number && m.banner == b
  | none => false

/-- The live placed member gangs of a banner (R289). -/
def State.memberGangs (s : State) (l : Launch) (launch b : Nat) : List Gang :=
  (s.gangs.map Prod.snd).filter fun g =>
    g.launch == some launch && decide (g.slot < 32) && !g.ended && l.members.any fun m => m.banner == b && m.gang == g.number

/-- R210: where the bytes go: the allocation of each grove with a member, or each member's vector registers. -/
def State.targets (s : State) (c : Cmd) (launch : Nat) (gs : List Gang) : List Target :=
  let off := (c.par 2).toNat
  if c.bits 4 8 1 = 0 then
    (gs.map fun g => (g.tile, g.grove)).eraseDups.filterMap fun x =>
      ((s.tile x.1).allocs.find? fun a => a.launch == launch && a.grove == x.2).map fun a =>
        { addr := windowAddr (BitVec.ofNat 16 a.gen) x.1 (0x80000 + a.base + off), room := a.bytes - off }
  else gs.map fun g => { addr := windowAddr g.gen g.tile (g.slot * 0x2000 + off), room := 0x2000 - off }

/-- R210: `mcast`. -/
def execMcast (n : BitVec 4) (pn : BitVec 3) (p : BitVec 9) (d : BitVec 6) (s : State) : Out :=
  onGroup (.mcast n pn p d) s fun c g =>
    let cmd := s.newCmd c g .mcast 5 pn p d
    let b := cmd.bits 4 0 8
    let launch := g.launch.getD 0
    let gs := match s.launch? launch with
      | some l => s.memberGangs l launch b
      | none => []
    let many := decide (16 < (gs.map Gang.tile).eraseDups.length)
    let code := firstCode (copyChecks g cmd ++ [fails (!s.flies g b || many)])
    s.accept c g n.toNat (if code = 0 then { cmd with targets := s.targets cmd launch gs } else cmd.checked code)

end Sys2Proof.Machine
end

