-- ==== Sys2Proof/Machine/Reply.lean ====
section
/-!
DEFINITION. The host's replies to fault records (spec/17_page.md R313): what each does to the gang, the stalled command or lane that its
record stands for.
-/

namespace Sys2Proof.Machine

/-! ## Replies (R313) -/

/-- The gang a record stands for. -/
def State.gangFor (s : State) (r : FaultRec) : Option Gang := s.gangOf r.tile r.slot r.gen

/-- RESUME at a parked group: `tret` for kind 1, past its `tpark` for kind 2; the wake is logged. -/
def State.unpark (s : State) (g : Gang) (r : FaultRec) : State :=
  if g.ended || (g.slice r.lane).wait != .park then s
  else
    let js := g.group r.lane
    let h := if r.kind = 1 then g.tret false else g.advance js
    (s.setGang g.tile g.slot h).stageGang g 0x04 (2 + sliceMask js * 8)

/-- R215: the head of a gang's matrix queue leaves the reservation table. -/
def State.leaveTable (s : State) (g : Gang) : State :=
  s.modCluster (clusterOf g.tile) fun k => { k with resv := k.resv.filter fun e => !(e.tile == g.tile && e.slot == g.slot) }

/-- The stall of a record's command, or of one lane of a `cpy`, ended: to be tried again, or with code 0x06. -/
def Gang.endStall (g : Gang) (r : FaultRec) (decline : Bool) : Gang :=
  g.modHead r.cls fun c =>
    match c.op with
    | .cpy _ =>
      match c.copies.find? fun l => l.lane == r.lane && l.stall with
      | some l => c.putLane (if decline then { l with stall := false, done := true, code := 6 } else { l with stall := false })
      | none => c
    | _ =>
      if !c.stall then c
      else if decline then { c with stall := false, finished := true, code := laterCode c.code 6 }
      else { c with stall := false }

/-- DECLINE of a stalled command: it completes with 0x06, and posts no pass any more. -/
def State.declineStall (s : State) (g : Gang) (r : FaultRec) : State :=
  (if r.cls = 2 then s.leaveTable g else s).setGang g.tile g.slot (g.endStall r true)

/-- KILL of a stalled queue: its commands are discarded without a status word. -/
def State.dropQueue (s : State) (g : Gang) (cls : Nat) : State :=
  let s := s.killFrames (g.queues.getD cls [])
  let s := if cls = 2 then s.leaveTable g else s
  let s := s.modGang g.tile g.slot fun g => { g with queues := g.queues.set cls [] }
  match s.gang? g.tile g.slot with
  | none => s
  | some g => if decide (32 ≤ g.slot) && g.queues.all List.isEmpty then s.dropGang g.tile g.slot else s

/-- R313: what a reply does to its gang: 1 RESUME, 2 DECLINE, 4 KILL. -/
def State.applyReply (s : State) (code : Nat) (r : FaultRec) : State :=
  match s.gangFor r with
  | none => s
  | some g =>
    if code = 1 then
      if r.kind = 4 then s.setGang g.tile g.slot (g.endStall r false) else s.unpark g r
    else if code = 2 then
      if r.kind = 4 then s.declineStall g r
      else if g.ended then s
      else
        s.killFaulted g r.cause
          { kind := 3, cause := r.cause, tile := r.tile, slot := r.slot, gen := r.gen, addr := r.addr, pc := r.pc, mask := r.mask
            first := g.trap.tcause }
    else
      let s := if r.kind = 4 then s.dropQueue g r.cls else s
      (s.endGrove g).markKilled g.launch

/-- R342: a reply on its way to its gang: a wake message for the tile, and held, with the window writes, while the tile is dormant or
waking. -/
def State.sendReply (s : State) (code : Nat) (r : FaultRec) : State :=
  let s := if (s.gangFor r).isSome then s.wakeTile r.tile else s
  if (s.tile r.tile).asleep then s.modTile r.tile fun t => { t with held := t.held ++ [.reply code r] } else s.applyReply code r

end Sys2Proof.Machine
end

