-- ==== Sys2Proof/Machine/Barrier.lean ====
section
/-!
DEFINITION. Banner barriers (spec/16_barrier.md), sink and lift, the switch of gears, and the drains of held atomics
(spec/19_determinism.md R331-R333).
-/

namespace Sys2Proof.Machine

/-! ## Members -/

/-- A gang's state for a banner, where it flies it. -/
def State.member? (s : State) (g : Gang) (b : Nat) : Option Member :=
  (g.launch.bind s.launch?).bind fun l => l.members.find? fun m => m.gang == g.number && m.banner == b

/-- A gang's state for a banner changed. -/
def State.modMember (s : State) (g : Gang) (b : Nat) (f : Member → Member) : State :=
  s.modLaunchOf g.launch fun l => { l with members := l.members.map fun m => if m.gang = g.number ∧ m.banner = b then f m else m }

/-- R126: a barrier instruction of a gang that is parted or does not fly the banner. -/
def barrCheck (i : Instr) (b : Nat) (s : State) (c : Cur) (g : Gang) : Option TrapInfo :=
  if g.parted || (s.member? g b).isNone then some (g.illegal c i) else none

/-! ## Arriving (R293) -/

/-- The arrive half: a gang that still stands arrived waits for that phase; then the release wait, then the registration, which the
wait half follows where `sync` says so. -/
def State.arriveHalf (s : State) (c : Cur) (g : Gang) (b : Nat) (m : Member) (sync : Bool) : State :=
  let js := g.group c.slice
  if (g.slice c.slice).phase = 0 then
    if m.arrived.isSome then s.put c (g.waitAt js .issue) else s.waitFence c g 2 false
  else s.put c (g.waitPhase js (if sync then 2 else 1) (.arrive b))

/-- R293, R188: the acquire action of a barrier, with the time its phase completed. -/
def State.acquireAt (s : State) (tile t : Nat) : State :=
  let s := s.modTile tile fun x => { x with l1 := invalidateBefore x.l1 t }
  s.modCluster (clusterOf tile) fun k => { k with icache := invalidateBefore k.icache t }

/-- The arrival of a `barr.sync` at an address that has registered and is not done. -/
def Member.syncAt (m : Member) (pc : Dword) : Option Nat := (m.sync.find? fun x => x.1 == pc).map Prod.snd

/-- R300: whether the phase of a registered `barr.sync` has completed and been followed by another arrival of the gang. -/
def Member.passed (m : Member) (pc : Dword) : Bool := (m.syncAt pc).any fun n => n != m.arrivals

/-- A registered `barr.sync` of a gang at an address is done. -/
def Member.synced (m : Member) (pc : Dword) : Member := { m with sync := m.sync.filter fun x => x.1 != pc }

/-- The completion of a phase observed by the barrier instruction at an address. -/
def State.observe (s : State) (g : Gang) (b t : Nat) (pc : Dword) : State :=
  (s.acquireAt g.tile t).modMember g b fun m => { m.synced pc with completed := none }

/-- The wait half of the barrier instruction of a group: it is done, or parks. -/
def State.waitHalf (s : State) (g : Gang) (j b : Nat) (m : Member) : State :=
  let js := g.group j
  let pc := (g.slice j).pc
  if m.passed pc then ((s.acquireAt g.tile s.gtc).modMember g b fun m => m.synced pc).setGang g.tile g.slot (g.advance js)
  else
  match m.completed with
  | some t => (s.observe g b t pc).setGang g.tile g.slot (g.advance js)
  | none =>
    if m.arrived.isNone then (s.modMember g b fun m => m.synced pc).setGang g.tile g.slot (g.advance js)
    else (s.stageGang g 0x03 (3 + sliceMask js * 8)).setGang g.tile g.slot (g.waitAt js (.barrier b))

/-- R339: whether the wait half would park a gang for whose entries the tile has no room. -/
def State.noBarrierRoom (s : State) (g : Gang) (j : Nat) (m : Member) : Bool :=
  !m.passed (g.slice j).pc && m.completed.isNone && m.arrived.isSome && !s.logRoom g.tile g.ctx 2

/-- R293: `barr.arrive`. -/
def execBarrArrive (b : BitVec 8) (s : State) : Out :=
  onGroupIf (.barrArrive b) s (barrCheck (.barrArrive b) b.toNat s) fun c g =>
    match s.member? g b.toNat with
    | none => s
    | some m => s.arriveHalf c g b.toNat m false

/-- R293: `barr.wait`. -/
def execBarrWait (b : BitVec 8) (s : State) : Out :=
  onGroupIf (.barrWait b) s (barrCheck (.barrWait b) b.toNat s) fun c g =>
    match s.member? g b.toNat with
    | none => s
    | some m => if s.noBarrierRoom g c.slice m then s.logFull c g else s.waitHalf g c.slice b.toNat m

/-- R293: `barr.sync`; room for its entries is there before it arrives (R339). One whose arrival has registered, executed again, waits
only (R391). -/
def execBarrSync (b : BitVec 8) (s : State) : Out :=
  onGroupIf (.barrSync b) s (barrCheck (.barrSync b) b.toNat s) fun c g =>
    match s.member? g b.toNat with
    | none => s
    | some m =>
      if (m.syncAt (g.slice c.slice).pc).isSome then
        if s.noBarrierRoom g c.slice m then s.logFull c g else s.waitHalf g c.slice b.toNat m
      else if !s.logRoom g.tile g.ctx 2 then s.logFull c g
      else s.arriveHalf c g b.toNat m true

/-- The first group of a gang in a wait, with what the wait names. -/
def Gang.waiter? (g : Gang) (p : Wait → Option Nat) : Option (Nat × Nat) :=
  g.leaders.findSome? fun i => (p (g.slice i).wait).map fun b => (i, b)

/-- A member's arrival in the open phase of its banner, of parity `q`, by a `barr.arrive` or the `barr.sync` at an address. -/
def Member.arrive (m : Member) (q : Bool) (seq : Nat) (sync : Option Dword) : Member :=
  let n := m.arrivals + 1
  let old := m.sync.filter fun x => some x.1 != sync
  { m with arrived := some q, seq := seq, completed := none, arrivals := n, sync := old ++ (sync.map fun pc => (pc, n)).toList }

/-- R293, Table 16.1: `BARRIER_ARRIVAL_REGISTER`: with it a `barr.arrive` is done, and a `barr.sync` comes to its wait half. -/
def execBarrierArrivalRegister (s : State) : Out :=
  let j := s.subject
  onGang s j.unit j.slot fun g =>
    match g.waiter? fun w => match w with | .arrive b => some b | _ => none, g.launch with
    | some (i, b), some l =>
      let x := g.slice i
      let s := s.modLaunch l fun x' =>
        { x' with banner := Sparse.update x'.banner b fun y => { y with arrived := y.arrived + 1 } }
      let q := (((s.launch? l).bind fun x => Sparse.find? x.banner b).map Banner.parity).getD false
      let s := (s.modMember g b fun m => m.arrive q g.atomSeq (if x.phase = 2 then some x.pc else none)).closePhase l b
      match s.gang? j.unit j.slot, s.member? g b with
      | some g, some m => if x.phase = 2 then s.waitHalf g i b m else s.setGang j.unit j.slot (g.advance (g.group i))
      | _, _ => s
    | _, _ => s

/-- R296: `BARRIER_RELEASE`, on a tile that is awake (R342): the completion is observed, the wake is logged, and the gang goes on. -/
def execBarrierRelease (s : State) : Out :=
  let j := s.subject
  onGang s j.unit j.slot fun g =>
    match if (s.tile j.unit).asleep then none else g.waiter? fun w => match w with | .barrier b => some b | _ => none with
    | none => s
    | some (i, b) =>
      match (s.member? g b).bind Member.completed with
      | none => s
      | some t =>
        let js := g.group i
        ((s.observe g b t (g.slice i).pc).setGang j.unit j.slot (g.advance js)).stageGang g 0x04 (3 + sliceMask js * 8)

/-! ## Sink and lift (R297, R298) -/

/-- Whether a banner of a gang's launch lets early arrivals sink. -/
def State.sinkBanner (s : State) (g : Gang) (b : Nat) : Bool :=
  match (g.launch.bind s.launch?).bind fun l => Sparse.find? l.banner b with
  | some x => x.sink
  | none => false

/-- R297: whether every group of a gang is parked or waits on a SINK banner. -/
def State.sinkable (s : State) (g : Gang) : Bool :=
  g.leaders.all fun i => match (g.slice i).wait with
    | .wata => true
    | .park => true
    | .barrier b => s.sinkBanner g b
    | _ => false

/-- R297: whether a gang waits on a SINK banner whose phase has not completed. -/
def State.sinkWaits (s : State) (g : Gang) : Bool :=
  g.leaders.any fun i => match (g.slice i).wait with
    | .barrier b => s.sinkBanner g b && ((s.member? g b).map fun m => m.completed.isNone).getD false
    | _ => false

/-- R297: `TILE_SINK`. -/
def execTileSink (s : State) : Out :=
  let t := s.subject.unit
  let x := s.tile t
  let gs := (s.gangsOf t).filter fun g => !g.ended
  match x.holder with
  | none => .next s
  | some n =>
    if x.gear && x.switching.isNone && !(s.ctx n).capped && gs.any s.sinkWaits && gs.all s.sinkable then
      .next (s.modTile t fun x => { x with sunk := true, switching := some (false, 2, 0) })
    else .next s

/-- R298: whether every live member that has not arrived stands on a tile in gear 0. -/
def State.liftDue (s : State) (l : Launch) (b : Nat) : Bool :=
  (l.members.filter fun m => m.banner == b && m.arrived.isNone).all fun m =>
    match l.placed.find? fun v => v.index == m.gang / l.ng with
    | some v => !(s.tile v.tile).gear && (s.tile v.tile).switching.isNone
    | none => false

/-- R298: `BANNER_LIFT`, of a running context's launch. -/
def execBannerLift (s : State) : Out :=
  let n := s.subject.unit
  let b := s.subject.slot
  match s.launch? n with
  | none => .next s
  | some l =>
    match Sparse.find? l.banner b with
    | none => .next s
    | some x =>
      if x.lifted || (s.ctx l.ctx).st != .running || !s.liftDue l b then .next s
      else
        .next ((s.modLaunch n fun l => { l with banner := Sparse.update l.banner b fun x => { x with lifted := true } }).liftBanner l b)

/-! ## The switch of gears (R115, R116) -/

/-- Whether a tile's issued lane operations have all committed: spills and refills are done; what is awaited from memory and
engines goes on (R116). -/
def State.lanesDrained (s : State) (tile : Nat) : Bool :=
  (s.gangsOf tile).all fun g => g.slices.all fun x => x.wait != .spill && x.wait != .refill

/-- Whether two held writes are parts of one 16 B unit of one line operation of a `cpy` (R12). -/
def WindowWrite.sameUnit (a b : WindowWrite) : Bool :=
  match a.by_, b.by_ with
  | some x, some y =>
    decide ({ x with lane := y.lane } = y) && (x.lane != y.lane || decide (a.data.length < 16)) && a.addr.toNat / 16 == b.addr.toNat / 16
  | _, _ => false

/-- R11, R202: a command's unit of `n` bytes that was counted as written when it was held turns out stale. -/
def State.unwritten (s : State) (w : Writer) (n : Nat) : State :=
  match s.gangOf w.tile w.slot w.gen with
  | none => s
  | some g =>
    s.setGang w.tile g.slot (g.modHead w.cls fun c =>
      { c with
        bytes := c.bytes - n, code := if c.code = 0 then 5 else c.code
        copies := c.copies.map fun l =>
          if l.lane = w.lane then { l with bytes := l.bytes - n, code := if l.code = 0 then 5 else l.code } else l })

/-- R14: one held write applied; the second part lists those discarded before it. -/
def State.applyWrite (tile : Nat) (r : State × List WindowWrite) (w : WindowWrite) : State × List WindowWrite :=
  let (s, kept) := r.1.writeUnit w.addr w.data
  if kept then (s, r.2)
  else
    let s := if r.2.any fun l => l.sameUnit w then s else s.modTile tile Tile.discard
    (match w.by_ with | some x => s.unwritten x w.data.length | none => s, w :: r.2)

/-- R250: the gangs of a context that stand on a tile ended. -/
def State.endGangsOn (s : State) (ctx tile : Nat) : State :=
  ((s.gangsOf tile).filter fun g => g.ctx == ctx).foldl (fun s g => s.endGang g.tile g.slot) s

/-- R14, R342: one message held for a tile taken. -/
def State.applyMsg (tile : Nat) (r : State × List WindowWrite) : TileMsg → State × List WindowWrite
  | .write w => State.applyWrite tile r w
  | .reply code x => (r.1.applyReply code x, r.2)
  | .kill ctx => (r.1.endGangsOn ctx tile, r.2)

/-- R14, R342: what is held for a tile taken in its order of arrival. -/
def State.applyHeld (s : State) (tile : Nat) : State :=
  ((s.tile tile).held.foldl (State.applyMsg tile) (s.modTile tile fun t => { t with held := [] }, [])).1

/-- R116: results that came while a tile switched its gear written. -/
def State.settleTile (s : State) (tile : Nat) : State :=
  (s.gangsOf tile).foldl (fun s g => s.settleGang g.tile g.slot) s

/-- R115: `GEAR_SWITCH_COMPLETE`: the gear changes, the change is logged, results that came and writes that were held are applied, and
a lift or a request that came meanwhile begins its own switch. -/
def execGearSwitchComplete (s : State) : Out :=
  let t := s.subject.unit
  let x := s.tile t
  match x.switching with
  | none => .next s
  | some (want, cause, slot) =>
    let ctx := x.holder.getD 0
    if !s.lanesDrained t || !s.tileRoom t ctx || (s.cluster (clusterOf t)).relock.isSome then .next s
    else
      let s := ((s.modTile t fun x => { x with gear := want, switching := none }).settleTile t).applyHeld t
      let s := s.modTile t fun x => x.settleGear (s.ctx ctx).capped
      .next (s.stageTile t ctx 0x0A ((if want then 1 else 0) + 2 * cause + 16 * (if cause = 1 then slot else 0)))

/-! ## Drains (R331-R333) -/

/-- R331: whether an entry comes before another. -/
def Held.before (a b : Held) : Bool :=
  if a.grove ≠ b.grove then decide (a.grove < b.grove)
  else if a.gang ≠ b.gang then decide (a.gang < b.gang)
  else if a.lane ≠ b.lane then decide (a.lane < b.lane)
  else decide (a.seq < b.seq)

/-- An entry put into its place in ascending order, behind those of equal key. -/
def insertHeld (x : Nat × Held) : List (Nat × Held) → List (Nat × Held)
  | [] => [x]
  | y :: ys => if x.2.before y.2 then x :: y :: ys else y :: insertHeld x ys

def sortHeld (xs : List (Nat × Held)) : List (Nat × Held) := xs.foldl (fun r x => insertHeld x r) []

/-- R331: one entry applied at its home; its W noted. -/
def applyEntry (r : State × List Nat) (x : Nat × Held) : State × List Nat :=
  let (s, _, w) := r.1.performAtomic x.1 x.2.loc x.2.op x.2.x x.2.y
  (s, r.2 ++ [w])

/-- Table 19.4, kind 0x07: the entry of one tile's part of a drain. -/
def State.stageDrain (s : State) (d : Drain) (tile : Nat) : State :=
  let mine := d.entries.filter fun e => e.1 == tile
  match mine with
  | [] => s
  | e :: _ =>
    let ctx := (s.tile tile).holder.getD 0
    let low := mine.foldl (fun m x => min m x.2.grove) e.2.grove
    s.stageTile tile ctx 0x07 (mine.length + d.point * 2 ^ 13 + (if d.point = 1 then d.banner else 0) * 2 ^ 16 + low * 2 ^ 24)

def Drain.tiles (d : Drain) : List Nat := distinct (d.entries.map Prod.fst)

/-- R331: the W of an entry taken up by its gang, if it still lives, and its launch. -/
def State.takeUp (s : State) (x : (Nat × Held) × Nat) : State :=
  let s := s.modGang x.1.1 x.1.2.slot fun g =>
    if g.gen = x.1.2.gen ∧ !g.ended then { g with horizon := max g.horizon x.2 } else g
  s.modLaunch x.1.2.launch fun l => { l with horizon := max l.horizon x.2 }

/-- R127: the groups on `flush` for whose atomics no drain is under way any more go on. -/
def State.endFlushes (s : State) : State :=
  { s with gangs := s.gangs.map fun e => (e.1, e.2.mapSlices fun _ x =>
      if x.wait = .drain ∧ x.phase = 1 ∧ !s.flushing e.2 x.mark.2 then { x with wait := .run, phase := 2 } else x) }

/-- R333: the groups of a tile whose atomics wait for room go on. -/
def Gang.roomMade (g : Gang) : Gang :=
  g.mapSlices fun _ x => if x.wait = .drain ∧ x.phase = 0 then { x with wait := .run } else x

/-- The launches whose banners the end of a drain may let complete. -/
def Drain.launches (d : Drain) : List Nat := distinct ((if d.point = 1 then [d.launch] else []) ++ d.entries.map fun e => e.2.launch)

/-- R332: what the end of a drain lets go on: the groups on `flush`, the atomics that wait for room, and the phases of banners. -/
def State.endDrain (s : State) (d : Drain) : State :=
  let s := s.endFlushes
  let s := if d.point = 5 then (s.gangsOf d.tile).foldl (fun s g => s.modGang g.tile g.slot Gang.roomMade) s else s
  let s := if d.point = 1 then
      s.modLaunch d.launch fun l => { l with banner := Sparse.update l.banner d.banner fun x => { x with draining := false } }
    else s
  d.launches.foldl State.closePhases s

/-- R334: flush points that fall together: a `flush` or a barrier's drain before a grove's, that before a launch's. -/
def Drain.rank (d : Drain) : Nat := if d.point = 3 then 1 else if d.point = 4 then 2 else 0

/-- R334: whether a drain may be applied: the flush points that come before it in one instant, of whatever launch, are known once that
is over, and their drains have been applied. -/
def State.firstDrain (s : State) (i : Nat) : Bool :=
  match s.drains[i]? with
  | none => true
  | some d =>
    (d.rank == 0 || decide (d.at_ < s.gtc)) && s.drains.all fun x =>
      x.applied.isSome || decide (d.rank ≤ x.rank) || (x.at_ != d.at_ && x.launch != d.launch)

/-- R331: `DET_DRAIN`: the entries are applied in key order, and once GTC has come to the greatest W the drain is done. -/
def execDetDrain (s : State) : Out :=
  match s.drains[s.subject.unit]? with
  | none => .next s
  | some d =>
    match d.applied with
    | none =>
      if (d.tiles.any fun t => !s.tileRoom t ((s.tile t).holder.getD 0)) || !s.firstDrain s.subject.unit ||
          d.entries.any (fun e => !s.inTurn (lineOf e.2.loc) e.1) then .next s
      else
        let es := sortHeld d.entries
        let (t, ws) := es.foldl applyEntry (s, [])
        let d := { d with entries := es, ws := ws, applied := some (ws.foldl max 0) }
        let t := d.tiles.foldl (fun s x => s.stageDrain d x) t
        .next { t with drains := t.drains.set s.subject.unit d }
    | some w =>
      if s.gtc < w then .next s
      else
        let t := (d.entries.zip d.ws).foldl State.takeUp { s with drains := s.drains.eraseIdx s.subject.unit }
        .next (t.endDrain d)

end Sys2Proof.Machine
end

