-- ==== Sys2Proof/Machine/Matrix.lean ====
section
/-!
DEFINITION. The matrix engine: block arithmetic (R82-R84), operands, the commands of R216-R221, the reservation table and its
rounds (R215), progress words (Table 10.8).
-/

namespace Sys2Proof.Machine

/-! ## Blocks (R82, R83) -/

/-- The products of a block so far: whether one was NaN, or an infinity of either sign, and the exact sum of the others. -/
structure BlockSum where
  nan : Bool := false
  pinf : Bool := false
  ninf : Bool := false
  sum : Num.Dy := ⟨0, 0⟩
  deriving DecidableEq, Repr

def BlockSum.add (t : BlockSum) (a b : Num.Fv) : BlockSum :=
  if a.isNan || b.isNan then { t with nan := true }
  else
    match Num.mulExact a b with
    | none => { t with nan := true }
    | some (.inf true) => { t with ninf := true }
    | some (.inf false) => { t with pinf := true }
    | some v => { t with sum := t.sum.add v.dy }

/-- R82: the exact value of a scale, 1 where the operand carries none; none for the NaN code. -/
def scaleValue (code : Option Nat) : Option Num.Dy :=
  match code with
  | none => some ⟨1, 0⟩
  | some c => if c = 0xFF then none else some (Num.element 60 c).dy

/-- The matrix engine rounds to nearest even and flushes nothing (R84). -/
def matrixEnv : Num.Env := ⟨.rne, false, false⟩

/-- R82, R83: the block's FP32 value under its two scales. -/
def BlockSum.word (t : BlockSum) (sa sb : Option Nat) : Word :=
  match scaleValue sa, scaleValue sb with
  | some x, some y =>
    let m := x.mul y
    if t.nan || (t.pinf && t.ninf) then Num.canonicalNan
    else if t.pinf || t.ninf then if m.m = 0 then Num.canonicalNan else Num.infWord t.ninf
    else
      let v := t.sum.mul m
      if v.m = 0 then 0 else (Num.round32 matrixEnv (v.m < 0) v.m.natAbs v.e).w
  | _, _ => Num.canonicalNan

/-- R82: an accumulator after one more block. -/
def addBlock (acc blk : Word) : Word := (Num.addV matrixEnv (Num.val acc) (Num.val blk)).w

/-- R82: an accumulator after the blocks of `k` elements; `a` and `b` give the elements, `sa` and `sb` the scales of a block. -/
def dotBlocks (k : Nat) (a b : Nat → Num.Fv) (sa sb : Nat → Option Nat) (acc : Word) : Word :=
  (List.range ((k + 31) / 32)).foldl (fun acc n =>
    let block : BlockSum := (List.range (min 32 (k - 32 * n))).foldl (fun (t : BlockSum) j => t.add (a (32 * n + j)) (b (32 * n + j))) {}
    addBlock acc (block.word (sa n) (sb n))) acc

/-! ## Operands -/

/-- R66: the elements packed in bytes, lowest first. -/
def unpack (et : Nat) (bs : List Byte) : List Nat :=
  match formatBits et with
  | 16 => (List.range (bs.length / 2)).map fun k => natOfBytes ((bs.drop (2 * k)).take 2)
  | 4 => bs.flatMap fun b => [b.toNat % 16, b.toNat / 16]
  | _ => bs.map BitVec.toNat

/-- A row of elements of one format as values. -/
def rowValue (et : Nat) (row : List Nat) (k : Nat) : Num.Fv := Num.element et (row.getD k 0)

/-- A weight tile: its format, rows, and scale bytes, empty where it is not scaled. -/
structure WeightTile where
  et : Nat
  rows : List (List Nat)
  scales : List Nat
  deriving DecidableEq, Repr

def WeightTile.value (t : WeightTile) (k n : Nat) : Num.Fv := Num.element t.et ((t.rows.getD k []).getD n 0)

def WeightTile.scale (t : WeightTile) (block n : Nat) : Option Nat :=
  if t.scales.isEmpty then none else some (t.scales.getD (block * 128 + n) 0)

/-- Activations of one step: format, rows, scale bytes row by row, empty where they are not scaled. -/
structure Activations where
  et : Nat
  rows : List (List Nat)
  scales : List (List Nat)
  deriving DecidableEq, Repr

def Activations.scale (x : Activations) (m block : Nat) : Option Nat :=
  if x.scales.isEmpty then none else some ((x.scales.getD m []).getD block 0)

/-- R214: elements of the K dimension that a step takes. -/
def stepK (a w : Nat) : Nat := if formatBits a = 4 ∧ formatBits w = 4 then 256 else 128

/-- R82: the 128 words of a row after one step. -/
def stepRow (x : Activations) (t : WeightTile) (m : Nat) (acc : List Word) : List Word :=
  let k := stepK x.et t.et
  (List.range 128).map fun n =>
    dotBlocks k (rowValue x.et (x.rows.getD m [])) (fun j => t.value j n) (x.scale m) (fun b => t.scale b n) (acc.getD n 0)

/-! ## Accumulator rows -/

def Cluster.accRow (c : Cluster) (bank row : Nat) : List Word :=
  (List.range 128).map fun n => c.accWord (bank * 16384 + row * 128 + n)

def Cluster.setAccRow (c : Cluster) (bank row : Nat) (ws : List Word) : Cluster :=
  (ws.mapIdx fun n w => (bank * 16384 + row * 128 + n, w)).foldl (fun c x => c.setAcc x.1 x.2) c

def isNanWord (w : Word) : Bool := (Num.val w).isNan
def isInfWord (w : Word) : Bool := (Num.val w).isInf

/-! ## Progress words (Table 10.8) -/

/-- The code of a command in the progress word, 0 for one that uses no bank. -/
def CmdOp.code : CmdOp → Nat
  | .mma => 1
  | .mloop => 2
  | .mrec => 3
  | .accrd => 4
  | .accwr => 5
  | .accz => 6
  | _ => 0

/-- The banks a matrix command uses. -/
def Cmd.banks (c : Cmd) : List Nat :=
  match c.op with
  | .mma => [c.bits 0 22 1]
  | .mloop => [c.bits 9 14 1]
  | .mrec => [0, 1]
  | .accrd => [c.bits 3 15 1]
  | .accwr => [c.bits 3 15 1]
  | .accz => [c.bits 0 15 1]
  | _ => []

/-- Steps of a command: T of a loop, one of `mma`, none of the others. -/
def Cmd.steps (c : Cmd) : Nat :=
  match c.op with
  | .mma => 1
  | .mloop => (c.par 8).toNat
  | .mrec => (c.par 8).toNat
  | _ => 0

/-- Steps completed (Table 10.2). -/
def Cmd.stepsDone (c : Cmd) : Nat := min c.pos c.steps

/-- The progress word after a pass, its NAN and INF kept (ACT is formed when the word is read). -/
def progressWord (old : Dword) (c : Cmd) (slot tile : Nat) : Dword :=
  (old &&& 0x0C00000000000000) |||
    BitVec.ofNat 64 (c.op.code * 2 ^ 60 + (if c.stall then 2 ^ 57 else 0) + slot % 32 * 2 ^ 52 + tile % 4 * 2 ^ 50 +
      c.steps % 2 ^ 24 * 2 ^ 24 + c.stepsDone % 2 ^ 24)

/-- The progress words of a command's banks after a pass. -/
def Cluster.noteProgress (k : Cluster) (c : Cmd) (slot tile : Nat) : Cluster :=
  { k with prog := k.prog.mapIdx fun b w => if c.banks.contains b then progressWord w c slot tile else w }

/-- NAN and INF set for values written into a bank. -/
def Cluster.noteValues (k : Cluster) (banks : List Nat) (nan inf : Bool) : Cluster :=
  { k with prog := k.prog.mapIdx fun b w =>
      if banks.contains b then
        w ||| (if nan then 0x0800000000000000 else 0) ||| (if inf then 0x0400000000000000 else 0)
      else w }

/-! ## Reading operands -/

/-- What a step gives: the state and the command after it. -/
abbrev Stepped := EngineRes (State × Cmd)

/-- Reads in order, the first that fails deciding. -/
def readAll (f : Nat → EngineRes (List Byte)) (n : Nat) : EngineRes (List (List Byte)) :=
  (List.range n).foldl (fun r k => r.bind fun xs => (f k).bind fun x => .ok (xs ++ [x])) (.ok [])

/-- Rows of a weight tile read from memory. -/
def State.readWeights (s : State) (g : Gang) (c : Cmd) (space : Nat) (base : Dword) (stride et rows : Nat)
    (scales : Option Dword) : EngineRes WeightTile :=
  (readAll (fun k => s.engineRead g c space (base + BitVec.ofNat 64 (k * stride)) (weightRowBytes et)) rows).bind fun bss =>
    match scales with
    | none => .ok { et := et, rows := bss.map (unpack et), scales := [] }
    | some a =>
      (readAll (fun k => s.engineRead g c space (a + BitVec.ofNat 64 (128 * k)) 128) (rows / 32)).bind fun ss =>
        .ok { et := et, rows := bss.map (unpack et), scales := ss.flatMap fun bs => bs.map BitVec.toNat }

/-- The weight tile of a gang's binding, from the latches where they hold it, else reloaded into them (R216). -/
def State.boundWeights (s : State) (g : Gang) (c : Cmd) : EngineRes (State × WeightTile) :=
  match g.binding with
  | none => .bad 0x07
  | some b =>
    let k := clusterOf g.tile
    let mine (l : Latch) : Bool :=
      l.ctx == g.ctx && l.binding == b && (!b.scratch || (l.tile == g.tile && l.sbase == g.scratchBase))
    match (s.cluster k).latch with
    | some l => if mine l then .ok (s, { et := b.format, rows := l.rows, scales := l.scales }) else load b k
    | none => load b k
where
  load (b : Binding) (k : Nat) : EngineRes (State × WeightTile) :=
    (s.readWeights g c (if b.scratch then 1 else 0) b.base b.stride.toNat b.format (weightRows b.format)
      (if b.scaled then some b.scale else none)).bind fun t =>
        let l : Latch :=
          { ctx := g.ctx, binding := b, tile := g.tile, sbase := g.scratchBase, rows := t.rows, scales := t.scales }
        .ok (s.modCluster k fun x => { x with latch := some l }, t)

/-! ## Steps -/

/-- Rows `row0` to `row0 + m - 1` of a bank after one step. -/
def Cluster.stepRows (k : Cluster) (x : Activations) (t : WeightTile) (bank row0 m : Nat) : Cluster :=
  let rows := (List.range m).map fun i => (row0 + i, stepRow x t i (k.accRow bank (row0 + i)))
  let ws := rows.flatMap Prod.snd
  (rows.foldl (fun k r => k.setAccRow bank r.1 r.2) k).noteValues [bank] (ws.any isNanWord) (ws.any isInfWord)

/-- Table 10.6: element `e` of row `m` of the vector operands, taken at issue register by register, 32 words each. -/
def fragment (et : Nat) (data : List Word) (m e : Nat) : Nat :=
  let word (reg lane : Nat) : Nat := (data.getD (reg * 32 + lane) 0).toNat
  match formatBits et with
  | 16 => word (2 * m + e / 64) (e % 64 / 2) / 2 ^ (16 * (e % 2)) % 2 ^ 16
  | 4 => word m (e / 8) / 2 ^ (4 * (e % 8)) % 16
  | _ => word m (e / 4) / 2 ^ (8 * (e % 4)) % 256

/-- R217: the activations of an `mma`. -/
def Cmd.fragments (c : Cmd) (k : Nat) : Activations :=
  let m := c.bits 0 16 6 + 1
  let regs := if formatBits c.et = 16 then 2 * m else m
  let scaleByte (i block : Nat) : Nat :=
    (c.data.getD ((regs + block / 4) * 32 + i) 0).toNat / 2 ^ (8 * (block % 4)) % 256
  { et := c.et
    rows := (List.range m).map fun i => (List.range k).map fun e => fragment c.et c.data i e
    scales := if (c.par 0).getLsbD 14 then (List.range m).map fun i => (List.range (k / 32)).map (scaleByte i) else [] }

/-- R217: `mma`. -/
def State.stepMma (s : State) (g : Gang) (c : Cmd) : Stepped :=
  (s.boundWeights g c).bind fun (s, t) =>
    let k := stepK c.et t.et
    if k = 256 ∧ (c.par 0).getLsbD 14 ∧ g.nv ≤ c.bits 0 8 6 + 1 then .bad 0x03
    else
      .ok (s.modCluster (clusterOf g.tile) fun x => x.stepRows (c.fragments k) t (c.bits 0 22 1) (c.bits 0 24 7) (c.bits 0 16 6 + 1),
        { c with pos := 1, finished := true })

/-- R218: step `t` of an `mloop`. -/
def State.stepLoop (s : State) (g : Gang) (c : Cmd) : Stepped :=
  let t := c.pos
  let aet := c.bits 9 0 6
  let wet := c.bits 9 6 6
  let m := c.bits 9 22 7 + 1
  let k := stepK aet wet
  let aspace := c.bits 9 29 1
  let wspace := c.bits 9 30 1
  let abase := c.addr 0 + BitVec.ofInt 64 (t * c.int 2)
  let wbase := c.addr 4 + BitVec.ofInt 64 (t * c.int 6)
  (readAll (fun i => s.engineRead g c aspace (abase + BitVec.ofNat 64 (i * (c.par 3).toNat)) (k * formatBits aet / 8)) m).bind fun rows =>
    (if (c.par 9).getLsbD 12 then
      readAll (fun i => s.engineRead g c aspace (c.addr 10 + BitVec.ofNat 64 ((t * m + i) * (k / 32))) (k / 32)) m
     else .ok []).bind fun scales =>
      (s.readWeights g c wspace wbase (c.par 7).toNat wet k
        (if (c.par 9).getLsbD 13 then some (c.addr 12 + BitVec.ofNat 64 (t * 128 * (k / 32))) else none)).bind fun w =>
          let x : Activations := { et := aet, rows := rows.map (unpack aet), scales := scales.map fun bs => bs.map BitVec.toNat }
          let s := s.modCluster (clusterOf g.tile) fun k =>
            { k.stepRows x w (c.bits 9 14 1) (c.bits 9 15 7) m with latch := none }
          .ok (s, { c with pos := t + 1, finished := decide (c.steps ≤ t + 1) })

/-- R79: a value narrowed to FP16 or BF16 under RNE. -/
def narrow16 (f : Num.Ieee) (v : Num.Fv) : Nat × Num.Flags :=
  match v with
  | .nan _ => (f.nanCode, 0)
  | .inf n => (f.infCode n, 0)
  | .fin n m e => f.round .rne false n m e

/-- R219: an FP32 value quantised to an activation format: its code, and whether that overflowed. -/
def quantise (et : Nat) (w : Word) : Nat × Bool :=
  let v := Num.val w
  let r : Nat × Num.Flags :=
    if et = 4 ∨ et = 3 then narrow16 (if et = 4 then Num.ieee16 else Num.ieeeBf) v
    else Num.narrow ⟨.rne, false, true⟩ et v
  let beyond := if Num.etIntBits et |>.isSome then r.2 &&& Num.nv != 0 else r.2 &&& Num.ovf != 0
  (r.1, beyond || !v.isFinite)

/-- R219: what is left of a value after its quantisation. -/
def residual (et code : Nat) (w : Word) : Word :=
  let v := Num.val w
  let a := Num.element et code
  if v.isFinite && a.isFinite then Num.rne32 (v.dy.sub a.dy) false else 0

/-- FP32 words of 512 bytes. -/
def rowWords (bs : List Byte) : List Word := wordsOfBytes bs

/-- Rows written to memory or scratchpad one after another; the greatest W, and what was stale (R202). -/
def State.writeRows (s : State) (g : Gang) (c : Cmd) (space : Nat) (rows : List (Dword × List Word)) : EngineRes (State × Cmd) :=
  rows.foldl (fun r x => r.bind fun (s, c) =>
    (s.engineWrite g c space x.1 (x.2.flatMap bytesOfWord)).bind fun y =>
      let c := y.state.noteWrote c space x.1 512 y.w
      .ok (y.state, { c with code := laterCode c.code (if y.stale.isEmpty then c.code else 5) })) (.ok (s, c))

/-- R219: one step of an `mrec`. -/
def State.stepRec (s : State) (g : Gang) (c : Cmd) : Stepped :=
  let t := c.pos
  let et := c.bits 9 0 6
  let m := c.bits 9 8 7 + 1
  let res := (c.par 9).getLsbD 6
  let space := c.bits 9 15 1
  (s.boundWeights g c).bind fun (s, w) =>
    (readAll (fun i => s.engineRead g c space (c.addr 0 + BitVec.ofInt 64 (t * c.int 2 + i * (c.par 3).toNat)) 512) m).bind fun us =>
      let k := s.cluster (clusterOf g.tile)
      let v (i : Nat) : List Word :=
        if res then (k.accRow 0 i).zipWith (fun h r => (Num.addV matrixEnv (Num.val h) (Num.val r)).w) (k.accRow 1 i) else k.accRow 0 i
      let vs := (List.range m).map v
      let qs := vs.map fun row => row.map (quantise et)
      let as := qs.map fun row => row.map Prod.fst
      let step (i : Nat) : List Word :=
        (List.range 128).map fun n =>
          dotBlocks 128 (rowValue et (as.getD i [])) (fun j => w.value j n) (fun _ => none) (fun b => w.scale b n)
            ((rowWords (us.getD i [])).getD n 0)
      let hs := (List.range m).map step
      let rr := (vs.zip as).map fun x => x.1.zipWith (fun w a => residual et a w) x.2
      let k := (hs.mapIdx fun i h => (i, h)).foldl (fun k x => k.setAccRow 0 x.1 x.2) k
      let k := if res then (rr.mapIdx fun i r => (i, r)).foldl (fun k x => k.setAccRow 1 x.1 x.2) k else k
      let inf := qs.any (fun row => row.any Prod.snd) || hs.any fun h => h.any isInfWord
      let k := k.noteValues [0, 1] (hs.any fun h => h.any isNanWord) inf
      let rows := hs.mapIdx fun i h => (c.addr 4 + BitVec.ofInt 64 (t * c.int 6 + i * (c.par 7).toNat), h)
      (if (c.par 9).getLsbD 7 then s.writeRows g c space rows else .ok (s, c)).bind fun (s, c) =>
        .ok (s.setCluster (clusterOf g.tile) k, { c with pos := t + 1, finished := decide (c.steps ≤ t + 1) })

/-- R220: the next row of an `accrd`, `accwr` or `accz`. -/
def State.stepRowCmd (s : State) (g : Gang) (c : Cmd) : Stepped :=
  let k := clusterOf g.tile
  let at_ := if c.op = .accz then 0 else 3
  let row := c.bits at_ 0 7 + c.pos
  let bank := c.bits at_ 15 1
  let next : Cmd → Cmd := fun c => { c with pos := c.pos + 1, finished := decide (c.bits at_ 8 7 + 1 ≤ c.pos + 1) }
  let addr := c.addr 0 + BitVec.ofNat 64 (c.pos * (c.par 2).toNat)
  match c.op with
  | .accz => .ok (s.modCluster k fun x => x.setAccRow bank row (List.replicate 128 0), next c)
  | .accwr =>
    (s.engineRead g c (c.bits 3 16 1) addr 512).bind fun bs =>
      .ok (s.modCluster k fun x => x.setAccRow bank row (rowWords bs), next c)
  | _ => (s.writeRows g c (c.bits 3 16 1) [(addr, (s.cluster k).accRow bank row)]).bind fun (s, c) => .ok (s, next c)

/-- R216: a whole `wld`. -/
def State.stepWld (s : State) (g : Gang) (c : Cmd) (scratch : Bool) : Stepped :=
  let b : Binding :=
    { scratch := scratch, base := c.addr 0, stride := c.par 2, format := c.bits 3 0 6, scaled := (c.par 3).getLsbD 6
      scale := if (c.par 3).getLsbD 6 then c.addr 4 else 0 }
  let g' : Gang := { g with binding := some b }
  let s := s.modCluster (clusterOf g.tile) fun k => { k with latch := none }
  (s.boundWeights g' c).bind fun (s, _) =>
    .ok (s.modGang g.tile g.slot fun g => { g with binding := some b }, { c with pos := 1, finished := true })

/-- One step of a matrix command. -/
def State.matrixStep (s : State) (g : Gang) (c : Cmd) : Stepped :=
  match c.op with
  | .wld scratch => s.stepWld g c scratch
  | .mma => s.stepMma g c
  | .mloop => s.stepLoop g c
  | .mrec => s.stepRec g c
  | _ => s.stepRowCmd g c

/-- Steps of a pass, at most `n` more; whether one was made, or the command came to an end or a stall. -/
def State.matrixRun (g : Gang) : Nat → State → Cmd → Bool → State × Cmd × Bool
  | 0, s, c, made => (s, c, made)
  | n + 1, s, c, made =>
    if c.finished then (s, c, made)
    else
      match s.matrixStep g c with
      | .ok (s, c) => State.matrixRun g n s c true
      | .wait => (s, c, made)
      | .clear a => (s.askClear g.ctx (tableVa a) g.tile, c, true)
      | .bad k => (s, { c with code := laterCode c.code k, finished := true }, true)
      | .missing a need => (s.post g.ctx (g.stallRecord 2 c.pos a need 0), { c with stall := true }, true)

/-- Steps in one pass (R215). -/
def Cmd.passSteps (c : Cmd) : Nat :=
  match c.op with
  | .mloop => 64
  | .mrec => 64
  | _ => 128

/-! ## The reservation table (R215) -/

/-- Entries of the table. -/
def resvEntries : Nat := 16

/-- R215: `MTX_RESERVATION_POST`. -/
def execMtxReservationPost (s : State) : Out :=
  let j := s.subject
  onGang s j.unit j.slot fun g =>
    let k := clusterOf g.tile
    match g.head? 2 with
    | none => s
    | some c =>
      if c.decided ≠ some true ∨ c.finished ∨ !s.engineRuns g ∨ resvEntries ≤ (s.cluster k).resv.length ∨
          (s.cluster k).resv.any (fun e => e.tile == g.tile && e.slot == g.slot) then s
      else
        let e : Resv := { tile := g.tile, slot := g.slot, pri := s.priOf g, age := s.gtc }
        s.modCluster k fun x => { x with resv := x.resv ++ [e] }

/-- R215: whether an entry comes before another in a round. -/
def Resv.before (a b : Resv) : Bool :=
  if a.pri ≠ b.pri then decide (b.pri < a.pri)
  else if a.age ≠ b.age then decide (a.age < b.age)
  else if a.tile ≠ b.tile then decide (a.tile < b.tile)
  else decide (a.slot < b.slot)

/-- Whether the engine can grant an entry a pass now. -/
def State.grantable (s : State) (e : Resv) : Bool :=
  match s.gang? e.tile e.slot with
  | none => false
  | some g =>
    s.engineRuns g && match g.head? 2 with
      | some c => !c.stall && !c.finished
      | none => false

/-- R215: the entry that gets the next pass, and whether that begins a round. -/
def State.nextPass (s : State) (k : Nat) : Option (Resv × Bool) :=
  let es := (s.cluster k).resv.filter s.grantable
  let best (xs : List Resv) : Option Resv :=
    xs.foldl (fun b e => match b with
      | some x => if e.before x then some e else some x
      | none => some e) none
  match best (es.filter fun e => !e.granted) with
  | some e => some (e, false)
  | none => (best es).map fun e => (e, true)

/-- R215: a pass of a gang's head command. -/
def State.matrixPass (s : State) (g : Gang) (c : Cmd) : State × Cmd × Bool :=
  let r := State.matrixRun g c.passSteps s c false
  (r.1.modCluster (clusterOf g.tile) fun k => k.noteProgress r.2.1 g.slot g.tile, r.2)

/-- R215: `MATRIX_PASS_GRANT`. -/
def execMatrixPassGrant (s : State) : Out :=
  let k := s.subject.unit
  match s.nextPass k with
  | none => .next s
  | some (e, fresh) =>
    onGang s e.tile e.slot fun g =>
      match g.head? 2 with
      | none => s
      | some c =>
        let (t, c', made) := s.matrixPass g c
        if !made then s
        else
          (t.modGang e.tile e.slot fun g => g.modHead 2 fun _ => c').modCluster k fun x =>
            { x with resv := (x.resv.filter fun y => !(c'.finished && y.tile == e.tile && y.slot == e.slot)).map fun y =>
                if y.tile = e.tile ∧ y.slot = e.slot then { y with granted := true }
                else if fresh then { y with granted := false } else y }

/-- R197, R222: `MATRIX_PASS_COMPLETE`. -/
def execMatrixPassComplete (s : State) : Out :=
  .next (s.completeHead s.subject.unit s.subject.slot 2 fun c => statusWord c.code c.stepsDone)

/-- R282: `MTX_SLEW_WINDOW`: the counts of a cluster are those of the window that has begun. -/
def execMtxSlewWindow (s : State) : Out :=
  .next (s.modCluster s.subject.unit fun k => k.rolled s.gtc)

/-! ## The instructions -/

/-- R246: whether the context of a gang holds the banks a command names. -/
def State.holdsBanks (s : State) (g : Gang) (c : Cmd) : Bool :=
  c.banks.all fun b => (s.cluster (clusterOf g.tile)).bankHolder.getD b none == some g.ctx

/-- A matrix command other than `mma`. -/
def matrixOp (i : Instr) (op : CmdOp) (len : Nat) (n : BitVec 4) (pn : BitVec 3) (p : BitVec 9) (d : BitVec 6) (s : State) : Out :=
  onGroup i s fun c g =>
    let cmd := s.newCmd c g op len pn p d
    s.accept c g n.toNat (cmd.checked (firstCode (matrixChecks g cmd ++ [(!s.holdsBanks g cmd, 0x04)])))

/-- R216: `wld.s`. -/
def execWldS (n : BitVec 4) (g : BitVec 3) (p : BitVec 9) (d : BitVec 6) (s : State) : Out :=
  matrixOp (.wldS n g p d) (.wld true) 6 n g p d s

/-- R216: `wld.g`. -/
def execWldG (n : BitVec 4) (g : BitVec 3) (p : BitVec 9) (d : BitVec 6) (s : State) : Out :=
  matrixOp (.wldG n g p d) (.wld false) 6 n g p d s

/-- R218: `mloop`. -/
def execMloop (n : BitVec 4) (g : BitVec 3) (p : BitVec 9) (d : BitVec 6) (s : State) : Out :=
  matrixOp (.mloop n g p d) .mloop 14 n g p d s

/-- R219: `mrec`. -/
def execMrec (n : BitVec 4) (g : BitVec 3) (p : BitVec 9) (d : BitVec 6) (s : State) : Out :=
  matrixOp (.mrec n g p d) .mrec 10 n g p d s

/-- R220: `accrd`. -/
def execAccrd (n : BitVec 4) (g : BitVec 3) (p : BitVec 9) (d : BitVec 6) (s : State) : Out :=
  matrixOp (.accrd n g p d) .accrd 4 n g p d s

/-- R220: `accwr`. -/
def execAccwr (n : BitVec 4) (g : BitVec 3) (p : BitVec 9) (d : BitVec 6) (s : State) : Out :=
  matrixOp (.accwr n g p d) .accwr 4 n g p d s

/-- R220: `accz`. -/
def execAccz (n : BitVec 4) (g : BitVec 3) (p : BitVec 9) (d : BitVec 6) (s : State) : Out :=
  matrixOp (.accz n g p d) .accz 1 n g p d s

/-- R217: an ET that is no operand format. -/
def formatCheck (i : Instr) (c : Cur) (g : Gang) : Option TrapInfo :=
  if operandFormat (modeEt (g.slice c.slice).mode) then none else some (g.illegal c i)

/-- R217: `mma`: its vector operands are read at issue in all 32 lanes. -/
def execMma (n : BitVec 4) (pn : BitVec 3) (p : BitVec 9) (d : BitVec 6) (s : State) : Out :=
  onGroupIf (.mma n pn p d) s (formatCheck (.mma n pn p d)) fun c g =>
    let cmd := s.newCmd c g .mma 1 pn p d
    let code := firstCode (matrixChecks g cmd ++ [(!s.holdsBanks g cmd, 0x04)])
    let data := cmd.vecReads.flatMap fun r => (List.range 32).map fun i => g.vreg r i
    s.accept c g n.toNat (if code = 0 then { cmd with data := data } else cmd.checked code)

/-- The gangs of a cluster's tiles. -/
def State.gangsOfCluster (s : State) (k : Nat) : List Gang := (s.gangs.map Prod.snd).filter fun g => clusterOf g.tile == k

/-- Table 10.8, ACT: a command that has been accepted and has neither ended nor been discarded uses the bank. -/
def State.bankActive (s : State) (k bank : Nat) : Bool :=
  (s.gangsOfCluster k).any fun g => (g.queues.getD 2 []).any fun c => c.banks.contains bank && !c.finished && c.decided != some false

/-- Table 10.8, STALL: the head of a queue that uses the bank is stalled, of the tile and slot that the word names. -/
def State.bankStalled (s : State) (k bank : Nat) (w : Dword) : Bool :=
  (s.gangsOfCluster k).any fun g =>
    g.tile % 4 == (w.extractLsb' 50 2).toNat && g.slot % 32 == (w.extractLsb' 52 5).toNat &&
      (g.head? 2).any fun c => c.stall && c.banks.contains bank

/-- Table 10.8: a bank's progress word as it is read: STALL stands while the command does. -/
def State.progress (s : State) (k bank : Nat) : Dword :=
  let w := (s.cluster k).prog.getD bank 0
  (if s.bankStalled k bank w then w else w &&& 0xFDFFFFFFFFFFFFFF) ||| (if s.bankActive k bank then 0x8000000000000000 else 0)

/-- R221: `mstat`. -/
def execMstat (n : BitVec 4) (p : BitVec 9) (d : BitVec 6) (s : State) : Out :=
  onGroup (.mstat n p d) s fun c g =>
    let k := clusterOf g.tile
    let bank := (g.sreg p.toNat).toNat % 2
    let w := s.progress k bank
    let s := if (g.sreg p.toNat).getLsbD 1 then
        s.modCluster k fun x => { x with prog := x.prog.modify bank fun w => w &&& 0xF3FFFFFFFFFFFFFF }
      else s
    let vals : List (Dest × Word) := [(.sreg d.toNat, w.extractLsb' 0 32), (.sreg (d.toNat + 1), w.extractLsb' 32 32)]
    s.finish c (g.open (g.group c.slice) n.toNat (vals.map Prod.fst) vals false none)

end Sys2Proof.Machine
end

