-- ==== Sys2Proof/Machine/Coll.lean ====
section
/-!
DEFINITION. Collectives (spec/10_isa_engines.md R223-R225, spec/18_link.md R327, R328): acceptance with the communicator's entry,
the exchange of parameters, the fixed reduction tree, delivery into the receive buffer.
-/

namespace Sys2Proof.Machine

/-! ## Communicators (R327) -/

/-- A communicator's entry as a command takes it at acceptance. -/
structure Comm where
  id : Dword
  nrLog : Nat
  first : Nat
  count : Nat
  map : Dword
  deriving DecidableEq, Repr

def wordOf (bs : List Byte) (off : Nat) : Word := BitVec.ofNat 32 (natOfBytes ((bs.drop off).take 4))
def dwordOf (bs : List Byte) (off : Nat) : Dword := BitVec.ofNat 64 (natOfBytes ((bs.drop off).take 8))

/-- A rank word of a communicator's map, where it can be read. -/
def State.rankWord (s : State) (ctx : Nat) (map : Dword) (r : Nat) : Option Word :=
  match s.readNow ctx (map + BitVec.ofNat 64 (4 * r)) 4 with
  | .ok bs => some (wordOf bs 0)
  | .error _ => none

/-- R327: the address of entry `n` of a context's table. -/
def State.commAt (s : State) (ctx n : Nat) : Dword := (s.ctx ctx).tbase + BitVec.ofNat 64 (0x1000 + 32 * n)

/-- R327: entry `n` of the context's table; none where it is malformed or cannot be read. -/
def State.comm? (s : State) (ctx n : Nat) : Option Comm :=
  if 256 ≤ n then none
  else
    match s.readNow ctx (s.commAt ctx n) 32 with
    | .error _ => none
    | .ok bs =>
      let shape := wordOf bs 8
      let c : Comm :=
        { id := dwordOf bs 0, nrLog := shape.toNat % 32, first := (wordOf bs 0x0C).toNat, count := (wordOf bs 0x10).toNat
          map := dwordOf bs 0x18 }
      let power := (List.range 17).any fun k => c.count == 2 ^ k
      let here (r : Nat) : Bool := match s.rankWord ctx c.map r with
        | some w => w.toNat % 2 ^ 20 == s.domain * 2 ^ 14 + s.devnum && w.extractLsb' 20 12 == 0
        | none => false
      if shape.getLsbD 8 && shape.extractLsb' 5 3 == 0 && shape.extractLsb' 9 23 == 0 && decide (c.nrLog ≤ 16) &&
          wordOf bs 0x14 == 0 && power && c.first % c.count == 0 && decide (c.first + c.count ≤ 2 ^ c.nrLog) &&
          ((List.range c.count).all fun k => here (c.first + k)) then some c
      else none

/-- Words of a command's data that hold its communicator. -/
def commWords : Nat := 7

def Comm.words (c : Comm) : List Word :=
  [c.id.extractLsb' 0 32, c.id.extractLsb' 32 32, BitVec.ofNat 32 c.nrLog, BitVec.ofNat 32 c.first, BitVec.ofNat 32 c.count,
    c.map.extractLsb' 0 32, c.map.extractLsb' 32 32]

/-- The communicator a command took. -/
def Cmd.comm (c : Cmd) : Comm :=
  let w (k : Nat) : Word := c.data.getD k 0
  { id := w 1 ++ w 0, nrLog := (w 2).toNat, first := (w 3).toNat, count := (w 4).toNat, map := w 6 ++ w 5 }

/-- Kind of a collective: 0 all-reduce, 1 reduce-scatter, 2 all-gather. -/
def Cmd.kind (c : Cmd) : Nat :=
  match c.op with
  | .coll k => k
  | _ => 0

def Cmd.elems (c : Cmd) : Nat := (c.par 6).toNat
def Cmd.elemType (c : Cmd) : Nat := c.bits 7 0 6
def Cmd.elemBytes (c : Cmd) : Nat := if 3 ≤ c.elemType then 2 else 4

/-- R223: elements a rank sends. -/
def sendCount (kind n nrLog : Nat) : Nat := if kind = 1 then n * 2 ^ nrLog else n

/-! ## The reduction tree (R224) -/

/-- A 16-bit element widened exactly. -/
def liftElem (type : Nat) (w : Word) : Word :=
  if type = 3 then Num.word32 (Num.ieeeBf.decode w.toNat)
  else if type = 4 then Num.word32 (Num.ieee16.decode w.toNat)
  else w

/-- The result narrowed to the element's type. -/
def lowerElem (type : Nat) (w : Word) : Word :=
  if type = 3 then BitVec.ofNat 32 (narrow16 Num.ieeeBf (Num.val w)).1
  else if type = 4 then BitVec.ofNat 32 (narrow16 Num.ieee16 (Num.val w)).1
  else w

/-- R224: two partial results combined; a sum of a 16-bit type has them widened, min and max keep the type. -/
def combine (type op : Nat) (x y : Word) : Word :=
  if type = 0 then if op = 0 then x + y else if op = 1 then (if x.slt y then x else y) else if x.slt y then y else x
  else if type = 1 then if op = 0 then x + y else if op = 1 then (if x.ult y then x else y) else if x.ult y then y else x
  else if op = 0 then (Num.addV matrixEnv (Num.val x) (Num.val y)).w
  else lowerElem type (Num.minmaxV (op == 2) (Num.val (liftElem type x)) (Num.val (liftElem type y))).w

/-- R224: `red` over `2^k` values. -/
def reduceTree (type op : Nat) : Nat → List Word → Word
  | 0, xs => xs.headD 0
  | k + 1, xs => combine type op (reduceTree type op k (xs.take (2 ^ k))) (reduceTree type op k (xs.drop (2 ^ k)))

/-- R224: one element of a reduction over the ranks: of one rank, the element itself; 16-bit sums are widened, and narrowed once at the
end. -/
def reduceElem (type op nrLog : Nat) (xs : List Word) : Word :=
  if nrLog ≠ 0 ∧ op = 0 then lowerElem type (reduceTree type op nrLog (xs.map (liftElem type))) else reduceTree type op nrLog xs

/-- R223: what rank `r` receives, from the elements each rank sent. -/
def collResult (kind type op nrLog n r : Nat) (sent : List (List Word)) : List Word :=
  if kind = 2 then sent.flatMap fun xs => xs.take n
  else
    (List.range n).map fun j =>
      reduceElem type op nrLog (sent.map fun xs => xs.getD (if kind = 1 then r * n + j else j) 0)

/-! ## The exchange (R225) -/

/-- The frame with which a command announces itself. -/
def State.announce (s : State) (g : Gang) (c : Cmd) : CollFrame :=
  { id := c.comm.id, nrLog := c.comm.nrLog, rank := c.rank, kind := c.kind, count := c.elems, type := c.elemType
    op := c.bits 7 8 2, round := (c.par 8).toNat
    killed := ((g.launch.bind s.launch?).map Launch.killed).getD false, data := [] }

/-- R325: the devices of other domains that host a rank of a command's communicator. -/
def State.farPeers (s : State) (g : Gang) (c : Cmd) : List Nat :=
  let m := c.comm
  let words := ((List.range (2 ^ m.nrLog)).filterMap fun r => (s.rankWord g.ctx m.map r).map fun w => w.toNat % 2 ^ 20).eraseDups
  words.filter fun w => w / 2 ^ 14 != s.domain

/-- The transport with one peer. -/
def State.peering (s : State) (peer : Nat) : Peering := (s.peerings.find? fun p => p.peer == peer).getD { peer := peer }

def State.modPeering (s : State) (peer : Nat) (f : Peering → Peering) : State :=
  { s with peerings := f (s.peering peer) :: s.peerings.filter fun p => p.peer != peer }

/-- R325: bytes of a frame at most. -/
def frameBytes : Nat := 9216

/-- R325: a numbered frame sent to a peer, to be acknowledged. -/
def State.sendFrame (s : State) (id : Dword) (peer : Nat) : State :=
  { s.modPeering peer fun p => { p with next := p.next + 1 } with
    frames := s.frames ++ [{ peer := peer, number := (s.peering peer).next, first := s.gtc, last := s.gtc, id := id }] }

/-- R325: what a command tells the other ranks sent to each device of another domain: its parameters in one frame, or so many bytes of
elements in as many frames as they fill (assumption 34). -/
def State.sendFrames (s : State) (g : Gang) (c : Cmd) (bytes : Nat) : State :=
  (s.farPeers g c).foldl (fun s p => (List.range (max 1 ((bytes + frameBytes - 1) / frameBytes))).foldl (fun s _ => s.sendFrame c.comm.id p) s) s

/-- R327: whether a collective of this device, or a valid entry of a running context, names a communicator. -/
def State.named (s : State) (id : Dword) : Bool :=
  (s.gangs.any fun e => (e.2.queues.getD 3 []).any fun c => !c.data.isEmpty && c.comm.id == id) ||
    s.ctxs.any fun x => x.2.st == .running && (List.range 256).any fun n => match s.readNow x.1 (s.commAt x.1 n) 32 with
      | .ok bs => (wordOf bs 8).getLsbD 8 && dwordOf bs 0 == id
      | .error _ => false

/-- R327: what rank `k` of a communicator has announced: the first frame with its ID, or else one of that rank whose ID nothing on this
device names, which is then a disagreement (assumption 34). -/
def State.rankFrame (s : State) (id : Dword) (k : Nat) : Option CollFrame :=
  (s.ranks.find? fun f => f.id == id && f.rank == k).orElse fun _ => s.ranks.find? fun f => f.rank == k && !s.named f.id

/-- The frames of the ranks of a communicator that have one, in rank order. -/
def State.rankFrames (s : State) (id : Dword) (nrLog : Nat) : List CollFrame := (List.range (2 ^ nrLog)).filterMap (s.rankFrame id)

/-- R225, R327: whether two ranks agree in what they exchange. -/
def frameAgrees (f x : CollFrame) : Bool :=
  x.id == f.id && x.nrLog == f.nrLog && x.kind == f.kind && x.count == f.count && x.type == f.type && x.op == f.op && x.round == f.round

/-- R225, R327: whether the ranks agree, none of them of a killed launch. -/
def agree (fs : List CollFrame) : Bool :=
  match fs with
  | [] => true
  | f :: rest => !f.killed && rest.all fun x => frameAgrees f x && !x.killed

/-- The first frame of each rank of a communicator taken away. -/
def dropFrames (id : Dword) (nrLog : Nat) (fs : List CollFrame) : List CollFrame :=
  (List.range (2 ^ nrLog)).foldl (fun fs k => fs.eraseP fun f => f.id == id && f.rank == k) fs

/-- The collective commands of this device at the heads of their queues. -/
def State.collHeads (s : State) : List (Gang × Cmd) :=
  (s.gangs.map Prod.snd).filterMap fun g => (g.head? 3).map fun c => (g, c)

/-- The commands of this device that take part with a communicator, its frames announced. -/
def State.parties (s : State) (id : Dword) : List (Gang × Cmd) :=
  s.collHeads.filter fun x => x.2.phase != 0 && decide (x.2.phase < 3) && !x.2.finished && x.2.comm.id == id

/-- Every command that takes part ended with a code, and frames taken away: all, once every rank has one. The devices of other domains
are told of a rank of a killed launch. -/
def State.failColl (s : State) (id : Dword) (fs : List CollFrame) (code : Nat) : State :=
  let ps := s.parties id
  let s := ps.foldl (fun s x => if (s.announce x.1 x.2).killed then s.sendFrames x.1 x.2 0 else s) s
  let s := ps.foldl (fun s x =>
    s.modGang x.1.tile x.1.slot fun g => g.modHead 3 fun c => { c with code := code, finished := true }) s
  { s with ranks := fs.foldl List.erase s.ranks }

/-- Whether a rank's frame holds all its elements. -/
def frameFull (f : CollFrame) : Bool := decide (sendCount f.kind f.count f.nrLog ≤ f.data.length)

/-- R323: the number under which a result is written that needed frames of other devices: the port's by which the last of them came. -/
def cameBy (fs : List CollFrame) : Option Nat := ((fs.filter fun f => f.port != 0).getLast?).map fun f => portNo (f.port - 1)

/-- R224, R328: every rank's result formed, once every rank has sent and every rank this device hosts is here to receive. -/
def State.resolveColl (s : State) (c : Cmd) (fs : List CollFrame) : State :=
  let m := c.comm
  let ps := s.parties m.id
  let full := fs.all frameFull
  let here := (List.range m.count).all fun k => ps.any fun x => x.2.rank == m.first + k && x.2.phase == 2
  if !full || !here then s
  else
    let sent := fs.map CollFrame.data
    let s := ps.foldl (fun s x =>
      s.modGang x.1.tile x.1.slot fun g => g.modHead 3 fun c =>
        { c with
          data := c.data.take commWords ++
            collResult c.kind c.elemType (c.bits 7 8 2) m.nrLog c.elems c.rank sent
          phase := 3, pos := 0, who := cameBy fs }) s
    { s with ranks := dropFrames m.id m.nrLog s.ranks }

/-- Elements of the send buffer read from `c.pos` on, at most `n`. -/
def State.readElems (s : State) (g : Gang) : Nat → Cmd → EngineRes Cmd × Cmd
  | 0, c => (.ok c, c)
  | n + 1, c =>
    match s.engineRead g c (c.bits 7 10 2) (c.addr 2 + BitVec.ofNat 64 (c.pos * c.elemBytes)) c.elemBytes with
    | .ok bs =>
      State.readElems s g n { c with pos := c.pos + 1, data := c.data ++ [BitVec.ofNat 32 (natOfBytes bs)] }
    | .wait => (.wait, c)
    | .clear a => (.clear a, c)
    | .missing a need => (.missing a need, c)
    | .bad k => (.bad k, c)

/-- R225, R325: elements of a rank, and the port they came by, put behind those that the first unfilled frame of it holds. -/
def fillFrame (id : Dword) (rank port : Nat) (data : List Word) : List CollFrame → List CollFrame
  | [] => []
  | f :: fs =>
    if f.id = id ∧ f.rank = rank ∧ !frameFull f then { f with data := f.data ++ data, port := port } :: fs
    else f :: fillFrame id rank port data fs

/-- R225: the ranks agree, so a command's elements are sent. Where a page of them is declined, or a hard code ends the command, its
frame stays without them and the other ranks wait (assumption 71). -/
def State.sendElems (s : State) (g : Gang) (c : Cmd) : State :=
  let n := sendCount c.kind c.elems c.comm.nrLog - c.pos
  let (r, c') := s.readElems g n c
  let put (s : State) (c : Cmd) : State := s.modGang g.tile g.slot fun g => g.modHead 3 fun _ => c
  match r with
  | .ok c =>
    let sent := c.data.drop commWords
    let s := { s with ranks := fillFrame c.comm.id c.rank 0 sent s.ranks }
    put (s.sendFrames g c (sent.length * c.elemBytes)) { c with data := c.data.take commWords, pos := 0, phase := 2 }
  | .missing a need => put (s.post g.ctx (g.stallRecord 3 c'.pos a need 0)) { c' with stall := true }
  | .bad k => put s { c' with code := k, finished := true }
  | _ => put s c'

/-- R225: `COLL_EXCHANGE`. A command announces itself; a rank of a killed launch ends the others as soon as it is known, a disagreement
once every rank has announced itself. -/
def execCollExchange (s : State) : Out :=
  let j := s.subject
  onGang s j.unit j.slot fun g =>
    match g.head? 3 with
    | none => s
    | some c =>
      if c.decided ≠ some true ∨ c.finished ∨ c.stall ∨ !s.engineRuns g then s
      else if c.phase = 0 then
        if s.ranks.any fun f => f.id == c.comm.id && f.rank == c.rank then
          if (s.announce g c).killed then s.modGang g.tile g.slot fun g => g.modHead 3 fun c => { c with phase := 1 } else s
        else
          let t := (s.sendFrames g c 0).modGang g.tile g.slot fun g => g.modHead 3 fun c => { c with phase := 1 }
          { t with ranks := t.ranks ++ [s.announce g c] }
      else
        let fs := s.rankFrames c.comm.id c.comm.nrLog
        let all := decide (fs.length = 2 ^ c.comm.nrLog)
        if fs.any CollFrame.killed || (all && !agree fs) then s.failColl c.comm.id (if all then fs else []) 0x08
        else if !all then s
        else if c.phase = 1 then s.sendElems g c
        else if c.phase = 2 then s.resolveColl c fs
        else s

/-- Elements of the result written from `c.pos` on, unit by unit of 16 bytes, at most `n` units. -/
def State.writeElems (g : Gang) : Nat → State → Cmd → State × Cmd
  | 0, s, c => (s, c)
  | n + 1, s, c =>
    let per := 16 / c.elemBytes
    let all := c.data.drop commWords
    let xs := (all.drop c.pos).take per
    let space := c.bits 7 10 2
    let a := c.addr 4 + BitVec.ofNat 64 (c.pos * c.elemBytes)
    match s.engineWriteIn g c space a (xs.flatMap fun w => bytesOfNat c.elemBytes w.toNat) with
    | .ok x =>
      let c := { c with
        pos := c.pos + xs.length, bytes := c.bytes + c.elemBytes * xs.length
        code := laterCode c.code (if x.stale.isEmpty then c.code else 5)
        finished := decide (all.length ≤ c.pos + xs.length) }
      State.writeElems g n x.state (x.state.noteWrote c space a 16 x.w)
    | .wait => (s, c)
    | .clear b => (s.askClear g.ctx (tableVa b) g.tile, c)
    | .missing b need => (s.post g.ctx (g.stallRecord 3 c.pos b need 0), { c with stall := true })
    | .bad k => (s, { c with code := laterCode c.code k, finished := true })

/-- Whether a collective's rank is hosted by this device. -/
def Cmd.hosted (c : Cmd) : Bool := !c.data.isEmpty && decide (c.comm.first ≤ c.rank ∧ c.rank < c.comm.first + c.comm.count)

/-- R347: the round of a hosted rank's command that completes now, none of its ranks before it. -/
def Cmd.newRound (c : Cmd) (now : Nat) : SlackRound :=
  { comm := (c.par 0).toNat, id := c.comm.id, round := (c.par 8).toNat, hosted := c.comm.count, ranks := [c.rank]
    accepted := c.accepted, first := now, completed := now }

/-- Whether a round bears a command's communicator and number. -/
def SlackRound.named (r : SlackRound) (c : Cmd) : Bool :=
  r.comm == (c.par 0).toNat && r.id == c.comm.id && r.round == (c.par 8).toNat

/-- R347: whether a command belongs to a round in which ranks have completed: it was accepted before any of them did, as every command
of a round is, and its own rank is not among them. A round of that number left half done by a kill is another (assumption 72). -/
def SlackRound.takes (r : SlackRound) (c : Cmd) : Bool := r.named c && decide (c.accepted ≤ r.first) && !r.ranks.contains c.rank

/-- A round with one more command completed. -/
def SlackRound.add (r : SlackRound) (c : Cmd) (now : Nat) : SlackRound :=
  { r with ranks := c.rank :: r.ranks, accepted := max r.accepted c.accepted, completed := now }

/-- R347: the completion of a hosted rank's command noted with its round, be the record enabled or not; a round that nothing watches is
forgotten once every rank has completed. -/
def Slack.note (x : Slack) (c : Cmd) (now : Nat) : Slack :=
  if !c.hosted then x
  else
    let r := match x.open_.find? fun r => r.takes c with
      | some r => r.add c now
      | none => c.newRound now
    let rest := x.open_.filter fun y => y.seen || !y.named c
    { x with open_ := if r.seen && !x.watches r then rest else rest ++ [r] }

/-- R347: the head of a gang's collectives completes; its round is noted with the context's slack record. -/
def State.endColl (s : State) (g : Gang) (c : Cmd) : State :=
  let t := s.completeHead g.tile g.slot 3 fun c => statusWord c.code ((c.bytes + 15) / 16)
  if ((t.gang? g.tile g.slot).map fun h => h.count 3).getD 0 < g.count 3 then
    t.modCtx g.ctx fun x => { x with slack := x.slack.note c s.gtc }
  else t

/-- R225: `COLL_COMPLETE`: the result goes into the receive buffer, and the command completes as R203 has it. -/
def execCollComplete (s : State) : Out :=
  let j := s.subject
  onGang s j.unit j.slot fun g =>
    match g.head? 3 with
    | none => s
    | some c =>
      if c.decided = some true ∧ c.phase = 3 ∧ !c.finished ∧ !c.stall ∧ s.engineRuns g then
        let per := 16 / c.elemBytes
        let n := (c.data.length - commWords - c.pos + per - 1) / per
        let (s, c) := State.writeElems g n s c
        s.modGang g.tile g.slot fun g => g.modHead 3 fun _ => c
      else s.endColl g c

/-! ## The instructions -/

/-- R223, R327: a collective as it is accepted: with its communicator, or ended with the code of what is wrong with it. -/
def State.collCmd (s : State) (g : Gang) (cmd : Cmd) : Cmd :=
  match s.comm? g.ctx (cmd.par 0).toNat with
  | none => cmd.checked 0x08
  | some m =>
    let hosted := decide (m.first ≤ cmd.rank ∧ cmd.rank < m.first + m.count)
    { cmd with data := m.words }.checked (firstCode (fails (!hosted) :: collChecks cmd))

/-- R183: what a read of a communicator's entry waits for: the gang's own stores to it, or its home. -/
def State.entryWait (s : State) (g : Gang) (n : Nat) : Option Wait :=
  match s.placeNow g.ctx (s.commAt g.ctx n) needR with
  | .at_ loc _ =>
    let own := s.ownEntries g ((List.range 32).map fun k => (loc + k, false))
    if !own.isEmpty then some (.own own) else if !s.readable g.tile loc 1 then some (.home loc 1) else none
  | _ => none

/-- R223, R327: a collective at issue. Its entry is read at acceptance as a `.sys` acquire: earlier loads of the gang return first, and
later ones find no line granted before. -/
def collOp (i : Instr) (kind : Nat) (n : BitVec 4) (pn : BitVec 3) (p : BitVec 9) (d : BitVec 6) (s : State) : Out :=
  onGroup i s fun c g =>
    let cmd := s.newCmd c g (.coll kind) 9 pn p d
    let wait (w : Wait) : State := s.put c (g.waitAt (g.group c.slice) w)
    if s.acceptHeld g cmd then wait .issue
    else if (g.slice c.slice).phase = 0 then s.waitFence c g 1 false
    else
      match s.entryWait g (cmd.par 0).toNat with
      | some w => wait w
      | none => (s.selfInvalidate g.tile).accept c g n.toNat (s.collCmd g cmd)

/-- R223: `coll.ar`. -/
def execCollAr (n : BitVec 4) (g : BitVec 3) (p : BitVec 9) (d : BitVec 6) (s : State) : Out :=
  collOp (.collAr n g p d) 0 n g p d s

/-- R223: `coll.rs`. -/
def execCollRs (n : BitVec 4) (g : BitVec 3) (p : BitVec 9) (d : BitVec 6) (s : State) : Out :=
  collOp (.collRs n g p d) 1 n g p d s

/-- R223: `coll.ag`. -/
def execCollAg (n : BitVec 4) (g : BitVec 3) (p : BitVec 9) (d : BitVec 6) (s : State) : Out :=
  collOp (.collAg n g p d) 2 n g p d s

/-! ## Frames and peers (R325) -/

/-- R225: what a rank of another device says: its elements, or some of them, once it has announced itself, or its parameters. -/
def State.hear (s : State) (f : CollFrame) : State :=
  if !f.data.isEmpty && s.ranks.any fun x => x.id == f.id && x.rank == f.rank && !frameFull x then
    { s with ranks := fillFrame f.id f.rank f.port f.data s.ranks }
  else { s with ranks := s.ranks ++ [f] }

/-- Bytes of the elements that a frame carries. -/
def frameDataBytes (f : CollFrame) : Nat := f.data.length * (if 3 ≤ f.type then 2 else 4)

/-- R325: `ETH_FRAME_RECEIVE`: frames of a peer are delivered to the collective engine once each and in the order of their numbers;
any frame acknowledges what it says its sender has received. A link that does not carry traffic loses it, and one that carries more than
a frame holds is none. -/
def execEthFrameReceive (port : Nat) (frame : EthFrame) (s : State) : Out :=
  let l := s.link port
  if l.st ≠ .up ∧ l.st ≠ .degraded then .next s
  else
    let s := { s with frames := s.frames.filter fun f => !(f.peer == frame.peer && decide (f.number < frame.acked)) }
    match frame.body with
    | none => .next s
    | some f =>
      if frame.number ≠ (s.peering frame.peer).heard ∨ frameBytes < frameDataBytes f then .next s
      else .next ((s.modPeering frame.peer fun p => { p with heard := p.heard + 1 }).hear { f with port := port })

/-- R325: `ETH_RETRANSMIT_TIMEOUT`: the frame is sent again. -/
def execEthRetransmitTimeout (index : Nat) (s : State) : Out :=
  .next { s with frames := s.frames.modify index fun f => if f.last + 50000 ≤ s.gtc then { f with last := s.gtc } else f }

/-- Whether a command's communicator names a peer of some kind. -/
def State.needsPeer (s : State) (ctx : Nat) (peer : Nat → Bool) (c : Cmd) : Bool :=
  !c.data.isEmpty && (List.range (2 ^ c.comm.nrLog)).any fun r =>
    match s.rankWord ctx c.comm.map r with
    | some w => peer (w.toNat % 2 ^ 20)
    | none => false

/-- R322, R325: peers are lost: every command that needs one ends with 0x09 in its turn. -/
def State.losePeers (s : State) (peer : Nat → Bool) : State :=
  let hit (g : Gang) (c : Cmd) : Bool := !c.finished && s.needsPeer g.ctx peer c
  let ids := s.collHeads.filterMap fun x => if hit x.1 x.2 then some (x.2.comm.id, x.2.comm.nrLog) else none
  { s with
    gangs := s.gangs.map fun e => (e.1, { e.2 with
      queues := e.2.queues.modify 3 fun q => q.map fun c => if hit e.2 c then { c with code := 0x09, finished := true } else c })
    ranks := ids.eraseDups.foldl (fun fs x => dropFrames x.1 x.2 fs) s.ranks }

/-- R325: `ETH_PEER_LOST`: 100 ms without an acknowledgement of a frame; every command that needs the peer ends with 0x09 in its
turn. -/
def execEthPeerLost (peer : Nat) (s : State) : Out :=
  if !s.frames.any fun f => f.peer == peer && decide (f.first + 100000000 ≤ s.gtc) then .next s
  else .next { s.losePeers (· == peer) with frames := s.frames.filter fun f => f.peer != peer }

/-- R326: `PTP_SYNC`: GTC takes the time of the domain; while a context runs it does not go back (R57). -/
def execPtpSync (gtc : Dword) (s : State) : Out :=
  .next { s with gtc := if s.ctxs.any fun x => x.2.st == .running then max s.gtc gtc.toNat else gtc.toNat }

end Sys2Proof.Machine
end

