-- ==== Sys2Proof/Machine/Remainder.lean ====
section
/-!
DEFINITION. The remainder stack (spec/08_isa_reversible.md R157-R166): entries on chip and in spill blocks, spill, refill, release,
depth. A lane's on-chip part is a list, its top entry first.
-/

namespace Sys2Proof.Machine

/-! ## Tags (Table 8.1) -/

def tagEmpty : Nat := 0x00
def tagFadd : Nat := 0x01
def tagFmul : Nat := 0x02
def tagFma : Nat := 0x03
def tagNarrow : Nat := 0x04
def tagShr : Nat := 0x05
def tagImul : Nat := 0x06
def tagIadd : Nat := 0x07
def tagMax0 : Nat := 0x08
def tagMark : Nat := 0x1E

/-- R157: entries of a lane's on-chip part. -/
def onChip : Nat := 32

/-! ## Spill blocks (R60, R161, Table 8.2) -/

/-- Bytes of a block. -/
def blockBytes : Nat := 2560

/-- The address of block `n`, counted from 1. -/
def Gang.block (g : Gang) (n : Nat) : Dword := g.rsb + BitVec.ofNat 64 ((n - 1) * blockBytes)

/-- The addresses of the word and the tag of entry `e` of a lane in a block. -/
def slotWord (base : Dword) (e lane : Nat) : Dword := base + BitVec.ofNat 64 (e * 128 + lane * 4)
def slotTag (base : Dword) (e lane : Nat) : Dword := base + BitVec.ofNat 64 (0x800 + e * 32 + lane)

/-- R161: the entries of a lane that a spill moves, the oldest first. -/
def spilled (l : List Rem) : List Rem := l.reverse.take 16

/-- R161: what stays on chip. -/
def kept (l : List Rem) : List Rem := l.take (l.length - 16)

/-- Table 8.2: a byte of the block a spill writes. -/
def Gang.blockByte (g : Gang) (o : Nat) : Byte :=
  let entry (e lane : Nat) : Rem := ((spilled (g.remOf lane))[e]?).getD ⟨0, tagEmpty⟩
  if o < 0x800 then (entry (o / 128) (o % 128 / 4)).word.extractLsb' (8 * (o % 4)) 8
  else BitVec.ofNat 8 ((entry ((o - 0x800) / 32) ((o - 0x800) % 32)).tag)

/-- The lines of the block a spill writes. -/
def Gang.spillLines (g : Gang) : List LaneAddr :=
  (List.range (blockBytes / 64)).map fun k => ⟨32, g.block (g.rsdepth + 1) + BitVec.ofNat 64 (64 * k)⟩

/-- R161: whether a group's pushes need a spill first. -/
def Gang.needsSpill (g : Gang) (js : List Nat) : Bool := (g.active js).any fun i => decide (onChip ≤ (g.remOf i).length)

/-- R60: whether the next block would reach RSL. -/
def Gang.areaFull (g : Gang) : Bool := decide (g.rsl.toNat < (g.block (g.rsdepth + 1)).toNat + blockBytes)

/-- R161, R164: before a push: room, or the spill it waits for, or the trap of a full area. -/
def State.withRoom (s : State) (c : Cur) (g : Gang) (k : Unit → State) : State :=
  let js := g.group c.slice
  if !g.needsSpill js then k ()
  else
    if g.areaFull then s.trap c (g.frontTrap c 0x08 (g.block (g.rsdepth + 1)))
    else s.access c g needW (s.placed c g 1 needW g.spillLines) fun s _ => s.put c (g.waitAt js .spill)

/-- R161: a spill made: the block's lines into the store queue, the entries off chip; none where the queue lacks room. RSDEPTH goes on
beyond the 16 bits that Table 3.7 gives it (assumption 68). -/
def State.spill (s : State) (c : Cur) (g : Gang) (xs : List (LaneAddr × Place)) : Option State :=
  let stores := (xs.mapIdx fun k x => match x.2 with
    | .at_ loc _ => [(⟨loc, x.1.addr, (List.range 64).map fun o => g.blockByte (64 * k + o)⟩ : LaneStore)]
    | _ => []).flatten
  (s.storeLines g {} stores).map fun s =>
    s.modGang c.tile c.slot fun g =>
      let g := (List.range 32).foldl (fun g i => g.setRem i (kept (g.remOf i))) g
      { g.modSlices (g.group c.slice) (fun x => { x with wait := .run }) with rsdepth := g.rsdepth + 1 }

/-- R161: `REMAINDER_SPILL`. Where another group's spill has made room, or the area has become too small (R60), the instruction looks
again. -/
def execRemainderSpill (s : State) : Out :=
  let c : Cur := ⟨s.subject.unit, s.subject.slot, s.subject.part⟩
  onGang s c.tile c.slot fun g =>
    if (g.slice c.slice).wait ≠ .spill then s
    else if !g.needsSpill (g.group c.slice) || g.areaFull then s.put c (g.waitAt (g.group c.slice) .run)
    else
      let xs := s.placed c g 1 needW g.spillLines
      if xs.all fun x => match x.2 with | .at_ _ _ => true | _ => false then (s.spill c g xs).getD s
      else s.put c (g.waitAt (g.group c.slice) .run)

/-! ## Reading slots (R162, R164) -/

/-- What keeps a byte of the area from being read or written: a walk, a fault of its address with the permission it needs, or a line
that home may not yet answer, with the wait for it (R235, R241). -/
inductive Snag where
  | miss (va : Nat) (clear : Bool) (need : Nat)
  | fault (cause : Nat) (addr : Dword) (need : Nat)
  | later (w : Wait)
  deriving DecidableEq, Repr

/-- R165: a byte of the spill area, read as the gang's own load would: after its earlier loads of the line (F1). -/
def State.areaByte (s : State) (g : Gang) (j : Nat) (a : Dword) : Except Snag Byte :=
  match s.placeOf g j 1 needR a with
  | .zero => .ok 0
  | .fault cause => .error (.fault cause a needR)
  | .miss va clear => .error (.miss va clear needR)
  | .at_ loc sc =>
    if g.unread (lineOf loc) then .error (.later (.lines [lineOf loc]))
    else
      match s.sourceByte g.tile (cacheable loc sc) loc with
      | some b => .ok b
      | none => if s.readable g.tile loc 1 then .ok (s.homeByte s.gtc loc) else .error (.later (.home loc 1))

/-- R165, R179: a byte of the area that has been read: its line is the most recently used one in L1 (R230), which it enters where it was
read at home. -/
def State.areaFilled (s : State) (g : Gang) (j : Nat) (a : Dword) : State :=
  match s.placeOf g j 1 needR a with
  | .at_ loc sc =>
    if cacheable loc sc && (s.sourceByte g.tile true loc).isNone then s.fillL1 g.tile g.ctx (lineOf loc)
    else s.modTile g.tile fun t => { t with l1 := cacheTouch t.l1 (lineOf loc) }
  | _ => s

/-- R307: the translations of bytes of the area that have been accessed, the last one the most recently used. -/
def State.touchArea (s : State) (g : Gang) (need : Nat) (xs : List Dword) : State :=
  xs.foldl (fun s a => s.touchAt g.tile g.ctx a need) s

/-- The values of a list of actions that may fail, or the first failure. -/
def collect {ε α β : Type} (f : α → Except ε β) : List α → Except ε (List β)
  | [] => .ok []
  | x :: xs =>
    match f x with
    | .error e => .error e
    | .ok y =>
      match collect f xs with
      | .error e => .error e
      | .ok ys => .ok (y :: ys)

/-- The tag of an entry of a slot. -/
def State.tagAt (s : State) (g : Gang) (j n lane e : Nat) : Except Snag Nat :=
  (s.areaByte g j (slotTag (g.block n) e lane)).map fun b => b.toNat % 32

/-- An entry of a slot with its index. -/
def State.entryAt (s : State) (g : Gang) (j n lane e : Nat) : Except Snag (Nat × Rem) :=
  match s.tagAt g j n lane e with
  | .error x => .error x
  | .ok 0 => .ok (e, ⟨0, tagEmpty⟩)
  | .ok tag =>
    (collect (fun k => s.areaByte g j (slotWord (g.block n) e lane + BitVec.ofNat 64 k)) (List.range 4)).map fun bs =>
      (e, ⟨BitVec.ofNat 32 (natOfBytes bs), tag⟩)

/-- The non-empty entries of a lane's slot in block `n`, oldest first. -/
def State.slotEntries (s : State) (g : Gang) (j lane n : Nat) : Except Snag (List (Nat × Rem)) :=
  (collect (s.entryAt g j n lane) (List.range 16)).map fun es => es.filter fun e => e.2.tag != tagEmpty

/-- R162: the highest of blocks `n` to 1 whose slot for the lane holds an entry. -/
def State.topSlot (s : State) (g : Gang) (j lane : Nat) : Nat → Except Snag (Option (Nat × List (Nat × Rem)))
  | 0 => .ok none
  | n + 1 =>
    match s.slotEntries g j lane (n + 1) with
    | .error e => .error e
    | .ok [] => s.topSlot g j lane n
    | .ok es => .ok (some (n + 1, es))

/-- What a refill brings to the lanes: lane, block, entries. -/
abbrev RefillPlan := List (Nat × Nat × List (Nat × Rem))

/-- R162: what a refill brings to the lanes. -/
def State.refillPlan (s : State) (g : Gang) (j : Nat) (lanes : List Nat) : Except Snag RefillPlan :=
  (collect (fun i => (s.topSlot g j i g.rsdepth).map fun o => o.map fun x => (i, x.1, x.2)) lanes).map fun l => l.filterMap id

/-- Active lanes whose on-chip part is empty. -/
def Gang.dryLanes (g : Gang) (js : List Nat) : List Nat := (g.active js).filter fun i => (g.remOf i).isEmpty

/-- What a group does at a snag: it waits for the walk, traps, or waits, in `f` of the wait. -/
def State.snagged (s : State) (c : Cur) (g : Gang) (f : Wait → Wait) : Snag → State
  | .miss va clear need => (s.askWalk g.ctx va clear need c).put c (g.waitAt (g.group c.slice) .walk)
  | .fault cause addr need => s.trap c { g.frontTrap c cause addr with need := if cause = 4 ∨ cause = 5 then need else 0 }
  | .later w => s.put c (g.waitAt (g.group c.slice) (f w))

/-- The tags that a refill rewrites. -/
def Gang.planTags (g : Gang) (plan : RefillPlan) : List Dword :=
  plan.flatMap fun p => p.2.2.map fun e => slotTag (g.block p.2.1) e.1 p.1

/-- R164: the place of a tag that is to be rewritten. -/
def State.tagPlace (s : State) (g : Gang) (j : Nat) (a : Dword) : Except Snag LaneStore :=
  match s.placeOf g j 1 needW a with
  | .at_ loc _ => .ok ⟨loc, a, [0]⟩
  | .fault cause => .error (.fault cause a needW)
  | .miss va clear => .error (.miss va clear needW)
  | .zero => .error (.fault 0x05 a needW)

/-- R162, R164: before a pop: the entries are on chip, or the group waits for a refill all of whose addresses are translated. -/
def State.withEntries (s : State) (c : Cur) (g : Gang) (k : Unit → State) : State :=
  let js := g.group c.slice
  if (g.slice c.slice).phase ≠ 0 ∨ g.rsdepth = 0 ∨ (g.dryLanes js).isEmpty then k ()
  else
    match s.refillPlan g c.slice (g.dryLanes js) with
    | .ok [] => k ()
    | .ok plan =>
      match collect (s.tagPlace g c.slice) (g.planTags plan) with
      | .ok _ => s.put c (g.waitAt js .refill)
      | .error e => s.snagged c g (fun _ => .refill) e
    | .error e => s.snagged c g (fun _ => .refill) e

/-! ## Consuming slot entries, release (R162, R163) -/

/-- Tag bytes rewritten EMPTY; none inside where the store queue lacks room. -/
def State.emptyTags (s : State) (g : Gang) (j : Nat) (xs : List Dword) : Except Snag (Option State) :=
  (collect (s.tagPlace g j) xs).map fun stores => s.storeLines g {} stores

/-- R181: the lines that hold tags to be rewritten. -/
def State.tagLines (s : State) (g : Gang) (j : Nat) (xs : List Dword) : Nat :=
  (distinct (xs.filterMap fun a => match s.placeOf g j 1 needW a with
    | .at_ loc _ => some (lineOf loc)
    | _ => none)).length

/-- Whether a block holds no entry. -/
def State.blockEmpty (s : State) (g : Gang) (j n : Nat) : Except Snag Bool :=
  (collect (fun k => s.tagAt g j n (k % 32) (k / 32)) (List.range 512)).map fun ts => ts.all (· == tagEmpty)

/-- R163: RSDEPTH after the release of empty top blocks; a block that cannot be read stays. -/
def State.release (s : State) (g : Gang) (j : Nat) : Nat → Except Snag Nat
  | 0 => .ok 0
  | n + 1 =>
    match s.blockEmpty g j (n + 1) with
    | .ok true => s.release g j n
    | .ok false => .ok (n + 1)
    | .error (.fault _ _ _) => .ok (n + 1)
    | .error e => .error e

/-- The state with tags rewritten and top blocks released; `f` is what becomes of the gang. -/
def State.consume (s : State) (c : Cur) (g : Gang) (tags : List Dword) (f : Gang → Gang) : Except Snag (Option State) :=
  match s.emptyTags g c.slice tags with
  | .error e => .error e
  | .ok none => .ok none
  | .ok (some t) =>
    match t.release g c.slice g.rsdepth with
    | .error e => .error e
    | .ok n => .ok (some ((t.touchArea g needW tags).modGang c.tile c.slot fun g => { f g with rsdepth := n }))

/-- R165: the bytes of the area that a refill has read: every tag of a lane's slots from the top block down to the one that serves it,
and the words of its entries. -/
def Gang.planReads (g : Gang) (plan : RefillPlan) : List Dword :=
  plan.flatMap fun p =>
    ((List.range (g.rsdepth + 1 - p.2.1)).flatMap fun k => (List.range 16).map fun e => slotTag (g.block (p.2.1 + k)) e p.1) ++
      p.2.2.map fun e => slotWord (g.block p.2.1) e.1 p.1

/-- R162: a refill made. -/
def State.refill (s : State) (c : Cur) (g : Gang) : Except Snag (Option State) :=
  let js := g.group c.slice
  match s.refillPlan g c.slice (g.dryLanes js) with
  | .error e => .error e
  | .ok plan =>
    let s := (g.planReads plan).foldl (fun s a => s.areaFilled g c.slice a) s
    let r := s.consume c g (g.planTags plan) fun g =>
      let g := plan.foldl (fun g p => g.setRem p.1 (g.remOf p.1 ++ (p.2.2.map Prod.snd).reverse)) g
      g.modSlices js fun x => { x with wait := .run, phase := if plan.isEmpty then 1 else x.phase }
    r.map fun o => o.map fun t => t.touchArea g needR (g.planReads plan)

/-- R162: `REMAINDER_REFILL`. -/
def execRemainderRefill (s : State) : Out :=
  let c : Cur := ⟨s.subject.unit, s.subject.slot, s.subject.part⟩
  onGang s c.tile c.slot fun g =>
    if (g.slice c.slice).wait ≠ .refill ∨ s.walking c.tile c.slot c.slice then s
    else
      match s.refill c g with
      | .ok (some t) => t
      | .ok none => s
      | .error (.miss va clear need) => s.askWalk g.ctx va clear need c
      | .error (.fault _ _ _) => s.put c (g.waitAt (g.group c.slice) .run)
      | .error (.later _) => s

/-! ## Depth (R157, R176) -/

/-- A byte of the spill area as it stands, whatever translations are held; 0 where no page is (R176). -/
def State.areaNow (s : State) (g : Gang) (a : Dword) : Byte :=
  match s.placeNow g.ctx a needR with
  | .at_ loc _ =>
    match (s.tile g.tile).sqByte loc with
    | some (some b) => b
    | _ => s.homeByte (max s.gtc (s.home (lineOf loc)).lastW) loc
  | _ => 0

/-- R157: the depth of a lane. -/
def State.depth (s : State) (g : Gang) (lane : Nat) : Nat :=
  (g.remOf lane).length +
    (List.range (16 * g.rsdepth)).countP fun k => (s.areaNow g (slotTag (g.block (k / 16 + 1)) (k % 16) lane)).toNat % 32 != 0

end Sys2Proof.Machine
end

