-- ==== Sys2Proof/Machine/Ready.lean ====
section
/-!
DEFINITION. Which issue groups are ready (spec/02_execution.md R46, spec/14_kernel.md R279, R280): the waits at issue that have ended,
the order among ready groups of a row, and the gangs that may be exchanged.
-/

namespace Sys2Proof.Machine

/-! ## Waits at issue -/

/-- Whether an instruction gets past the checks that come before its operands (R96, R199), so that it may come to wait. -/
def Gang.frontOk (g : Gang) (j : Nat) (i : Instr) : Bool := g.regsOk i && (g.engineFault? ⟨g.tile, g.slot, j⟩ i).isNone

/-- Whether what an instruction waits for at issue is still to come: a counter (R123), a switch of gears (R115), room in the fault
queue (R122), an earlier phase (R293), what an engine command waits for by `accept` (R56, R196, R282), or room in the successor's FIFO
(R30). -/
def State.heldBy (accept : Gang → Cmd → Bool) (s : State) (g : Gang) (j : Nat) (i : Instr) : Bool :=
  let stands (b : BitVec 8) : Bool :=
    !g.parted && (s.member? g b.toNat).any fun m => m.arrived.isSome && (m.syncAt (g.slice j).pc).isNone
  g.frontOk j i && match i with
    | .waitc k n => decide (n.toNat < g.count k.toNat)
    | .gear0 => (s.tile g.tile).switching.isSome
    | .gear1 => (s.tile g.tile).switching.isSome
    | .tpark => !s.queueRoom g.ctx
    | .barrArrive b => stands b
    | .barrSync b => stands b
    | _ =>
      match command? i with
      | some (op, len, pn, p, d) =>
        let cmd := s.newCmd ⟨g.tile, g.slot, j⟩ g op len pn p d
        (op != .mma || operandFormat cmd.et) && (g.operandFault? j cmd).isNone && accept g cmd
      | none => Instr.handOn i && !g.parted && (s.incoming g).isSome && s.fifoFull g

def State.held (s : State) (g : Gang) (j : Nat) (i : Instr) : Bool := s.heldBy s.acceptHeld g j i

/-- R29 step 3: whether a hand-on instruction lacks its entry, and so waits without being issued. Where its pushes need a spill first, it
is issued to wait for that. -/
def State.lacksHandOn (s : State) (g : Gang) (j : Nat) (i : Instr) : Bool :=
  let op := (field (encode i) 24 8).toNat
  Instr.handOn i && g.frontOk j i && !g.parted && (s.incoming g).isNone && !(decide (0xB0 ≤ op) && g.needsSpill (g.group j))

/-- R46, R181, R183, R190, R235, R241, R308: whether a group's wait at issue has ended, so that it can issue its instruction. -/
def State.waitOver (s : State) (g : Gang) (j : Nat) (i : Instr) : Bool :=
  let t := s.tile g.tile
  match (g.slice j).wait with
  | .run => !s.held g j i
  | .issue => !s.held g j i
  | .room n => t.sqFits n
  | .own seqs => !(t.sq.any fun e => seqs.contains e.seq)
  | .lines ls => !ls.any g.unread
  | .window a => !s.windowPending a
  | .home loc n => s.readable g.tile loc n
  | .walk => !s.walking g.tile g.slot j
  | .fetch => !s.walking g.tile g.slot j && ((g.slice j).phase != 1 || s.fetch g.tile g j (nextPc (g.slice j).pc) != .missing)
  | _ => false

/-! ## Ready groups (R279) -/

/-- R279: whether nothing but a hand-on that has not come keeps a group from issuing its instruction. -/
def State.couldIssue (s : State) (g : Gang) (j : Nat) (i : Instr) : Bool :=
  let js := g.group j
  s.tileIssues g.tile && g.pos.isSome && !g.ended && s.runs g && s.waitOver g j i &&
    g.operandsReady js i && (!closesWindows i || g.canClose js i) && !(g.acquiring && isAccess i) && !s.unlogged g i

/-- R279: whether a group whose instruction is known can issue it. -/
def State.canIssue (s : State) (g : Gang) (j : Nat) (i : Instr) : Bool := s.couldIssue g j i && !s.lacksHandOn g j i

/-- Whether a group is ready to issue. -/
def State.ready (s : State) (g : Gang) (j : Nat) : Bool :=
  match s.coming g j with
  | .instr i _ => s.canIssue g j i
  | .fetch _ => false

/-- R29, R100: what becomes of a group that has come to its instruction: open windows that it closes are closed, its results that are
there written, and a hand-on that has not come is waited for; neither takes an issue slot (R46). -/
def State.reachGroup (s : State) (g : Gang) (j : Nat) : Gang :=
  match s.coming g j with
  | .fetch _ => g
  | .instr i _ =>
    if !(g.slice j).wait.atIssue then g
    else
      let g := if closesWindows i && g.groupOpen j then (g.closeAt (g.group j)).settle else g
      if s.couldIssue g j i && s.lacksHandOn g j i then g.waitAt (g.group j) .handon else g

/-- The same of every group of a gang whose tile issues. -/
def State.reachGang (s : State) (g : Gang) : Gang :=
  if g.pos.isNone || g.ended || !s.tileIssues g.tile || !s.runs g then g else g.leaders.foldl s.reachGroup g

/-- R279: since when each group of a gang has been ready without issuing. -/
def State.noteGroups (s : State) (g : Gang) : Gang :=
  g.mapSlices fun j x => { x with ready := if x.live && (g.group j).head? == some j && s.ready g j then x.ready.orElse fun _ => some s.gtc else none }

/-- Every gang that holds a position changed. -/
def State.mapActive (s : State) (f : Gang → Gang) : State :=
  { s with gangs := s.gangs.map fun e => (e.1, if e.2.pos.isSome then f e.2 else e.2) }

/-- What follows for the groups of the gangs that hold a position: where they now stand, and since when they have been ready. -/
def State.noteReady (s : State) : State :=
  let s := s.mapActive s.reachGang
  s.mapActive s.noteGroups

/-- R279: the age stamp of a group of a gang; a launcher gang counts as admitted at time 0. -/
def State.ageStamp (s : State) (g : Gang) (j : Nat) : List Nat :=
  [((g.launch.bind s.launch?).map Launch.ta).getD 0, g.grove, g.gidx, j, g.slot]

/-- Whether an age stamp is older than another. -/
def older : List Nat → List Nat → Bool
  | x :: xs, y :: ys => decide (x < y) || (x == y && older xs ys)
  | _, _ => false

/-- R279: ticks of 64 fc, after which a ready group takes precedence (Table 1.3). -/
def patience (k : Cluster) : Nat := 64 * 40 / max 1 (k.cclk.toNat % 256)

/-- R279: whether a ready group has waited so long. -/
def State.overdue (s : State) (g : Gang) (j : Nat) : Bool :=
  (g.slice j).ready.any fun t => decide (t + patience (s.cluster (clusterOf g.tile)) ≤ s.gtc)

/-- R46, R279: the ready groups that contend for a row. Those that have waited long come first, but for one that has issued while another
of them has been waiting: however rare the row's turns, none keeps the others from issuing (assumption 43). -/
def State.contenders (s : State) (ready : List (Gang × Nat)) : List (Gang × Nat) :=
  let late := ready.filter fun x => s.overdue x.1 x.2
  if late.isEmpty then ready
  else late.filter fun x => !late.any fun y => (y.1.slice y.2).ready.any fun t => decide (t < (x.1.slice x.2).issued)

/-- R103, R279: the group to which a repeat gives a row of a tile, in whatever wait it stands; one that a stop lets issue no more has
none (R101). -/
def State.rowHolder (s : State) (tile row : Nat) : Option (Nat × Nat) :=
  (s.gangsOf tile).findSome? fun h =>
    if h.pos.map (· / 4) == some row && !h.ended && s.runs h then (h.leaders.find? fun i => (h.slice i).inRep).map fun i => (h.slot, i)
    else none

/-- The groups of the gangs that stand on a row of a tile. -/
def State.rowGroups (s : State) (tile row : Nat) : List (Gang × Nat) :=
  ((s.gangsOf tile).filter fun g => g.pos.map (· / 4) == some row).flatMap fun g => g.leaders.map fun j => (g, j)

/-- R279: the group that issues next on a row: the one to which a repeat gives the row, else the oldest of those that contend. -/
def State.rowWinner (s : State) (tile row : Nat) : Option (Gang × Nat) :=
  let ready := (s.rowGroups tile row).filter fun x => s.ready x.1 x.2
  match s.rowHolder tile row with
  | some (slot, j) => ready.find? fun x => x.1.slot == slot && x.2 == j
  | none => (s.contenders ready).foldl (fun b x => match b with
      | some y => if older (s.ageStamp x.1 x.2) (s.ageStamp y.1 y.2) then some x else some y
      | none => some x) none

/-! ## Which gangs may be exchanged (R280) -/

/-- R280: whether a group waits at its instruction in a way that counts: for what the instruction names, but neither a switch of gears nor
the slew limit; for room in the store queue, or for what a load that acquires waits for; or for a result beyond its window. -/
def State.waitsHere (s : State) (g : Gang) (j : Nat) : Bool :=
  let js := g.group j
  match s.coming g j with
  | .instr i _ =>
    (match (g.slice j).wait with
     | .run => i != .gear0 && i != .gear1 && s.heldBy Gang.acceptWaits g j i
     | .issue => i != .gear0 && i != .gear1 && s.heldBy Gang.acceptWaits g j i
     | _ => !s.waitOver g j i) ||
      !g.operandsReady js i || (closesWindows i && !g.canClose js i) || (g.acquiring && isAccess i)
  | .fetch _ => false

/-- R280: whether a group of an active gang waits in one of the waits that count. R189 adds the waits of fences and of loads that
acquire, R122 those of `tpark` (assumption 43). -/
def State.exchangeable (s : State) (g : Gang) (j : Nat) : Bool :=
  match (g.slice j).wait with
  | .wata => true
  | .barrier _ => true
  | .arrive _ => true
  | .regang => true
  | .handon => true
  | .fence _ _ => true
  | .park => true
  | .run => s.waitsHere g j
  | .issue => s.waitsHere g j
  | .room _ => s.waitsHere g j
  | .own _ => s.waitsHere g j
  | .lines _ => s.waitsHere g j
  | _ => false

/-- R280: a group of a pending gang that could issue if the gang stood at a position; the lowest slice of the first. A group whose
next line or translation is missing is not ready (R390). -/
def State.readyGroup (s : State) (g : Gang) : Option Nat :=
  if g.ended then none
  else g.leaders.find? fun j => s.ready { g with pos := some 0 } j

end Sys2Proof.Machine
end

