-- ==== Sys2Proof/Machine/Launch.lean ====
section
/-!
DEFINITION. The kernel launch (spec/14_kernel.md) and groves (spec/15_group.md): `lnch`, admission, placement, the positions of a
tile and their exchange, retirement, and the end of a launch.
-/

namespace Sys2Proof.Machine

/-! ## The launch record (R268) -/

/-- Words and doublewords of a record's 256 bytes. -/
def recWord (bs : List Byte) (off : Nat) : Word := BitVec.ofNat 32 (natOfBytes ((bs.drop off).take 4))
def recDword (bs : List Byte) (off : Nat) : Dword := BitVec.ofNat 64 (natOfBytes ((bs.drop off).take 8))

/-- NCLAIM and NAFTER (Table 14.2). -/
def flagClaims (f : Word) : Nat := (f.extractLsb' 12 3).toNat
def flagAfters (f : Word) : Nat := (f.extractLsb' 8 3).toNat

/-- Claim `k` of a record. -/
def recClaim (bs : List Byte) (k : Nat) : Claim :=
  let o := 0x70 + 32 * k
  { key := recDword bs o, high := recDword bs (o + 8), start := recDword bs (o + 16), count := recDword bs (o + 24) }

/-- After-word `k` of a record. -/
def recAfter (bs : List Byte) (k : Nat) : After := { addr := recDword bs (0x30 + 16 * k), expect := recWord bs (0x38 + 16 * k) }

/-- A launch as its record gives it. -/
def launchOf (ctx now number : Nat) (bs : List Byte) : Launch :=
  { ctx := ctx, flags := recWord bs 4, code := recDword bs 8, groves := (recWord bs 0x10).toNat, shape := recWord bs 0x14
    scratch := (recWord bs 0x18).toNat, banners := recDword bs 0x20
    afters := (List.range (flagAfters (recWord bs 4))).map (recAfter bs)
    claims := (List.range (flagClaims (recWord bs 4))).map (recClaim bs)
    completeAt := recDword bs 0xF0, postedAt := now, number := number }

/-- Tables 14.1 to 14.3: whether a field of a record is outside its limits. -/
def recordBad (bs : List Byte) (l : Launch) : Bool :=
  l.flags &&& 0xFFFF88E0 != 0 || decide (4 < flagClaims l.flags) || decide (4 < flagAfters l.flags) ||
    l.code.toNat % 4 != 0 || decide (2 ^ 52 ≤ l.code.toNat) || l.groves == 0 || decide (2 ^ 24 < l.groves) ||
    l.shape &&& 0xF0F8F8F0 != 0 || decide (262144 < l.scratch) || recWord bs 0x1C != 0 || l.banners.toNat % 256 != 0 ||
    recDword bs 0x28 != 0 || (List.range 4).any (fun k => recWord bs (0x3C + 16 * k) != 0) ||
    l.claims.any (fun c => c.count == 0) || l.completeAt.toNat % 4 != 0 || decide (2 ^ 51 ≤ l.completeAt.toNat) || recDword bs 0xF8 != 0

/-! ## Claims (R271) -/

/-- Whether a counter value lies in a claim's range, which wraps. -/
def Claim.has (c : Claim) (x : Dword) : Bool := decide ((x - c.start).toNat < c.count.toNat)

def Claim.overlaps (a b : Claim) : Bool :=
  a.key == b.key && a.high == b.high && (a.has b.start || b.has a.start)

/-- Table 14.4: a launch is live from POSTED until its final state. -/
def Launch.live (l : Launch) : Bool :=
  match l.state with
  | .complete => false
  | .faulted => false
  | .killed => false
  | _ => true

def State.liveLaunches (s : State) : List Launch := (s.launches.map Prod.snd).filter Launch.live

/-- Whether claims of one record overlap each other. -/
def selfOverlap : List Claim → Bool
  | [] => false
  | c :: cs => cs.any c.overlaps || selfOverlap cs

/-- R269 step 4: the code of a record that has been read. -/
def State.launchCode (s : State) (bs : List Byte) (l : Launch) : Nat :=
  if recordBad bs l then 0x01
  else if 1024 ≤ s.liveLaunches.length then 0x0D
  else if selfOverlap l.claims || s.liveLaunches.any (fun m => m.claims.any fun a => l.claims.any a.overlaps) then 0x0C
  else 0

/-! ## `lnch` (R269) -/

/-- A launch entered among the launches of its context. -/
def State.postLaunch (s : State) (l : Launch) : State :=
  { (s.modCtx l.ctx fun x => { x with posted := x.posted + 1 }) with
    launches := Sparse.put s.launches s.nextLaunch l, nextLaunch := s.nextLaunch + 1 }

/-- R269 steps 3 to 5: the record has been read, and the acquire's action is done. -/
def State.submit (s : State) (c : Cur) (g : Gang) (d : Nat) (bs : List Byte) : State :=
  let l := launchOf g.ctx s.gtc (s.ctx g.ctx).posted bs
  let code := s.launchCode bs l
  if code = 0x0C ∧ l.flags.getLsbD 4 then s.trap c (g.frontTrap c 0x0E 0x0C)
  else (if code = 0 then s.postLaunch l else s).finish c (g.setS d (BitVec.ofNat 32 code))

/-- R125, R269: `lnch`. A record in a page that reads as zeros is 256 zero bytes. -/
def execLnch (d a : BitVec 9) (s : State) : Out :=
  onGroup (.lnch d a) s fun c g =>
    let x := g.sreg64 a.toNat
    let js := g.group c.slice
    if x.toNat % 256 ≠ 0 then s.trap c (g.frontTrap c 0x03 x)
    else if (g.slice c.slice).phase = 0 then s.waitFence c g 2 false
    else
      s.access c g needR (s.placed c g 256 needR [⟨32, x⟩]) fun s xs =>
        match xs with
        | [(_, .at_ loc _)] =>
          if !s.readable g.tile loc 4 then s.put c (g.waitAt js (.home loc 4))
          else
            (s.modTile g.tile fun t => { t with l1 := invalidateBefore t.l1 s.gtc }).submit c g d.toNat
              (s.homeBytes s.gtc loc 256)
        | _ => s.submit c g d.toNat (List.replicate 256 0)

/-! ## Admission (R273, R288) -/

/-- The watches of a launch's after-words dropped. -/
def State.dropAfters (s : State) (n : Nat) : State :=
  { s with watches := s.watches.filter fun w => w.launch.map Prod.fst != some n }

/-- A launch that ends before any grove is placed, with the cause of its completion word. -/
def State.failLaunch (s : State) (n cause : Nat) : State :=
  (s.dropAfters n).modLaunch n fun l => { l with state := .draining, faulted := true, cause := cause }

/-- A launch's after-word changed. -/
def State.modAfter (s : State) (n i : Nat) (f : After → After) : State :=
  s.modLaunch n fun l => { l with afters := l.afters.modify i f }

/-- Whether an access of the device itself can travel now. -/
def State.travels (s : State) (p : Place) : Bool :=
  match p with
  | .at_ loc _ => s.carries loc
  | _ => true

/-- R273: an after-word read at home; one not yet satisfied is watched, or polled where it cannot be. -/
def State.readAfter (s : State) (n i : Nat) (l : Launch) (a : After) : State :=
  let s := { s with watches := s.watches.filter fun w => w.launch != some (n, i) }
  if a.addr.toNat % 4 ≠ 0 then s.failLaunch n 0x03
  else
    let polled (s : State) : State := s.modAfter n i fun a => { a with watching := false, read := some s.gtc }
    match s.placeNow l.ctx a.addr needR with
    | .fault c => if c = 0x0F then polled s else s.failLaunch n c
    | .at_ loc _ =>
      if s.homeWord s.gtc loc = a.expect then s.modAfter n i fun a => { a with at? := some s.gtc }
      else if isHost loc || s.watchFull loc then polled s
      else
        { s.modAfter n i fun a => { a with watching := true, read := some s.gtc } with
          watches := s.watches ++ [{ line := lineOf loc, since := s.gtc, tile := 0, slot := 0, slice := 0, launch := some (n, i)
                                     fired := s.firstDue (lineOf loc) s.gtc }] }
    | _ => if a.expect = 0 then s.modAfter n i fun a => { a with at? := some s.gtc } else polled s

/-- R273: whether an after-word is due to be read: for the first time, when its watch has ended, or 1 µs after its last poll. -/
def State.afterDue (s : State) (n i : Nat) (a : After) : Bool :=
  if a.watching then s.watches.any fun w => w.launch == some (n, i) && w.ended s.gtc
  else
    match a.read with
    | none => true
    | some t => decide (t + Config.ticksPerUs ≤ s.gtc)

/-- R273: `AFTER_WORD_POLL`. -/
def execAfterWordPoll (s : State) : Out :=
  let n := s.subject.unit
  let i := s.subject.slot
  match s.launch? n with
  | none => .next s
  | some l =>
    match l.afters[i]? with
    | none => .next s
    | some a =>
      if l.state = .posted ∧ (s.ctx l.ctx).st = .running ∧ a.at?.isNone ∧ s.afterDue n i a ∧
          s.travels (s.placeNow l.ctx a.addr needR) then .next (s.readAfter n i l a)
      else .next s

/-- A doubleword of a banner table read at home; the cause where it faults. -/
def State.tableDword (s : State) (ctx : Nat) (a : Dword) : Except Nat Dword :=
  match s.readNow ctx a 8 with
  | .ok bs => .ok (recDword bs 0)
  | .error c => .error c

/-- The banners a fly entry names in its used slots (Table 15.3). -/
def flown (e : Dword) : List Nat :=
  (List.range 4).filterMap fun k => if e.getLsbD (32 + k) then some (e.extractLsb' (8 * k) 8).toNat else none

/-- R287: whether a banner table, entries and fly entries, is well formed. -/
def tableOk (entries flies : List Dword) : Bool :=
  entries.all (fun e => e >>> 2 == 0) && flies.all (fun e => e >>> 36 == 0) &&
    flies.all (fun e => (flown e).Nodup && (flown e).all fun b => (entries.getD b 0).getLsbD 0) &&
    (List.range 256).all fun b => !(entries.getD b 0).getLsbD 0 || flies.any fun e => (flown e).contains b

/-- R288: the members a table gives, gang by gang. -/
def tableMembers (flies : List Dword) : List Member :=
  (flies.mapIdx fun j e => (flown e).map fun b => ({ gang := j, banner := b } : Member)).flatten

/-- R288: the banners a table gives, with the members of each. -/
def tableBanners (entries : List Dword) (ms : List Member) : Sparse Banner :=
  (List.range 256).filterMap fun b =>
    let e := entries.getD b 0
    let n := ms.countP fun m => m.banner == b
    if e.getLsbD 0 then some (b, { sink := e.getLsbD 1, count := n, live := n }) else none

/-- R286: the table of a launch read at home: banner entries and fly entries. -/
def State.readTable (s : State) (l : Launch) : Except Nat (List Dword × List Dword) := do
  let entries ← (List.range 256).mapM fun b => s.tableDword l.ctx (l.banners + BitVec.ofNat 64 (8 * b))
  let flies ← (List.range (l.groves * l.ng)).mapM fun j => s.tableDword l.ctx (l.banners + BitVec.ofNat 64 (0x800 + 8 * j))
  pure (entries, flies)

/-- R272, R273, R288: the launch admitted, or sent to DRAINING. -/
def State.admitLaunch (s : State) (n : Nat) (l : Launch) : State :=
  let ta := l.afters.foldl (fun t a => max t (a.at?.getD 0)) l.postedAt
  if l.banners = 0 then s.modLaunch n fun l => { l with state := .admitted, ta := ta }
  else
    match s.readTable l with
    | .error c => s.failLaunch n c
    | .ok (entries, flies) =>
      if !tableOk entries flies then s.failLaunch n 0x01
      else
        let ms := tableMembers flies
        s.modLaunch n fun l => { l with state := .admitted, ta := ta, members := ms, banner := tableBanners entries ms }

/-- R273: `LAUNCH_ADMISSION`. -/
def execLaunchAdmission (s : State) : Out :=
  let n := s.subject.unit
  match s.launch? n with
  | none => .next s
  | some l =>
    if l.state = .posted ∧ (s.ctx l.ctx).st = .running ∧ (l.afters.all fun a => a.at?.isSome) ∧
        (l.banners = 0 ∨ s.travels (s.placeNow l.ctx l.banners needR)) then .next (s.admitLaunch n l)
    else .next s

/-! ## Placement (R276, R277) -/

/-- Free slots of a tile, lowest first. -/
def State.freeSlots (s : State) (tile : Nat) : List Nat := (List.range 32).filter fun k => (s.gang? tile k).isNone

/-- Whether a granule lies in a live allocation (R227). -/
def Tile.granuleUsed (t : Tile) (k : Nat) : Bool :=
  t.allocs.any fun a => decide (a.base / 4096 ≤ k ∧ k < a.base / 4096 + (a.bytes + 4095) / 4096)

/-- R227: the first granule of the lowest free run that holds the bytes. -/
def Tile.freeRun (t : Tile) (bytes : Nat) : Option Nat :=
  let n := (bytes + 4095) / 4096
  (List.range 64).find? fun k => decide (k + n ≤ 64) && (List.range n).all fun i => !t.granuleUsed (k + i)

/-- R276: whether a grove of a launch fits a tile. -/
def State.fits (s : State) (l : Launch) (tile : Nat) : Bool :=
  decide (l.ng ≤ (s.freeSlots tile).length) && ((s.tile tile).freeRun l.scratch).isSome

/-- R276: the tile of the next grove. -/
def State.tileFor (s : State) (l : Launch) : Option Nat := (s.ctx l.ctx).tiles.find? (s.fits l)

/-- Whether a launch has a grove to place. -/
def Launch.placing (l : Launch) : Bool :=
  (l.state == .admitted || l.state == .dispatching) && decide (l.next < l.groves) && !l.faulted

/-- PRI of a launch (R256, Table 14.2). -/
def Launch.pri (l : Launch) : Nat := (l.flags.extractLsb' 1 2).toNat

/-- R276: whether launch `a` is visited before launch `b` of the same context. -/
def State.visitedBefore (s : State) (a b : Nat × Launch) : Bool :=
  let cap := (s.ctx a.2.ctx).pri
  let p := min a.2.pri cap
  let q := min b.2.pri cap
  decide (q < p) || (p == q && (decide (a.2.ta < b.2.ta) || (a.2.ta == b.2.ta && decide (a.1 < b.1))))

/-- R276: whether a launch of a context has a grove that fits now. -/
def State.offers (s : State) (ctx : Nat) (l : Launch) : Bool := l.ctx == ctx && l.placing && (s.tileFor l).isSome

/-- R277: whether a launch's visit in the dispatcher's round is over: only one grove of a DET launch is placed in it. -/
def Ctx.passed (x : Ctx) (n : Nat) (l : Launch) : Bool := l.det && x.visited.contains n

/-- R276, R277: whether the dispatcher has visited every launch whose grove fits, so that a round begins. -/
def State.roundOver (s : State) (ctx : Nat) : Bool :=
  !s.launches.any fun m => s.offers ctx m.2 && !(s.ctx ctx).passed m.1 m.2

/-- R276, R277: whether it is a launch's turn: its own visit is not over, and no launch before it has a grove that fits and a visit to
come. -/
def State.itsTurn (s : State) (n : Nat) (l : Launch) : Bool :=
  let passed (m : Nat × Launch) : Bool := !s.roundOver l.ctx && (s.ctx l.ctx).passed m.1 m.2
  !passed (n, l) && !s.launches.any fun m => m.1 != n && s.offers l.ctx m.2 && !passed m && s.visitedBefore m (n, l)

/-- The round after a grove of a launch has been placed. -/
def State.visit (s : State) (n : Nat) (l : Launch) : State :=
  let old := if s.roundOver l.ctx then [] else (s.ctx l.ctx).visited
  s.modCtx l.ctx fun x => { x with visited := if l.det then old ++ [n] else old }

/-- R228: the generation of a new allocation: the greatest counter of its granules. -/
def Tile.newGen (t : Tile) (base n : Nat) : BitVec 16 :=
  (List.range n).foldl (fun g i => let x := Sparse.get 0 t.granule (base + i); if g.ult x then x else g) 0

/-- R228: the granules of a new allocation set to its generation. -/
def Tile.allocate (t : Tile) (launch grove base bytes : Nat) : Tile :=
  let n := (bytes + 4095) / 4096
  let gen := t.newGen base n
  if n = 0 then t
  else
    { t with
      granule := (List.range n).foldl (fun m i => Sparse.put m (base + i) gen) t.granule
      allocs := t.allocs ++ [{ launch := launch, grove := grove, base := base * 4096, bytes := bytes, gen := gen.toNat }] }

/-- SPGEN of a grove (Table 3.7, R227). -/
def spgenOf (t : Tile) (base bytes : Nat) : Word :=
  if bytes = 0 then 0 else BitVec.ofNat 32 ((t.newGen base ((bytes + 4095) / 4096)).toNat + base * 65536)

/-- R277 steps 2 and 3: a gang with its reset values (R48), in a slot whose generation has advanced. -/
def Launch.newGang (l : Launch) (n tile slot gidx now : Nat) (gen : BitVec 16) (spgen : Word) : Gang :=
  { tile := tile, slot := slot, gen := gen, launch := some n, ctx := l.ctx, grove := l.next, gidx := gidx, ngang := l.ng
    nsl := (l.shape.extractLsb' 8 3).toNat + 1, nv := 8 * ((l.shape.extractLsb' 16 3).toNat + 1)
    ns := 32 * ((l.shape.extractLsb' 24 4).toNat + 1), pri := l.pri, det := l.det, since := now
    slices := List.replicate ((l.shape.extractLsb' 8 3).toNat + 1) { pc := l.code }
    spgen := spgen, scratch := l.scratch }

/-- R11: a slot's residency generation advanced. -/
def State.nextGen (s : State) (tile slot : Nat) : State × BitVec 16 :=
  let g := Sparse.get 0 (s.tile tile).slotGen slot + 1
  (s.modTile tile fun t => { t with slotGen := Sparse.put t.slotGen slot g }, g)

/-- R277 step 2: the gangs of a grove put into their slots. -/
def State.placeGangs (s : State) (n : Nat) (l : Launch) (tile : Nat) (spgen : Word) (slots : List Nat) : State :=
  (slots.mapIdx fun i k => (i, k)).foldl (fun s x =>
    let (s, gen) := s.nextGen tile x.2
    s.setGang tile x.2 (l.newGang n tile x.2 x.1 s.gtc gen spgen)) s

/-- R277 step 4: the gear hint of a launch at a tile that holds no other gang of the context. Under a cap a hint of gear 1 is
recorded as a request. -/
def Tile.hintGear (t : Tile) (capped want : Bool) : Tile :=
  if t.gear = want then t
  else if want && capped then { t with request := some true }
  else { t with switching := some (want, 4, 0) }

/-- R277: the next grove of a launch placed on a tile, its scratchpad starting at a granule. -/
def State.placeGrove (s : State) (n : Nat) (l : Launch) (tile base : Nat) : State :=
  let alone := !(s.gangsOf tile).any fun g => g.ctx == l.ctx
  let slots := (s.freeSlots tile).take l.ng
  let spgen := spgenOf (s.tile tile) base l.scratch
  let s := s.modTile tile fun t => t.allocate n l.next base l.scratch
  let s := s.placeGangs n l tile spgen slots
  let s := if alone then s.modTile tile fun t => t.hintGear (s.ctx l.ctx).capped (l.flags.getLsbD 3) else s
  let s := s.modTile tile fun t => { t with l1 := invalidateBefore t.l1 l.ta }
  let s := s.stageTile tile l.ctx 0x01
    (l.next % 2 ^ 24 + spgen.toNat / 65536 % 64 * 2 ^ 24 + spgen.toNat % 65536 * 2 ^ 30 + l.number % 256 * 2 ^ 48)
  s.modLaunch n fun l =>
    { l with
      state := if l.next + 1 = l.groves then .running else .dispatching
      next := l.next + 1
      placed := l.placed ++ [{ index := l.next, tile := tile, slots := slots, alloc := l.scratch != 0 }] }

/-- R277: `GROVE_PLACEMENT`. A dormant tile is woken first; a tile whose gear is to follow the hint ends a switch under way
first; a recording tile without room for the entry delays the placement (R339). -/
def execGrovePlacement (s : State) : Out :=
  let n := s.subject.unit
  match s.launch? n with
  | none => .next s
  | some l =>
    if !l.placing || (s.ctx l.ctx).st != .running || !s.itsTurn n l then .next s
    else
      match s.tileFor l with
      | none => .next s
      | some t =>
        let x := s.tile t
        if x.dorm ≠ .active then .next (s.wakeTile t)
        else if x.switching.isSome || !s.tileRoom t l.ctx then .next s
        else
          match x.freeRun l.scratch with
          | none => .next s
          | some base => .next ((s.visit n l).placeGrove n l t base)

/-! ## Positions (R278, R280) -/

/-- R278: the position a pending gang takes. -/
def freePosition (occupied : List Nat) : Option Nat :=
  let free (r : Nat) : List Nat := ((List.range 4).map fun k => 4 * r + k).filter fun p => !occupied.contains p
  let low := free 0
  let high := free 1
  if low.length < high.length then high.head? else low.head?

/-- The pending gangs of a tile that may run, each with its age stamp. -/
def State.pendingGangs (s : State) (tile : Nat) : List (Gang × List Nat) :=
  ((s.gangsOf tile).filter fun g => g.pos.isNone && !g.ended && s.runs g).map fun g => (g, s.ageStamp g (g.leaders.headD 0))

/-- R278: `GANG_ACTIVATE`: the oldest pending gang takes a free position (R385). -/
def execGangActivate (s : State) : Out :=
  let j := s.subject
  onGang s j.unit j.slot fun g =>
    let ps := s.pendingGangs j.unit
    if !ps.any fun x => x.1.slot == j.slot && ps.all fun y => !older y.2 x.2 then s
    else
      match freePosition ((s.gangsOf j.unit).filterMap Gang.pos) with
      | none => s
      | some p => s.setGang j.unit j.slot { g with pos := some p }

/-- R280: whether a gang belongs to its launch's lowest-numbered unretired grove. -/
def State.anchor (s : State) (g : Gang) : Bool :=
  match g.launch.bind s.launch? with
  | none => false
  | some l => l.placed.all fun v => decide (g.grove ≤ v.index)

/-- Pending gangs of a tile that are ready, each with its age stamp. -/
def State.readyPending (s : State) (tile : Nat) : List (Gang × List Nat) :=
  (s.gangsOf tile).filterMap fun g =>
    if g.pos.isSome then none else (s.readyGroup g).map fun j => (g, s.ageStamp g j)

/-- R280: whether a pending gang may be brought in: a ready anchor gang, or where there is none the oldest ready gang. -/
def State.bringsIn (s : State) (tile slot : Nat) : Bool :=
  let rs := s.readyPending tile
  let anchors := rs.filter fun x => s.anchor x.1
  if anchors.isEmpty then rs.any fun x => x.1.slot == slot && rs.all fun y => !older y.2 x.2
  else anchors.any fun x => x.1.slot == slot

/-- R280: an active gang exchanged with a pending one; the exchange is logged. -/
def State.exchange (s : State) (out inc : Gang) : State :=
  let p := out.pos.getD 0
  let s := s.modGang out.tile out.slot fun g => { g with pos := none, since := s.gtc }
  let s := s.modGang inc.tile inc.slot fun g => { g with pos := some p }
  s.stageTile out.tile out.ctx 0x02 (out.slot + inc.slot * 32 + p * 1024)

/-- R280, R101: whether an active gang may leave its position: all its groups wait, or a stop lets it issue no more while another gang's
windows are still open. -/
def State.leaves (s : State) (g : Gang) : Bool := if s.runs g then g.leaders.all (s.exchangeable g) else (s.ctx g.ctx).st == .stopping

/-- R278: whether every position of a tile is taken. -/
def State.positionsFull (s : State) (tile : Nat) : Bool := (freePosition ((s.gangsOf tile).filterMap Gang.pos)).isNone

/-- R280: `GANG_EXCHANGE`; while a position is free a pending gang takes that (R278). -/
def execGangExchange (s : State) : Out :=
  let j := s.subject
  match s.gang? j.unit j.slot, s.gang? j.unit j.part with
  | some out, some inc =>
    if out.pos.isSome && !out.ended && inc.pos.isNone && s.positionsFull j.unit && s.tileRoom j.unit out.ctx && s.leaves out &&
        s.bringsIn j.unit j.part then .next (s.exchange out inc)
    else .next s
  | _, _ => .next s

/-- Ticks of 1,024 fc of a cluster: 1,024 × 40 ÷ FMUL (Table 1.3). -/
def anchorPatience (k : Cluster) : Nat := 1024 * 40 / max 1 (k.cclk.toNat % 256)

/-- The oldest, and the youngest, of gangs with their age stamps. -/
def oldestOf : List (Gang × List Nat) → Option Gang
  | [] => none
  | x :: xs => some (xs.foldl (fun b y => if older y.2 b.2 then y else b) x).1

def youngestOf : List (Gang × List Nat) → Option Gang
  | [] => none
  | x :: xs => some (xs.foldl (fun b y => if older b.2 y.2 then y else b) x).1

/-- R280: `FORCED_EXCHANGE`. -/
def execForcedExchange (s : State) : Out :=
  let t := s.subject.unit
  let due := (s.readyPending t).filter fun x =>
    s.anchor x.1 && decide (x.1.since + anchorPatience (s.cluster (clusterOf t)) ≤ s.gtc)
  let active := (s.gangsOf t).filter fun g => g.pos.isSome && !s.anchor g
  match oldestOf due, youngestOf (active.map fun g => (g, s.ageStamp g (g.leaders.headD 0))) with
  | some inc, some out =>
    if (s.ctx out.ctx).st = .running ∧ s.tileRoom t out.ctx ∧ s.positionsFull t then .next (s.exchange out inc)
    else .next s
  | _, _ => .next s

/-! ## Retirement and the end (R275, R285) -/

/-- R228: the counters of an allocation's granules advanced, the allocation gone. -/
def Tile.freeGrove (t : Tile) (launch grove : Nat) : Tile :=
  let mine (a : Alloc) : Bool := a.launch == launch && a.grove == grove
  { t with
    granule := (t.allocs.filter mine).foldl (fun m a =>
      (List.range ((a.bytes + 4095) / 4096)).foldl (fun m i =>
        Sparse.put m (a.base / 4096 + i) (Sparse.get 0 m (a.base / 4096 + i) + 1)) m) t.granule
    allocs := t.allocs.filter fun a => !mine a }

/-- R285 steps 2 and 3: a grove retired. -/
def State.retireGrove (s : State) (n : Nat) (v : Grove) : State :=
  let s := s.modTile v.tile fun t => t.freeGrove n v.index
  let s := v.slots.foldl (fun s k => s.retireSlot v.tile k) s
  s.modLaunch n fun l =>
    let placed := l.placed.filter fun x => x.index != v.index
    { l with
      placed := placed, retired := l.retired + 1
      state := if placed.isEmpty && (decide (l.groves ≤ l.next) || l.faulted) then .draining else l.state }

/-- Whether a drain under way holds entries that belong to a launch, or to one grove of it. -/
def State.drainsOf (s : State) (n : Nat) (grove : Option Nat) : Bool :=
  s.drains.any fun d => d.entries.any fun e => e.2.launch == n && (grove.isNone || grove == some e.2.grove)

/-- Whether a context's gangs stand on their tiles, not in a save area. -/
def Ctx.unsaved (x : Ctx) : Bool :=
  match x.st with
  | .stopping => false
  | .saved => false
  | .restoring => false
  | _ => true

/-- R338: whether results of a grove's ended gangs are still to be logged. -/
def State.owes (s : State) (n : Nat) (v : Grove) : Bool :=
  (s.gangsOf v.tile).any fun g => g.launch == some n && g.grove == v.index && !g.pend.isEmpty

/-- R285, R338: whether a grove can retire: its gangs have ended, no drain holds atomics of it, and nothing is still to be logged. -/
def State.retires (s : State) (n : Nat) (l : Launch) (v : Grove) : Bool :=
  decide (v.exited.length ≥ l.ng) && !s.drainsOf n (some v.index) && !s.owes n v && (s.ctx l.ctx).unsaved

/-- R285: `GROVE_RETIRE`: the drain of what is held, then the retirement. -/
def execGroveRetire (s : State) : Out :=
  let j := s.subject
  match s.launch? j.slot with
  | none => .next s
  | some l =>
    match l.placed.find? fun v => v.index == j.part with
    | none => .next s
    | some v =>
      if !s.retires j.slot l v then .next s
      else
        let mine (h : Held) : Bool := h.launch == j.slot && h.grove == v.index
        if (s.tile v.tile).det.any mine then
          .next (s.startDrain { point := 3, launch := j.slot, tile := v.tile, grove := v.index, entries := [] } [v.tile]
            fun _ h => mine h)
        else .next (s.retireGrove j.slot v)

/-- Table 14.6: the completion word. -/
def Launch.word (l : Launch) : Word :=
  if l.faulted then 0xA0000000 ||| BitVec.ofNat 32 (l.cause % 256 * 65536)
  else if l.killed then 0xB0000000
  else 0x90000000

/-- The final state of a launch (R272). -/
def Launch.finalState (l : Launch) : LaunchState := if l.faulted then .faulted else if l.killed then .killed else .complete

/-- R275: whether everything a launch in DRAINING waits for has come; the groves of a killed one have retired (R272). -/
def State.launchDrained (s : State) (n : Nat) (l : Launch) : Bool :=
  l.placed.isEmpty && !(s.tiles.any fun t => t.2.sq.any fun e => e.launch == some n) &&
    !(s.gangs.any fun g => g.2.launch == some n && g.2.queues.any fun q => !q.isEmpty) &&
    !s.drainsOf n none &&
    decide (l.horizon + (if l.dom then 8 else 0) ≤ s.gtc) && !(s.hostStores.any fun h => h.launch == some n)

/-- R275: the completion word written, as a release at the widest scope that covers its address (Table 9.5), or a record of kind 5 where it
cannot be; a write that cannot travel now, or whose page is to be cleared of its zero hint (R306), waits. -/
def State.endLaunch (s : State) (n : Nat) (l : Launch) : State :=
  let done (s : State) : State := s.modLaunch n fun l => { l with state := l.finalState }
  match s.placeNow l.ctx l.completeAt needW with
  | .at_ loc _ =>
    if !s.carries loc then s
    else
      done (s.storeAfter deviceNo loc (bytesOfNat 4 l.word.toNat)
        (if isHost loc then sysWait l.horizon else if l.completeAt.toNat < 2 ^ 51 then l.horizon else l.horizon + 8)).1
  | .miss va _ => s.askClear l.ctx va 0
  | .fault c => (done s).post l.ctx { kind := 5, cause := c, addr := l.completeAt }
  | _ => s

/-- R275: `LAUNCH_DRAIN_COMPLETE`. A stopped context's launch waits for the resume. -/
def execLaunchDrainComplete (s : State) : Out :=
  let n := s.subject.unit
  match s.launch? n with
  | none => .next s
  | some l =>
    if l.state ≠ .draining || !(s.ctx l.ctx).unsaved then .next s
    else
      let mine (h : Held) : Bool := h.launch == n
      let tiles := (s.tiles.filter fun t => t.2.det.any mine).map Prod.fst
      if !tiles.isEmpty then .next (s.startDrain { point := 4, launch := n, entries := [] } tiles fun _ h => mine h)
      else if !s.launchDrained n l then .next s
      else .next (s.endLaunch n l)

/-! ## Forced drains (R333, R334) -/

/-- R334: whether a flush point has come that is still to take held atomics of a tile: a grove that retires, or its launch's end. -/
def State.flushDue (s : State) (t : Nat) : Bool :=
  s.launches.any fun x =>
    (x.2.placed.any fun v =>
      v.tile == t && s.retires x.1 x.2 v && (s.tile t).det.any fun h => h.launch == x.1 && h.grove == v.index) ||
    (x.2.state == .draining && (s.ctx x.2.ctx).unsaved && (s.tile t).det.any fun h => h.launch == x.1)

/-- R333: `FORCED_DRAIN`: the whole buffer of a tile of a running context on which an atomic waits for room, after the flush points that
meet it there have taken their sets (R334). -/
def execForcedDrain (s : State) : Out :=
  let t := s.subject.unit
  let waits := (s.gangsOf t).any fun g => g.leaders.any fun i => (g.slice i).wait == .drain && (g.slice i).phase == 0
  if !waits || !((s.tile t).holder.any fun n => (s.ctx n).st == .running) || s.drains.any (fun d => d.point == 5 && d.tile == t) ||
      s.flushDue t then .next s
  else if (s.tile t).det.isEmpty then .next (s.endDrain { point := 5, tile := t, entries := [] })
  else .next (s.startDrain { point := 5, tile := t, entries := [] } [t] fun _ _ => true)

end Sys2Proof.Machine
end

