-- ==== Sys2Proof/Machine/FaultQueue.lean ====
section
/-!
DEFINITION. The fault queue (spec/17_page.md R311-R314): posting of records, interrupts, the host's replies and removals.
-/

namespace Sys2Proof.Machine

/-! ## Interrupts (R320) -/

/-- R320: an interrupt sent to the host, or held, merged with an equal one, while GortyLink does not carry traffic. -/
def State.raise (s : State) (v : Nat) : State :=
  if s.hostUp then { s with sent := s.sent ++ [v] } else { s with irqs := if s.irqs.contains v then s.irqs else s.irqs ++ [v] }

/-- R320: whether an interrupt may leave: PUT stands at home, and the stores to the host before it have reached the host. -/
def State.ringDue (s : State) (r : Ring) : Bool :=
  decide (r.w ≤ s.gtc) && !s.hostStores.any fun h => h.w.isNone && r.behind.contains (h.tile, h.seq)

/-- R312: the interrupt behind a post of a context, whose PUT has its W at `w`. -/
def State.ringAfter (s : State) (n w : Nat) : State :=
  let ring : Ring :=
    { vector := (s.homeWord s.gtc ((s.ctx n).fq + 0x0C)).toNat % 1024, w := w
      behind := (s.hostStores.filter fun h => h.w.isNone).map fun h => (h.tile, h.seq) }
  s.modCtx n fun x => { x with rings := x.rings ++ [ring] }

/-! ## Posting (R312) -/

/-- Table 17.4: the bytes of a record posted at a time. -/
def FaultRec.bytes (r : FaultRec) (now : Nat) : List Byte :=
  let src := if r.kind = 5 then 0 else r.tile % 1024 + r.slot % 32 * 1024 + (if r.kind = 4 then r.cls % 4 * 65536 else 0)
  bytesOfNat 4 (r.kind + r.cause * 256) ++ bytesOfNat 4 src ++ bytesOfNat 8 r.addr.toNat ++ bytesOfNat 8 r.pc.toNat ++
    bytesOfNat 4 r.mask.toNat ++ bytesOfNat 4 r.first.toNat ++ bytesOfNat 8 now ++ bytesOfNat 8 r.step ++ bytesOfNat 4 r.need ++
    bytesOfNat 4 r.seq ++ List.replicate 8 0

/-- Whether a record awaits a reply (R312). -/
def FaultRec.awaits (r : FaultRec) : Bool := r.kind == 1 || r.kind == 2 || r.kind == 4

/-- R312: whether the queue has a slot free, GET read at home. -/
def State.slotFree (s : State) (n : Nat) : Bool :=
  let x := s.ctx n
  decide ((x.fqPut + 2 ^ 32 - (s.homeWord s.gtc (x.fq + 4)).toNat) % 2 ^ 32 < x.fqSize)

/-- R312: a record written to the queue, then PUT as a release, and its interrupt due behind that. -/
def State.postRecord (s : State) (n : Nat) (r : FaultRec) (rest : List FaultRec) : State :=
  let x := s.ctx n
  let r := { r with seq := x.fqPut }
  let put := (x.fqPut + 1) % 2 ^ 32
  let (s, w) := s.deviceWrite (x.fq + 64 + 64 * (r.seq % x.fqSize)) (r.bytes s.gtc)
  let (s, v) := s.storeAfter deviceNo x.fq (bytesOfNat 4 put) (sysWait w)
  (s.modCtx n fun x => { x with fqPut := put, posts := rest, await := if r.awaits then x.await ++ [r] else x.await }).ringAfter n v

/-- R312: `FAULT_QUEUE_POST`: the interrupt of an earlier post is raised, or the next record is posted. -/
def execFaultQueuePost (s : State) : Out :=
  let n := s.subject.unit
  let x := s.ctx n
  match x.rings.find? s.ringDue, x.posts with
  | some r, _ => .next ((s.modCtx n fun x => { x with rings := x.rings.erase r }).raise r.vector)
  | none, r :: rest => if s.slotFree n then .next (s.postRecord n r rest) else .next s
  | none, [] => .next s

/-! ## Requests (R313) -/

/-- R313: ACK written. -/
def State.ackRequest (s : State) (n seq code : Nat) : State :=
  (s.deviceWrite ((s.ctx n).fq + 0x14) (bytesOfNat 4 (seq * 65536 + code * 256))).1

/-- Table 12.2: the states in which a context has a fault queue. -/
def Ctx.queued (x : Ctx) : Bool := x.st != .created && x.st != .ended && x.st != .failed

/-- R313: a request of a code taken: REQ cleared, and what it does, given its sequence number; a malformed one gives 0x02. -/
def takeRequest (s : State) (mine : Nat → Bool) (valid : Bool) (k : State → Nat → Nat → State) : Out :=
  let n := s.subject.unit
  let x := s.ctx n
  let w := s.standing (x.fq + 0x10)
  if !x.queued || w = 0 || !mine (w.toNat % 16) then .next s
  else
    let (s, _, _) := s.performAtomic deviceNo (x.fq + 0x10) 8 0 0
    let seq := w.toNat / 65536
    if !valid || w &&& 0xFFF0 ≠ 0 then .next (s.ackRequest n seq 2) else .next (k s n seq)

/-- R313: a reply to the record that ARG names; one given while the context is SAVED or restoring is kept (R252). -/
def State.reply (s : State) (code n seq : Nat) : State :=
  let x := s.ctx n
  let arg := (s.homeWord s.gtc (x.fq + 0x18)).toNat
  match x.await.find? fun r => r.seq == arg with
  | none => s.ackRequest n seq 1
  | some r =>
    let s := s.modCtx n fun x => { x with await := x.await.filter fun y => y.seq != arg }
    let s := if x.st == .saved || x.st == .restoring then s.modCtx n fun x => { x with replies := x.replies ++ [(code, r)] }
      else s.sendReply code r
    s.ackRequest n seq 0

/-- R313: `FQ_RESUME`. -/
def execFqResume (s : State) : Out := takeRequest s (· == 1) true fun s n seq => s.reply 1 n seq

/-- R313: `FQ_DECLINE`. -/
def execFqDecline (s : State) : Out := takeRequest s (· == 2) true fun s n seq => s.reply 2 n seq

/-- R313: `FQ_KILL`; the reserved request codes are answered here too. -/
def execFqKill (s : State) : Out :=
  let code := (s.standing ((s.ctx s.subject.unit).fq + 0x10)).toNat % 16
  takeRequest s (fun c => c == 4 || c == 0 || decide (5 ≤ c)) (code == 4) fun s n seq => s.reply 4 n seq

/-! ## Removals (R314) -/

/-- log2 of the size of the page that holds an address, the largest through which accesses have gone. -/
def Ctx.pageSize (x : Ctx) (va : Nat) : Nat := x.large.foldl (fun m p => if va / 2 ^ p.2 = p.1 / 2 ^ p.2 then max m p.2 else m) 16

/-- Whether a load through a context's page table is still to read a line of a page of it. -/
def LoadPart.reads (l : LoadPart) (hit : Nat → Bool) : Bool :=
  l.mapped && l.lanes.any fun x => x.loc.any (fun loc => l.need.contains (lineOf loc)) && hit (tableVa x.addr / 65536)

/-- The held atomics of a context: in its tiles' buffers, in drains, and saved. -/
def State.heldOf (s : State) (n : Nat) : List Held :=
  let all := s.tiles.flatMap (fun t => t.2.det) ++ s.drains.flatMap (fun d => d.entries.map Prod.snd) ++
    ((s.ctx n).saved.map fun x => x.tiles.flatMap SavedTile.det).getD []
  all.filter fun h => (s.launch? h.launch).any fun l => l.ctx == n

/-- R314: what the acknowledgement of a removal waits for: the stores and loads translated through it, the engines' units, the accesses
that hold its translation, and the held atomics, whose places are settled (assumption 72). -/
def State.removalOf (s : State) (n seq : Nat) (hit : Nat → Bool) : Removal :=
  let gs := s.gangs.filter fun g => g.2.ctx == n
  let cmds := gs.flatMap fun g => g.2.queues.flatMap id
  { seq := seq
    stores := s.tiles.flatMap fun t => (t.2.sq.filter fun e => e.ctx == n && e.mapped && hit (tableVa e.addr / 65536)).map fun e => (t.1, e.seq)
    until_ := cmds.foldl (fun m c => c.pages.foldl (fun m p => if hit p.1 then max m p.2 else m) m) 0
    loads := gs.flatMap fun g => (g.2.pend.filter fun p => p.load.any fun l => l.reads hit).map fun p => (g.2.tile, g.2.slot, p.id)
    walked := gs.flatMap fun g => (g.2.walked.filter fun w => hit (w.va / 65536)).map fun w => (⟨g.2.tile, g.2.slot, w.slice⟩, w.va)
    held := (s.heldOf n).filter fun h => h.va.any fun va => hit (va / 65536) }

/-- R314: whether everything that an acknowledgement of a context's removal waits for has come. -/
def State.removed (s : State) (n : Nat) (r : Removal) : Bool :=
  !(r.stores.any fun x => (s.tile x.1).sq.any fun e => e.seq == x.2) && decide (r.until_ ≤ s.gtc) &&
    !(r.loads.any fun x => (s.gang? x.1 x.2.1).any fun g => g.pend.any fun p => p.id == x.2.2 && p.load.any fun l => !l.need.isEmpty) &&
    !(r.walked.any fun x => (s.gang? x.1.tile x.1.slot).any fun g => g.walked.any fun w => w.slice == x.1.slice && w.va == x.2) &&
    !(r.held.any fun h => (s.heldOf n).contains h)

/-- R314: `FQ_INVALIDATE`: the removal of R129, and what the acknowledgement waits for. -/
def execFqInvalidate (s : State) : Out :=
  takeRequest s (· == 3) true fun s n seq =>
    let arg := s.homeDword s.gtc ((s.ctx n).fq + 0x18)
    let every := arg == 0xFFFFFFFFFFFFFFFF
    let va := arg.toNat % 2 ^ 52
    let size := (s.ctx n).pageSize va
    let r := s.removalOf n seq fun page => every || page * 65536 / 2 ^ size == va / 2 ^ size
    (s.removePage n (if every then none else some va)).modCtx n fun x =>
      { x with inval := x.inval ++ [r], large := x.large.filter fun p => !(every || va / 2 ^ p.2 == p.1 / 2 ^ p.2) }

/-- R314: `FQ_INVALIDATE_ACK`: of the removal that the subject's slot counts. -/
def execFqInvalidateAck (s : State) : Out :=
  let n := s.subject.unit
  match (s.ctx n).inval[s.subject.slot]? with
  | none => .next s
  | some r =>
    if s.removed n r then .next ((s.ackRequest n r.seq 0).modCtx n fun x => { x with inval := x.inval.eraseIdx s.subject.slot })
    else .next s

end Sys2Proof.Machine
end

