-- ==== Sys2Proof/Machine/Power.lean ====
section
/-!
DEFINITION. Gears under caps, clocks, cadence, slack control and the dormant state (spec/20_power.md R340-R349, spec/01_machine.md R8),
and window writes from outside (R11).
-/

namespace Sys2Proof.Machine

/-! ## Caps (R258, R348) -/

/-- R258: what a context's caps now ask of the tiles it holds; the change is a wake message (R342). -/
def State.settleCaps (s : State) (n : Nat) : State :=
  ((s.ctx n).tiles.filter fun t => (s.tile t).holder == some n).foldl (fun s t => (s.wakeTile t).modTile t fun x => x.settleGear (s.ctx n).capped) s

/-- A change of a context that may change its caps. -/
def State.changeCtx (s : State) (n : Nat) (f : Ctx → Ctx) : State :=
  let old := s.ctx n
  let s := s.modCtx n f
  if (s.ctx n).cap = old.cap ∧ (s.ctx n).capped = old.capped then s else s.settleCaps n

/-! ## Clocks (R8) -/

/-- R8: whether a host write to CCLK is legal; reserved bits are not looked at. -/
def cclkOk (v : Word) : Bool := (v.extractLsb' 8 2) != 3 && decide (8 ≤ v.toNat % 256 ∧ v.toNat % 256 ≤ 66)

/-- The tiles of a cluster. -/
def tilesOfCluster (c : Nat) : List Nat := [4 * c, 4 * c + 1, 4 * c + 2, 4 * c + 3]

/-- R8, R342: `CCLK_WRITE`: a legal write is a wake message for the cluster's tiles, and one that changes CCLK starts a relock. -/
def execCclkWrite (cluster : Nat) (value : Word) (s : State) : Out :=
  let v := value &&& 0x3FF
  if !cclkOk value then .next s
  else
    let s := if v = (s.cluster cluster).cclk ∧ (s.cluster cluster).relock.isNone then s
      else s.modCluster cluster fun k => { k with relock := some v }
    .next ((tilesOfCluster cluster).foldl State.wakeTile s)

/-- R14, R116: a tile that holds nothing back any more takes the results that came and the writes that were held. -/
def State.releaseTile (s : State) (t : Nat) : State := if s.holds t then s else (s.settleTile t).applyHeld t

/-- R8: `CCLK_RELOCK_COMPLETE`: CCLK takes the value, and writes held for the cluster's tiles are applied. -/
def execCclkRelockComplete (s : State) : Out :=
  let c := s.subject.unit
  match (s.cluster c).relock with
  | none => .next s
  | some v =>
    if !(tilesOfCluster c).all s.lanesDrained then .next s
    else
      let s := s.modCluster c fun k => { k with cclk := v, relock := none }
      .next ((tilesOfCluster c).foldl State.releaseTile s)

/-! ## Cadence (R344, R345) -/

/-- The cadence a notch requests (R348). -/
def notchCadence (k : Nat) : Nat := min (k + 1) 16

/-- R345: the target cadence of a cluster. -/
def State.targetCad (s : State) (c : Nat) : Nat :=
  s.ctxs.foldl (fun m x =>
    if (tilesOfCluster c).any fun t => (s.tile t).holder == some x.1 then max m (notchCadence x.2.slack.k) else m) (s.cluster c).base

/-- Table 20.3: a cluster's power word, with the cadence in force. -/
def Cluster.powerWord (k : Cluster) : Nat := k.base + k.cad * 256 + k.slew * 65536

/-- The place of a cluster's power word, and of a context's slack record (R344). -/
def Boot.powerAt (b : Boot) (c : Nat) : Nat := (b.pwrbase.toNat + 4 * c) % 2 ^ 48
def Boot.slackAt (b : Boot) (n : Nat) : Nat := (b.pwrbase.toNat + 0x400 + 32 * n) % 2 ^ 48

/-- The cluster's power word written at its place. -/
def State.showPower (s : State) (c : Nat) : State :=
  if s.boot.stage ≠ 3 then s else (s.deviceWrite (s.boot.powerAt c) (bytesOfNat 4 (s.cluster c).powerWord)).1

/-- EFF of the cluster's power word, the byte that is the device's; what the host has written beside it stays for it to be read. -/
def State.showCad (s : State) (c : Nat) : State :=
  if s.boot.stage ≠ 3 then s else (s.deviceWrite (s.boot.powerAt c + 1) (bytesOfNat 1 (s.cluster c).cad)).1

/-- R345: a rise of the target takes effect at once. -/
def State.raiseCad (s : State) (c : Nat) : State :=
  if (s.cluster c).cad < s.targetCad c then (s.modCluster c fun k => { k with cad := s.targetCad c }).showCad c else s

/-- The clusters of a context's tiles. -/
def Ctx.clusters (x : Ctx) : List Nat := (x.tiles.map clusterOf).eraseDups

/-- R344: whether a power word is within its limits; EFF is not the host's. -/
def powerOk (v : Word) : Bool := v &&& 0xFF00E0E0 == 0 && decide (1 ≤ v.toNat % 32 ∧ v.toNat % 32 ≤ 16)

/-- R344: `CLUSTER_POWER_WRITE`: the host has written a cluster word. The device puts its own word there: the settings in force and
EFF, which are not the host's to write (assumption 7). -/
def execClusterPowerWrite (cluster : Nat) (value : Word) (s : State) : Out :=
  if !powerOk value then .next (s.showPower cluster)
  else
    let s := s.modCluster cluster fun k => { k with base := value.toNat % 32, slew := value.toNat / 65536 % 256 }
    .next ((s.raiseCad cluster).showPower cluster)

/-- R345: `CADENCE_STEP`: CAD falls by one toward the target, once in each aligned window of 64 fc. -/
def execCadenceStep (s : State) : Out :=
  let c := s.subject.unit
  let w := (s.cluster c).window s.gtc
  if s.targetCad c < (s.cluster c).cad ∧ (s.cluster c).cadWin ≠ some w then
    .next ((s.modCluster c fun k => { k with cad := k.cad - 1, cadWin := some w }).showCad c)
  else .next s

/-! ## Slack control (R346-R348) -/

/-- R346: whether an enabled record is valid, `zero` the doubleword of Table 20.4 that must be zero. -/
def slackOk (ctl hi lo notch : Word) (zero : Dword) : Bool :=
  ctl &&& 0xFFE000FE == 0 && zero == 0 && decide (ctl.toNat / 65536 % 32 ≤ 16) && notch != 0 && decide (lo.toNat + 2 * notch.toNat ≤ hi.toNat)

/-- STATE of a slack record (Table 20.4). -/
def Slack.word (x : Slack) : Nat := x.k + (if x.err then 32768 else 0) + x.rounds * 65536

/-- A slack record's words at its place. -/
def State.showSlack (s : State) (n : Nat) : State :=
  if s.boot.stage ≠ 3 then s
  else
    let x := (s.ctx n).slack
    (s.deviceWrite (s.boot.slackAt n + 0x10) (bytesOfNat 4 x.word ++ bytesOfNat 4 x.avg)).1

/-- A context's notch changed: its cap and the cadence of its clusters follow. -/
def State.changeSlack (s : State) (n : Nat) (f : Slack → Slack) : State :=
  let s := s.changeCtx n fun x => { x with slack := f x.slack }
  ((s.ctx n).clusters.foldl State.raiseCad s).showSlack n

/-- The host's four words of a slack record. -/
def Slack.hostBytes (x : Slack) : List Byte :=
  bytesOfNat 4 x.ctl.toNat ++ bytesOfNat 4 x.hi.toNat ++ bytesOfNat 4 x.lo.toNat ++ bytesOfNat 4 x.notchTicks.toNat

/-- The 32 bytes of a slack record (Table 20.4). -/
def Slack.bytes (x : Slack) : List Byte :=
  x.hostBytes ++ bytesOfNat 4 x.word ++ bytesOfNat 4 x.avg ++ bytesOfNat 8 x.zero.toNat

/-- The rounds that a controller which watches a communicator no more has not seen; those with completions still to come stay. -/
def Slack.unseen (x : Slack) : List SlackRound := x.open_.filter fun r => !r.seen

/-- A record whose controller has no round under way. -/
def Slack.anew (x : Slack) : Slack := { x with open_ := [] }

/-- R346: a record as the host has written it, checked where it is enabled. -/
def Slack.written (x : Slack) (ctl hi lo notch : Word) (zero : Dword) : Slack :=
  let kept := if x.on && ctl.extractLsb' 8 8 == x.ctl.extractLsb' 8 8 then x.open_ else x.unseen
  let y := { x with ctl := ctl, hi := hi, lo := lo, notchTicks := notch, zero := zero, open_ := kept }
  if !ctl.getLsbD 0 then { y with k := 0, open_ := x.unseen }
  else if slackOk ctl hi lo notch zero then { y with err := false }
  else { y with err := true, k := 0, open_ := x.unseen }

/-- R344, R346: the last doubleword of a slack record as it stands at home. -/
def State.slackZero (s : State) (ctx : Nat) : Dword :=
  let loc := s.boot.slackAt ctx + 0x18
  if s.boot.stage ≠ 3 then 0 else s.homeDword (max s.gtc (s.home (lineOf loc)).lastW) loc

/-- R346: `SLACK_RECORD_WRITE`. -/
def execSlackRecordWrite (ctx : Nat) (ctl hi lo notch : Word) (s : State) : Out :=
  let zero := s.slackZero ctx
  let s := if s.boot.stage ≠ 3 then s else
    (s.deviceWrite (s.boot.slackAt ctx) (Slack.hostBytes { ctl := ctl, hi := hi, lo := lo, notchTicks := notch })).1
  .next (s.changeSlack ctx fun x => x.written ctl hi lo notch zero)

/-- R347, R348: one round seen, with its slack. The rounds since the last change count the round itself. -/
def Slack.round (x : Slack) (ticks : Nat) : Slack :=
  let last := (x.last ++ [ticks]).drop (x.last.length - 15)
  let formed := decide (last.length = 16)
  let avg := if formed then last.sum / 16 else x.avg
  let rounds := min (x.rounds + 1) 65535
  let x := { x with last := last, avg := avg, rounds := rounds }
  if !formed || (x.changed && decide (rounds < 64)) then x
  else if avg > x.hi.toNat ∧ x.k < x.ctl.toNat / 65536 % 32 then { x with k := x.k + 1, rounds := 0, changed := true }
  else if avg < x.lo.toNat ∧ 0 < x.k then { x with k := x.k - 1, rounds := 0, changed := true }
  else x

/-- R347: the slack of a round: the last completion less the last acceptance. -/
def SlackRound.slack (r : SlackRound) : Nat := r.completed - r.accepted

/-- R347, R348: `SLACK_ROUND`: a context sees a round, of this slack. -/
def execSlackRound (ctx slack : Nat) (s : State) : Out :=
  match (s.ctx ctx).slack.open_.find? SlackRound.seen with
  | none => .next s
  | some r =>
    if !(s.ctx ctx).slack.on || r.slack != slack then .next s
    else .next (s.changeSlack ctx fun x => { x with open_ := x.open_.erase r }.round slack)

/-! ## The dormant state (R341-R343) -/

/-- R341: whether a group is parked. -/
def parked (x : Slice) : Bool :=
  match x.wait with
  | .wata => true
  | .park => true
  | .barrier _ => true
  | _ => false

/-- R341: whether a tile is idle. -/
def State.idle (s : State) (t : Nat) : Bool :=
  (s.tile t).sq.isEmpty && (s.gangsOf t).all fun g => g.pend.isEmpty && g.leaders.all fun j => parked (g.slice j)

/-- Whether a group of a tile waits at a barrier whose phase has completed (R296). -/
def State.releases (s : State) (t : Nat) : Bool :=
  (s.gangsOf t).any fun g => g.leaders.any fun j => match (g.slice j).wait with
    | .barrier b => ((s.member? g b).bind Member.completed).isSome
    | _ => false

/-- R251 step 4, R342: whether a tile's context is being stopped or killed, which wakes dormant tiles. -/
def State.recalls (s : State) (t : Nat) : Bool :=
  match (s.tile t).holder with
  | some n => (s.ctx n).st == .stopping || (s.ctx n).st == .killing
  | none => false

/-- R190: whether the budget of a `wata` in which a group of a tile is parked has run out. -/
def State.spent (s : State) (t : Nat) : Bool :=
  (s.gangsOf t).any fun g => g.leaders.any fun j => (g.slice j).wait == .wata && (g.slice j).keptEnd.any fun e => decide (e ≤ s.gtc)

/-- R342: whether a wake message for a tile has come: its latch, a stop or kill of its context, a watch of one of its gangs or its budget
that has ended, or the completion of a barrier at which one of its groups waits. -/
def State.awoken (s : State) (t : Nat) : Bool :=
  (s.tile t).latch || s.recalls t || s.releases t || s.spent t || s.watches.any fun w => w.launch.isNone && w.tile == t && w.ended s.gtc

/-- Whether the tile's context is capped. -/
def State.tileCapped (s : State) (t : Nat) : Bool := ((s.tile t).holder.map fun n => (s.ctx n).capped).getD false

/-- R341: `DORMANT_REQUEST`. -/
def execDormantRequest (s : State) : Out :=
  let t := s.subject.unit
  let x := s.tile t
  if x.dorm == .active && !x.gear && x.switching.isNone && s.idle t && !s.awoken t then
    .next (s.modTile t fun x => { x with dorm := .sealing, latch := false })
  else .next s

/-- R342: `DORMANT_SEAL`: a wake message aborts the entry; otherwise the tile is dormant and L1 is empty. -/
def execDormantSeal (s : State) : Out :=
  let t := s.subject.unit
  if (s.tile t).dorm ≠ .sealing then .next s
  else if s.awoken t || !s.idle t then
    .next (s.modTile t fun x => { x with dorm := .active, latch := false }.settleGear (s.tileCapped t))
  else .next (s.modTile t fun x => { x with dorm := .dormant, l1 := [] })

/-- R342: `DORMANT_WAKE`. -/
def execDormantWake (s : State) : Out :=
  let t := s.subject.unit
  if (s.tile t).dorm == .dormant && s.awoken t then .next (s.modTile t fun x => { x with dorm := .waking }) else .next s

/-- R342, R343: `WAKE_COMPLETE`: held writes are applied, and a lift or a request switches the tile. -/
def execWakeComplete (s : State) : Out :=
  let t := s.subject.unit
  if (s.tile t).dorm != .waking || (s.cluster (clusterOf t)).relock.isSome then .next s
  else
    let s := (s.modTile t fun x => { x with dorm := .active, latch := false }).releaseTile t
    .next (s.modTile t fun x => x.settleGear (s.tileCapped t))

/-! ## Window writes (R11) -/

/-- R11, R14: `WINDOW_WRITE_ARRIVAL`: one aligned word for a tile window. -/
def execWindowWriteArrival (addr : Dword) (data : Word) (s : State) : Out :=
  let p := (addr.extractLsb' 0 48).toNat
  if isTileWindow p && p % 4 == 0 then .next (s.sendWindow addr (bytesOfNat 4 data.toNat)) else .next s

end Sys2Proof.Machine
end

