-- ==== Sys2Proof/Machine/Sha.lean ====
section
/-!
DEFINITION. SHAKE256 (FIPS 202), the digest of save areas, firmware and measurements (R247, R350, R352) and the hash of the
signatures of R350 and R353. The tables of the permutation are computed as FIPS 202 defines them.
-/

namespace Sys2Proof.Sha

/-! ## The permutation -/

/-- A state of 1,600 bits: five planes of five 64-bit lanes. -/
abbrev Cube := List (List Dword)

/-- The lane in column `x` of plane `y`, both counted round. -/
def Cube.at_ (q : Cube) (x y : Nat) : Dword := (q.getD (y % 5) []).getD (x % 5) 0

/-- A cube given lane by lane. -/
def Cube.of (f : Nat → Nat → Dword) : Cube := (List.range 5).map fun y => (List.range 5).map fun x => f x y

/-- FIPS 202, algorithm 5: the register of eight bits, shifted `t` times. -/
def register : Nat → Nat
  | 0 => 1
  | t + 1 =>
    let r := 2 * register t
    if r.testBit 8 then r ^^^ 0x171 else r

/-- FIPS 202, section 3.2.5: what round `r` puts into lane (0, 0). -/
def roundWord (r : Nat) : Dword :=
  BitVec.ofNat 64 ((List.range 7).foldl (fun w j => if (register (j + 7 * r)).testBit 0 then w + 2 ^ (2 ^ j - 1) else w) 0)

/-- FIPS 202, section 3.2.2: the lanes in the order in which their rotations are given, each with its rotation, `n` of them from
lane (x, y) and the rotation's number `t` on. -/
def walk : Nat → Nat → Nat × Nat → List ((Nat × Nat) × Nat)
  | 0, _, _ => []
  | n + 1, t, (x, y) => ((x, y), (t + 1) * (t + 2) / 2 % 64) :: walk n (t + 1) (y, (2 * x + 3 * y) % 5)

/-- The rotation of a lane; lane (0, 0) has none. -/
def turnOf (x y : Nat) : Nat :=
  (((walk 24 0 (1, 0)).find? fun e => e.1 == (x % 5, y % 5)).map Prod.snd).getD 0

/-- One round: every lane tilted by the parities of two columns and turned, moved to its new place, and joined with the two after
it in its plane. -/
def mix (q : Cube) (r : Nat) : Cube :=
  let parity := (List.range 5).map fun x => (q.map fun plane => plane.getD x 0).foldl BitVec.xor 0
  let tilted := Cube.of fun x y =>
    (q.at_ x y ^^^ parity.getD ((x + 4) % 5) 0 ^^^ (parity.getD ((x + 1) % 5) 0).rotateLeft 1).rotateLeft (turnOf x y)
  let moved := Cube.of fun x y => tilted.at_ (x + 3 * y) x
  Cube.of fun x y =>
    let w := moved.at_ x y ^^^ (moved.at_ (x + 2) y &&& ~~~moved.at_ (x + 1) y)
    if x + y = 0 then w ^^^ roundWord r else w

/-- The 24 rounds. -/
def permute (q : Cube) : Cube := (List.range 24).foldl mix q

/-! ## The sponge -/

/-- Bytes per block of SHAKE256. -/
def rate : Nat := 136

/-- Byte `i` of a state: plane by plane, lane by lane, lowest first. -/
def Cube.byte (q : Cube) (i : Nat) : Byte := (q.at_ (i / 8) (i / 40)).extractLsb' (8 * (i % 8)) 8

/-- Eight bytes of a block as a lane, those beyond its end zero. -/
def laneFrom (bs : List Byte) : Dword := BitVec.ofNat 64 ((bs.take 8).foldr (fun b n => b.toNat + 256 * n) 0)

/-- A block put over the first 136 bytes of a state, which is then permuted. -/
def absorb (q : Cube) (block : List Byte) : Cube :=
  permute (Cube.of fun x y => q.at_ x y ^^^ laneFrom (block.drop (8 * (x + 5 * y))))

/-- The bytes that end the last block: suffix 0x1F, zeros, and the block's last bit. -/
def padding (len : Nat) : List Byte :=
  match rate - 1 - len % rate with
  | 0 => [0x9F]
  | n + 1 => 0x1F :: List.replicate n 0 ++ [0x80]

def absorbAll : Nat → Cube → List Byte → Cube
  | 0, q, _ => q
  | n + 1, q, m => absorbAll n (absorb q (m.take rate)) (m.drop rate)

/-- The state after a message. -/
def sponge (m : List Byte) : Cube :=
  absorbAll (m.length / rate + 1) (Cube.of fun _ _ => 0) (m ++ padding m.length)

/-- Output of a state, at most `n` blocks. -/
def squeeze : Nat → Cube → List Byte
  | 0, _ => []
  | n + 1, q => (List.range rate).map q.byte ++ squeeze n (permute q)

/-- `n` bytes of SHAKE256 output for a message. -/
def shake (n : Nat) (m : List Byte) : List Byte := (squeeze ((n + rate - 1) / rate) (sponge m)).take n

/-- The SHAKE256 digest, 256 bits, of a message. -/
def shake256 (m : List Byte) : List Byte := (List.range 32).map (sponge m).byte

end Sys2Proof.Sha
end

