-- ==== Sys2Proof/Machine/Context.lean ====
section
/-!
DEFINITION. Contexts (spec/12_context.md R246-R258, spec/13_queue.md R266): the commands of a context's controller, start with its
checks and launcher gangs, stop and save, resume, kill, update, release.
-/

namespace Sys2Proof.Machine

/-! ## Commands (R248-R250) -/

/-- Codes of Table 12.2. -/
def CtxState.code : CtxState → Nat
  | .created => 0
  | .running => 1
  | .stopping => 2
  | .saved => 3
  | .restoring => 4
  | .killing => 5
  | .ended => 6
  | .failed => 7

/-- The place of a context's record (R247). -/
def State.recordAt (s : State) (n : Nat) : Nat := (s.boot.ctxbase.toNat + 256 * n) % 2 ^ 48

/-- R248, R250: the command a context's controller would take next: one that it holds, or else the one that stands in CMD. -/
def State.nextCmd (s : State) (n : Nat) : Word :=
  let x := s.ctx n
  match x.cmds with
  | w :: _ => if x.st == .stopping || x.st == .restoring then s.standing (s.recordAt n) else w
  | [] => s.standing (s.recordAt n)

/-- STATE of a context's record written as it stands (Table 12.1). -/
def State.showState (s : State) (n : Nat) : State :=
  let x := s.ctx n
  (s.deviceWrite (s.recordAt n + 4) (bytesOfNat 4 (x.seq * 65536 + x.err * 256 + x.st.code))).1

/-- R248: a command rejected with a code of Table 12.3. -/
def State.reject (s : State) (n code : Nat) : State := (s.modCtx n fun x => { x with err := code }).showState n

/-- R248: a context in a state, no error in STATE. -/
def State.enter (s : State) (n : Nat) (st : CtxState) : State := (s.modCtx n fun x => { x with st := st, err := 0 }).showState n

/-- Table 12.2: a context FAILED by an uncorrectable error of its save area. -/
def State.failCtx (s : State) (n : Nat) : State := (s.modCtx n fun x => { x with st := .failed, err := 0x06 }).showState n

/-- R248: CMD cleared, or the command the controller held given up. -/
def State.clearCmd (s : State) (n : Nat) (busy : Bool) : State :=
  if (s.ctx n).cmds.isEmpty || busy then (s.performAtomic deviceNo (s.recordAt n) 8 0 0).1
  else s.modCtx n fun x => { x with cmds := x.cmds.tail }

/-- R248-R250: the next command of a context taken where its code is the event's; a word of zeros is none (assumption 39). It is held
while a stop or a restore is under way, rejected by the checks of R249 (`row` says whether Table 12.2 has a row), or done. -/
def takeCommand (s : State) (mine : Nat → Bool) (row : CtxState → Bool) (k : State → Nat → State) : Out :=
  let n := s.subject.unit
  let w := s.nextCmd n
  let code := w.toNat % 16
  let st := (s.ctx n).st
  if s.boot.stage ≠ 3 || decide (64 ≤ n) || w = 0 || !mine code then .next s
  else
    let busy := st == .stopping || st == .restoring
    let s := s.clearCmd n busy
    if busy && code != 4 then .next (s.modCtx n fun x => { x with cmds := x.cmds ++ [w] })
    else
      let s := s.modCtx n fun x => { x with seq := w.toNat / 65536 }
      if code = 0 ∨ 7 ≤ code then .next (s.reject n 0x02)
      else if w &&& 0xFFF0 ≠ 0 then .next (s.reject n 0x03)
      else if !row st then .next (s.reject n 0x01)
      else .next (k s n)

/-! ## Start (R253) -/

/-- CTL of a context's record (Table 12.1): whether it is within its limits. -/
def ctlOk (w : Word) : Bool :=
  w >>> 21 == 0 && decide (16 ≤ w.toNat / 256 % 8192 ∧ w.toNat / 256 % 8192 ≤ 4096) &&
    decide (1 ≤ w.toNat / 4 % 32 ∧ w.toNat / 4 % 32 ≤ 16)

/-- CTL applied to a context (R256-R258). -/
def Ctx.withCtl (x : Ctx) (w : Word) : Ctx :=
  { x with lease := w.toNat / 256 % 8192, cap := w.getLsbD 7, share := w.toNat / 4 % 32, pri := w.toNat % 4 }

/-- Whether `n` bytes from a physical address lie in the HBM region. -/
def inHbm (a n : Nat) : Bool := decide (a + max n 1 ≤ hbmSize)

/-- The numbers of the bits set in a bit string of bytes, below a bound. -/
def bitsOf (bs : List Byte) (n : Nat) : List Nat := (List.range n).filter fun i => (bs.getD (i / 8) 0).getLsbD (i % 8)

/-- R246: whether a tile, or a bank, is held by another context. -/
def State.tileTaken (s : State) (n t : Nat) : Bool :=
  match (s.tile t).holder with
  | some m => m != n
  | none => false

def State.bankTaken (s : State) (n b : Nat) : Bool :=
  match ((s.cluster (b / 2)).bankHolder[b % 2]?).getD none with
  | some m => m != n
  | none => false

/-- Tables 12.1 and 17.3, R253, R311: whether a field of a record, or the queue it names, is outside its limits. -/
def State.recordBad (s : State) (bs : List Byte) : Bool :=
  let root := (recDword bs 8).toNat
  let save := (recDword bs 0x10).toNat
  let fq := (recDword bs 0x20).toNat
  let size := (s.homeWord s.gtc (fq + 8)).toNat
  let intv := s.homeWord s.gtc (fq + 0x0C)
  root % 65536 != 0 || !inHbm root 4096 || save % 4096 != 0 || !inHbm save (recDword bs 0x18).toNat || fq % 4096 != 0 ||
    !inHbm fq 64 || !((List.range 13).any fun k => size == 2 ^ (k + 4)) || !inHbm fq (64 + 64 * size) || intv >>> 10 != 0 ||
    decide (2 ^ 52 ≤ (recDword bs 0x28).toNat) || !ctlOk (recWord bs 0x38) || recWord bs 0x3C != 0

/-- A context as a record describes it; no round of its communicators is under way. -/
def ctxOf (x : Ctx) (size : Nat) (bs : List Byte) : Ctx :=
  { (({ seq := x.seq, slack := x.slack.anew, saves := x.saves, cmds := x.cmds } : Ctx).withCtl (recWord bs 0x38)) with
    root := (recDword bs 8).toNat, save := (recDword bs 0x10).toNat, savelen := (recDword bs 0x18).toNat
    fq := (recDword bs 0x20).toNat, fqSize := size, tbase := clearLow (recDword bs 0x28) 12, loglim := recDword bs 0x30
    banks := bitsOf ((bs.drop 0x70).take 48) 384, tiles := bitsOf ((bs.drop 0xA0).take 96) 768 }
where
  clearLow (x : Dword) (n : Nat) : Dword := x >>> n <<< n

/-- A launcher of a context's table (R266). -/
structure Launcher where
  desc : Dword
  code : Dword
  tile : Nat
  deriving DecidableEq, Repr

/-- Whether a virtual address of a context is mapped. -/
def State.mapped (s : State) (n : Nat) (a : Dword) : Bool :=
  match s.placeNow n a 0 with
  | .fault _ => false
  | .miss _ _ => false
  | _ => true

/-- R266: the launchers of a context's table; none where the `start` is to be rejected. -/
def State.launchers (s : State) (n : Nat) : Option (List Launcher) :=
  (List.range 8).foldl (fun r k => r.bind fun ls =>
    match s.readNow n ((s.ctx n).tbase + BitVec.ofNat 64 (0x800 + 32 * k)) 32 with
    | .error _ => none
    | .ok bs =>
      let desc := recDword bs 0
      let code := recDword bs 8
      if !(recWord bs 20).getLsbD 0 then some ls
      else if desc.toNat % 32 ≠ 0 ∨ code.toNat % 4 ≠ 0 ∨ recWord bs 16 >>> 10 ≠ 0 ∨ recWord bs 20 ≠ 1 ∨ recDword bs 24 ≠ 0 ∨
          !s.mapped n desc ∨ !s.mapped n code ∨ !(s.ctx n).tiles.contains (recWord bs 16).toNat then none
      else some (ls ++ [⟨desc, code, (recWord bs 16).toNat⟩])) (some [])

/-- R336: BASE of a context's log where it records one and its descriptor and pages are as they must be. -/
def State.logBase? (s : State) (n : Nat) : Option Nat :=
  let x := s.ctx n
  match s.readNow n (x.tbase + 0x3000) 32 with
  | .error _ => none
  | .ok bs =>
    let base := (recDword bs 0).toNat
    let lim := x.loglim.toNat
    let first := base / 65536
    if base % 64 ≠ 0 ∨ lim ≤ base ∨ recDword bs 24 ≠ 0 then none
    else if (List.range ((lim - 1) / 65536 + 1 - first)).all fun k =>
        match s.placeNow n (BitVec.ofNat 64 ((first + k) * 65536)) needW with
        | .at_ _ _ => true
        | .miss _ _ => true
        | _ => false then some base
    else none

/-- R306, R336: PUT and START of a context's log written as it starts. No TLB holds a translation of the context yet, so that a page with
a zero hint is cleared in the same step. -/
def State.openLog (s : State) (n : Nat) : State :=
  let a := (s.ctx n).tbase + 0x3008
  let (s, after) := s.clearNow n (tableVa a)
  match s.placeAt (max s.gtc after) n a needW with
  | .at_ loc _ => (s.storeAfter deviceNo loc (bytesOfNat 8 0 ++ bytesOfNat 8 s.gtc) after).1
  | _ => s

/-- R48: a tile taken by a context. -/
def Tile.take (t : Tile) (n : Nat) : Tile :=
  { t with
    holder := some n, gear := false, switching := none, request := none, sunk := false, lift := false, drop := 0
    stage := [], logFault := false, epoch := none, det := [] }

/-- Table 10.8: the progress words of a context's banks at their reset values. -/
def State.clearBanks (s : State) (n : Nat) : State :=
  (s.ctx n).banks.foldl (fun s b => s.modCluster (b / 2) fun k => { k with prog := k.prog.set (b % 2) 0 }) s

/-- Tiles and banks of a context taken. -/
def State.takeResources (s : State) (n : Nat) : State :=
  let x := s.ctx n
  let s := x.tiles.foldl (fun s t => s.modTile t fun y => { y with holder := some n }) s
  x.banks.foldl (fun s b => s.modCluster (b / 2) fun k => { k with bankHolder := k.bankHolder.set (b % 2) (some n) }) s

/-- Whether any tile or bank of a context is held by another (R246). -/
def State.resourcesTaken (s : State) (n : Nat) (x : Ctx) : Bool := x.tiles.any (s.tileTaken n) || x.banks.any (s.bankTaken n)

/-- R266: a launcher gang placed on its tile. -/
def State.placeLauncher (s : State) (n : Nat) (l : Launcher) : State :=
  match s.freeSlots l.tile with
  | [] => s
  | slot :: _ =>
    let (s, gen) := s.nextGen l.tile slot
    let g : Gang :=
      { tile := l.tile, slot := slot, gen := gen, ctx := n, nsl := 1, nv := 8, ns := 32, pri := (s.ctx n).pri, since := s.gtc
        slices := [{ pc := l.code }] }
    s.setGang l.tile slot (g.setS64 0 l.desc)

/-- R253: a context whose checks have passed starts. -/
def State.startCtx (s : State) (n : Nat) (ls : List Launcher) (base : Nat) : State :=
  let s := (s.ctx n).tiles.foldl (fun s t => s.modTile t fun y => y.take n) ((s.takeResources n).clearBanks n)
  let s := (s.deviceWrite (s.ctx n).fq (bytesOfNat 4 0)).1
  let s := s.modCtx n fun x => { x with logBase := base, logStart := s.gtc }
  let s := if (s.ctx n).loglim = 0 then s else s.openLog n
  let s := ls.foldl (fun s l => s.placeLauncher n l) s
  let s := (s.ctx n).clusters.foldl State.raiseCad s
  s.enter n .running

/-- R253: the checks of a `start`: what code 0x03 names comes before the length of the save area (assumption 69). -/
def State.start (s : State) (n : Nat) : State :=
  let bs := s.homeBytes s.gtc (s.recordAt n) 256
  if s.recordBad bs then s.reject n 0x03
  else
    let x := ctxOf (s.ctx n) (s.homeWord s.gtc ((recDword bs 0x20).toNat + 8)).toNat bs
    let t := ({ s with ctxs := Sparse.put s.ctxs n x }).removePage n none
    match t.launchers n, (if x.loglim = 0 then some 0 else t.logBase? n) with
    | some ls, some base =>
      if x.tiles.isEmpty || s.resourcesTaken n x then s.reject n 0x03
      else if x.savelen < 778304 * x.tiles.length + 65544 * x.banks.length then s.reject n 0x04
      else t.startCtx n ls base
    | _, _ => s.reject n 0x03

/-- R253: `CTX_START`. -/
def execCtxStart (s : State) : Out := takeCommand s (· == 1) (· == .created) State.start

/-! ## Stop and save (R251, R254) -/

/-- Table 19.4, kind 0x09: the entries of a pre-emption or its end. -/
def State.stagePreempt (s : State) (n v : Nat) : State :=
  (s.ctx n).tiles.foldl (fun s t => s.stageTile t n 0x09 v) s

/-- R251 steps 1 to 3: issue, dispatch and engines of the context stop, since it runs no more; its tiles are woken (R342). -/
def State.stop (s : State) (n : Nat) : State :=
  let s := (s.modCtx n fun x => { x with stopAt := s.gtc }).stagePreempt n 1
  let s := (s.ctx n).tiles.foldl State.wakeTile s
  s.enter n .stopping

/-- R251: `CTX_STOP`. -/
def execCtxStop (s : State) : Out := takeCommand s (· == 2) (· == .running) State.stop

/-- The gangs of a context, with their keys. -/
def State.gangsOfCtx (s : State) (n : Nat) : List (Nat × Gang) := s.gangs.filter fun g => g.2.ctx == n

/-- The launches of a context, with their numbers. -/
def State.launchesOf (s : State) (n : Nat) : List (Nat × Launch) := s.launches.filter fun l => l.2.ctx == n

/-- R337, R339: whether a tile's staged entries cannot be written: the log is full, or a page of it faults. -/
def State.stageStuck (s : State) (t n : Nat) : Bool :=
  let x := s.ctx n
  (s.tile t).logFault || decide (x.loglim.toNat < x.logBase + x.logPut + 64)

/-- R337: whether a tile of a context has entries still to be written. -/
def State.stages (s : State) (t n : Nat) : Bool := !(s.tile t).stage.isEmpty && !s.stageStuck t n

/-- R251 steps 2 and 4: whether a tile of a stopping context has come to rest. A prefetch is not waited for. -/
def State.quiet (s : State) (n t : Nat) : Bool :=
  let x := s.tile t
  x.sq.isEmpty && x.switching.isNone && x.dorm == .active && (s.cluster (clusterOf t)).relock.isNone && !s.stages t n &&
    !(s.drains.any fun d => d.entries.any fun e => e.1 == t) &&
    (s.gangsOf t).all fun g => g.pend.all (fun p => p.returned || p.engine || p.dests.isEmpty) && g.slices.all fun y => y.wait != .spill && y.wait != .refill

/-- R252: a wait as it is saved: those whose checks are made afresh begin at the instruction again; what waits in a fence has not issued
(R189). -/
def Slice.rest (x : Slice) : Slice :=
  let x := { x with ready := none }
  let anew := { x with wait := .run }
  match x.wait with
  | .issue => anew
  | .room _ => anew
  | .own _ => anew
  | .lines _ => anew
  | .window _ => anew
  | .home _ _ => anew
  | .fence _ _ => anew
  | .wata => anew
  | .walk => anew
  | .fetch => { anew with phase := 0 }
  | .drain => if x.phase = 0 then anew else x
  | _ => x

/-- R63: a gang as it is saved: off its position, every window closed (R101), its prefetches given up. -/
def Gang.rest (g : Gang) : Gang :=
  let g := { g with pend := g.pend.filter fun p => !p.dests.isEmpty }
  let g := (g.closeWindows (List.range 8)).settle
  { g with pos := none, walked := [], slices := g.slices.map Slice.rest }

/-- The saved part of a tile (Table 3.8). -/
def State.saveTile (s : State) (n t : Nat) : SavedTile :=
  let x := s.tile t
  { tile := t, gear := x.gear, sunk := x.sunk, request := x.request, allocs := x.allocs, det := x.det, drop := x.drop
    scratch := x.scratch.filter fun b => x.allocs.any fun a => decide (a.base ≤ b.1 ∧ b.1 < a.base + a.bytes)
    stage := x.stage, logFault := x.logFault, epoch := x.epoch
    gangs := ((s.gangsOfCtx n).filter fun g => g.2.tile == t).map fun g => (g.1, g.2.rest) }

/-- The saved part of an accumulator bank. -/
def State.saveBank (s : State) (b : Nat) : SavedBank :=
  let k := s.cluster (b / 2)
  { bank := b, acc := (List.range 16384).map fun i => k.accWord (b % 2 * 16384 + i), prog := k.prog.getD (b % 2) 0 }

/-- R254: B. -/
def saveSize (ts : List SavedTile) (banks : Nat) : Nat :=
  (ts.map fun t =>
    64 + (t.allocs.map Alloc.bytes).sum +
      ((t.gangs.filter fun g => !g.2.ended).map fun g => 16 * g.2.nsl * g.2.nv + 672 * g.2.nsl + 4 * g.2.ns + 512).sum).sum + 65544 * banks

/-- Tiles and banks of a context freed: gear 0, nothing of the context left (R48, Table 12.2). -/
def State.freeResources (s : State) (n : Nat) : State :=
  let x := s.ctx n
  let s := x.tiles.foldl (fun s t => s.modTile t fun y =>
    { y with
      holder := none, gear := false, switching := none, request := none, sunk := false, lift := false, allocs := [], det := []
      stage := [], logFault := false, epoch := none, l1 := [] }) s
  let s := x.banks.foldl (fun s b => s.modCluster (b / 2) fun k => { k with bankHolder := k.bankHolder.set (b % 2) none }) s
  let s := { s with
    gangs := s.gangs.filter fun g => g.2.ctx != n
    watches := s.watches.filter fun w => w.launch.isSome || !x.tiles.contains w.tile
    walks := s.walks.filter fun w => w.ctx != n }
  let s := x.clusters.foldl (fun s c => s.modCluster c fun k =>
    { k with
      resv := k.resv.filter fun e => !x.tiles.contains e.tile
      latch := match k.latch with
        | some l => if l.ctx = n then none else some l
        | none => none }) s
  s.removePage n none

/-- R251 step 5: the state of Table 3.8 written to the save area, and the record's fields. The bytes have the number of R254 and
the digest of R247; their layout is not given (assumption 6). -/
def State.save (s : State) (n : Nat) : State :=
  let x := s.ctx n
  let ts := x.tiles.map (s.saveTile n)
  let bytes := saveSize ts x.banks.length
  let image := (List.range bytes).map (Config.saveByte (n + 64 * x.saves))
  let saved : Saved := { tiles := ts, banks := x.banks.map s.saveBank, bytes := bytes }
  let s := (s.deviceWrite x.save image).1
  let s := (s.deviceWrite (s.recordAt n + 0x40)
    (bytesOfNat 8 bytes ++ bytesOfNat 8 (s.gtc - x.stopAt) ++ Sha.shake256 image)).1
  let s := s.modCtx n fun x => { x with saved := some saved, saves := x.saves + 1 }
  (s.freeResources n).enter n .saved

/-- Table 12.2: whether a line of a context's save area, of so many bytes, gives an uncorrectable error. -/
def State.saveBad (s : State) (n bytes : Nat) : Bool :=
  s.bad.any fun l => decide (lineOf (s.ctx n).save ≤ l ∧ l * 64 < (s.ctx n).save + bytes)

/-- Bytes of the save that a context's stop is to write. -/
def State.saveBytes (s : State) (n : Nat) : Nat :=
  let x := s.ctx n
  saveSize (x.tiles.map (s.saveTile n)) x.banks.length

/-! ## Resume (R252) -/

/-- R252: the checks of a `resume`; the tiles and banks retaken. A save area that cannot be read fails the restore, not the check. -/
def State.resume (s : State) (n : Nat) : State :=
  let x := s.ctx n
  let bytes := ((x.saved.map Saved.bytes).getD 0)
  if s.resourcesTaken n x then s.reject n 0x03
  else if !s.saveBad n bytes && Sha.shake256 (s.homeBytes s.gtc x.save bytes) != s.homeBytes s.gtc (s.recordAt n + 0x50) 32 then
    s.reject n 0x05
  else (x.clusters.foldl State.raiseCad (s.takeResources n)).enter n .restoring

/-- R252: `CTX_RESUME`. -/
def execCtxResume (s : State) : Out := takeCommand s (· == 3) (· == .saved) State.resume

/-- A saved tile put back: its gangs pending, its generations as saved. -/
def State.restoreTile (s : State) (t : SavedTile) : State :=
  let s := s.modTile t.tile fun x =>
    { x with
      gear := t.gear, sunk := t.sunk, request := t.request, allocs := t.allocs, det := t.det, drop := t.drop, stage := t.stage
      logFault := t.logFault, epoch := t.epoch
      scratch := t.scratch.foldl (fun m b => Sparse.write 0 m b.1 b.2)
        (x.scratch.filter fun b => !(t.allocs.any fun a => decide (a.base ≤ b.1 ∧ b.1 < a.base + a.bytes)))
      granule := t.allocs.foldl (fun m a => (List.range ((a.bytes + 4095) / 4096)).foldl (fun m i =>
        Sparse.put m (a.base / 4096 + i) (BitVec.ofNat 16 a.gen)) m) x.granule
      slotGen := t.gangs.foldl (fun m g => if g.2.slot < 32 then Sparse.put m g.2.slot g.2.gen else m) x.slotGen }
  { s with gangs := t.gangs.foldl (fun m g => Sparse.put m g.1 { g.2 with since := s.gtc }) s.gangs }

/-- A saved bank put back. -/
def State.restoreBank (s : State) (b : SavedBank) : State :=
  s.modCluster (b.bank / 2) fun k =>
    { (b.acc.mapIdx fun i w => (i, w)).foldl (fun k x => k.setAcc (b.bank % 2 * 16384 + x.1) x.2) k with
      prog := k.prog.set (b.bank % 2) b.prog }

/-- R252: everything put back, issue restarted, the replies given meanwhile applied, the caps of the last `update` enforced. -/
def State.restore (s : State) (n : Nat) (v : Saved) : State :=
  let s := v.tiles.foldl State.restoreTile s
  let s := v.banks.foldl State.restoreBank s
  let s := s.modCtx n fun x => { x with saved := none }
  let s := (s.enter n .running).stagePreempt n 0
  let rs := (s.ctx n).replies
  let s := rs.foldl (fun s r => s.applyReply r.1 r.2) (s.modCtx n fun x => { x with replies := [] })
  (s.ctx n).clusters.foldl State.raiseCad (s.settleCaps n)

/-! ## Kill (R250) -/

/-- R250, R272: a launch of a killed context marked, its phases ended without completing (R300); one still POSTED ends at once. `gone`
says that its groves stand on no tile. -/
def State.killLaunch (s : State) (n : Nat) (l : Launch) (gone : Bool) : State :=
  let s := (s.dropAfters n).modLaunch n fun l =>
    { l with state := .draining, killed := true, banner := [], members := [], placed := if gone then [] else l.placed }
  match s.launch? n with
  | some m => if l.state = .posted then s.endLaunch n m else s
  | none => s

/-- R250: the live launches of a killed context. -/
def State.killLaunches (s : State) (n : Nat) (gone : Bool) : State :=
  (s.launchesOf n).foldl (fun s l => if l.2.live then s.killLaunch l.1 l.2 gone else s) s

/-- Drains of a killed context's launches given up, their times kept (R250, R275). -/
def State.dropDrains (s : State) (n : Nat) : State :=
  let mine (d : Drain) : Bool := d.entries.any fun e => ((s.launch? e.2.launch).map fun l => l.ctx == n).getD false
  let s := (s.drains.filter mine).foldl (fun s d =>
    d.entries.foldl (fun s e => s.modLaunch e.2.launch fun l => { l with horizon := max l.horizon (d.applied.getD 0) }) s) s
  { s with drains := s.drains.filter fun d => !mine d }

/-- The engine commands of a saved context. -/
def Saved.commands (v : Saved) : List Cmd := v.tiles.flatMap fun t => t.gangs.flatMap fun g => g.2.queues.flatMap id

/-- R250: the engine commands of a context, saved ones too, discarded. -/
def State.dropCommands (s : State) (n : Nat) : State :=
  let kept := ((s.ctx n).saved.map Saved.commands).getD []
  let s := s.killFrames (kept ++ (s.gangsOfCtx n).flatMap fun g => g.2.queues.flatMap id)
  { s with
    gangs := (s.gangs.filter fun g => g.2.ctx != n || decide (g.2.slot < 32)).map fun g =>
      (g.1, if g.2.ctx = n then { g.2 with queues := [[], [], [], []] } else g.2) }

/-- R250: the replies that a killed context's records await are awaited no more, its saved state goes, and so do the rounds of its
collectives. -/
def Ctx.forget (x : Ctx) : Ctx :=
  { x with await := [], replies := [], saved := none, posts := x.posts.filter fun r => !r.awaits, slack := x.slack.anew }

/-- R275: what the saved gangs of a context have stored taken up by their launches. -/
def State.foldSaved (s : State) (n : Nat) : State :=
  match (s.ctx n).saved with
  | none => s
  | some v => (v.tiles.flatMap SavedTile.gangs).foldl (fun s x =>
      s.modLaunchOf x.2.launch fun l => { l with horizon := max l.horizon x.2.horizon, dom := l.dom || x.2.domStored }) s

/-- R250, R342: the gangs of a killed context ended: on a tile that is dormant or waking at its exit, behind what is held for it. -/
def State.killGang (s : State) (n : Nat) (g : Gang) : State :=
  if !(s.tile g.tile).asleep then s.endGang g.tile g.slot
  else
    s.modTile g.tile fun t => { t with held := if t.held.contains (.kill n) then t.held else t.held ++ [.kill n] }

/-- R250: every gang of a context stopped and ended, its commands and held atomics discarded, its launches killed. -/
def State.killWork (s : State) (n : Nat) (gone : Bool) : State :=
  let s := (s.ctx n).tiles.foldl (fun s t => s.modTile t fun x => { x with det := [] }) (((s.foldSaved n).dropCommands n).dropDrains n)
  let s := s.killLaunches n gone
  let s := (s.gangsOfCtx n).foldl (fun s g => s.killGang n g.2) s
  (s.ctx n).tiles.foldl State.wakeTile (s.modCtx n Ctx.forget)

/-- R250, Table 12.2: a `kill`; a SAVED context is ENDED at once. What is being restored stands on no tile yet. -/
def State.kill (s : State) (n : Nat) : State :=
  match (s.ctx n).st with
  | .saved => ((((s.foldSaved n).dropCommands n).killLaunches n true).modCtx n Ctx.forget).enter n .ended
  | .restoring => (s.killWork n true).enter n .killing
  | _ => (s.killWork n false).enter n .killing

/-- R250: `CTX_KILL`. -/
def execCtxKill (s : State) : Out :=
  takeCommand s (· == 4) (fun st => st == .running || st == .stopping || st == .restoring || st == .saved) State.kill

/-- R248: whether a killed context's gangs have ended, their entries logged and their groves retired, and its tiles have come to rest. -/
def State.killDone (s : State) (n : Nat) : Bool :=
  (s.gangsOfCtx n).isEmpty && (s.ctx n).tiles.all fun t =>
    (s.tile t).sq.isEmpty && (s.tile t).switching.isNone && (s.tile t).dorm == .active && !s.stages t n

/-- R248: `CTX_KILL_COMPLETE`: tiles and banks are freed. -/
def execCtxKillComplete (s : State) : Out :=
  let n := s.subject.unit
  if (s.ctx n).st ≠ .killing ∨ !s.killDone n then .next s else .next ((s.freeResources n).enter n .ended)

/-! ## The ends of a stop and of a restore (R251, R252) -/

/-- R228, R285: every allocation of a tile freed, the counters of its granules advanced. -/
def Tile.freeAll (t : Tile) : Tile := t.allocs.foldl (fun t a => t.freeGrove a.launch a.grove) t

/-- Table 12.2: a stop or a restore whose save area fails: the work is discarded as for a kill, and the groves that stand on tiles retire
(R285). -/
def State.loseSave (s : State) (n : Nat) : State :=
  let s := s.killWork n true
  let s := ((s.ctx n).tiles.filter fun t => (s.tile t).holder == some n).foldl (fun s t => s.modTile t Tile.freeAll) s
  (s.freeResources n).failCtx n

/-- R251: `CTX_SAVE_COMPLETE`: everything has come to rest, and no window is left open (R101). -/
def execCtxSaveComplete (s : State) : Out :=
  let n := s.subject.unit
  if (s.ctx n).st ≠ .stopping ∨ s.windowsLeft n ∨ !(s.ctx n).tiles.all (s.quiet n) then .next s
  else if s.saveBad n (s.saveBytes n) then .next (s.loseSave n)
  else .next (s.save n)

/-- R252: `CTX_RESTORE_COMPLETE`. -/
def execCtxRestoreComplete (s : State) : Out :=
  let n := s.subject.unit
  match (s.ctx n).st, (s.ctx n).saved with
  | .restoring, some v => if s.saveBad n v.bytes then .next (s.loseSave n) else .next (s.restore n v)
  | _, _ => .next s

/-! ## Update and release (R256-R258) -/

/-- R256-R258: CTL read and applied; in SAVED it takes effect with the resume. -/
def State.update (s : State) (n : Nat) : State :=
  let w := s.homeWord s.gtc (s.recordAt n + 0x38)
  if !ctlOk w then s.reject n 0x03
  else if (s.ctx n).st = .saved then (s.modCtx n fun x => { x.withCtl w with err := 0 }).showState n
  else (s.changeCtx n fun x => { x.withCtl w with err := 0 }).showState n

/-- R256: `CTX_UPDATE`. -/
def execCtxUpdate (s : State) : Out := takeCommand s (· == 5) (fun st => st == .running || st == .saved) State.update

/-- R248: `CTX_RELEASE`; the reserved command codes are answered here too. -/
def execCtxRelease (s : State) : Out :=
  takeCommand s (fun c => c == 6 || c == 0 || decide (7 ≤ c)) (fun st => st == .ended || st == .failed) fun s n => s.enter n .created

end Sys2Proof.Machine
end

