-- ==== Sys2Proof/Machine/Links.lean ====
section
/-!
DEFINITION. The replay log's lines (spec/19_determinism.md R337), the states of the links with their status words and held interrupts
(spec/18_link.md R316, R317, R320), and traffic that is lost (R319).
-/

namespace Sys2Proof.Machine

/-! ## Log lines (R337, R339) -/

/-- Up to four entries as one 64-byte line; unused entries have kind 0. -/
def logLine (es : List LogEntry) : List Byte := (List.range 4).flatMap fun k => bytesOfNat 16 (es.getD k 0).toNat

/-- R337: a tile's first entries, at most four, written as one line at BASE + PUT, then PUT as a release. Without room below
LOGLIM nothing is written; a line whose page faults is noted (R339), and one whose page has a zero hint waits for its clearing (R306). -/
def State.writeLine (s : State) (t n : Nat) : State :=
  let x := s.ctx n
  let a := x.logBase + x.logPut
  if x.loglim.toNat < a + 64 then s
  else
    match s.placeNow n (BitVec.ofNat 64 a) needW, s.placeNow n (x.tbase + 0x3008) needW with
    | .at_ loc _, put =>
      match put with
      | .miss va _ => s.askClear n va t
      | _ =>
        if !s.carries loc then s
        else
          let (s, w) := s.deviceWrite loc (logLine ((s.tile t).stage.take 4))
          let s := s.modCtx n fun x => { x with logPut := x.logPut + 64 }
          let s := match put with
            | .at_ loc _ => (s.storeAfter deviceNo loc (bytesOfNat 8 (x.logPut + 64)) (sysWait w)).1
            | _ => s
          s.modTile t fun y => { y with stage := y.stage.drop 4, logFault := false }
    | .miss va _, _ => s.askClear n va t
    | _, _ => s.modTile t fun y => { y with logFault := true }

/-- R337: `LOG_LINE_WRITE`: a full group. -/
def execLogLineWrite (s : State) : Out :=
  let t := s.subject.unit
  match (s.tile t).holder with
  | none => .next s
  | some n => if 4 ≤ (s.tile t).stage.length then .next (s.writeLine t n) else .next s

/-- R337: `LOG_GROUP_TIMEOUT`: a partial group, 10 µs after its first entry. -/
def execLogGroupTimeout (s : State) : Out :=
  let t := s.subject.unit
  match (s.tile t).holder, (s.tile t).stage with
  | some n, e :: rest =>
    if rest.length < 3 ∧ 10000 ≤ (s.gtc + 2 ^ 48 - e.toNat % 2 ^ 48) % 2 ^ 48 then .next (s.writeLine t n) else .next s
  | _, _ => .next s

/-! ## Link states (R316, R317) -/

/-- Lanes of a link (Table 18.1). -/
def linkLanes (n : Nat) : Nat := if n = 0 then 16 else 8

/-- The links of Table 18.1. -/
def isLink (n : Nat) : Bool := decide (n < 29)

def LinkState.code : LinkState → Nat
  | .down => 0
  | .training => 1
  | .up => 2
  | .degraded => 3

/-- Table 18.3: a link's status word. -/
def Link.word (l : Link) : Nat := l.st.code + l.lanes % 256 * 256 + min l.retr 255 * 65536 + min l.errs 255 * 2 ^ 24

/-- R317: a link's word rewritten, once the boot firmware has reported the block. -/
def State.showLink (s : State) (n : Nat) : State :=
  if s.boot.stage ≠ 3 then s
  else (s.deviceWrite ((s.boot.lnkbase.toNat + 4 * n) % 2 ^ 48) (bytesOfNat 4 (s.link n).word)).1

/-- R320: held interrupts delivered. -/
def State.deliverIrqs (s : State) : State := { s with sent := s.sent ++ s.irqs, irqs := [] }

/-- A link in a state with a number of usable lanes, from now on. -/
def State.setLink (s : State) (n : Nat) (st : LinkState) (lanes : Nat) : State :=
  let l := s.link n
  let up := st == .up || st == .degraded
  let l' : Link :=
    { l with
      st := st, lanes := lanes, since := if l.st = st then l.since else s.gtc
      lost := if up then false else l.lost || st == .down
      retr := if st = .training then min (l.retr + 1) 255 else l.retr }
  let s := ({ s with links := Sparse.put s.links n l' }).showLink n
  if n = 0 && up then s.deliverIrqs else s

/-! ## Lost traffic (R319) -/

/-- R319: the wait of a slice's group for what is lost ends in a machine check. -/
def State.lostCheck (s : State) (g : Gang) (j : Nat) (tval : Dword) : State :=
  if g.ended then s
  else
    let c : Cur := ⟨g.tile, g.slot, if (g.slice j).live then (g.group j).headD j else g.liveSlices.headD 0⟩
    s.trap c (g.frontTrap c 0x0F tval)

/-- A load that waits for lost lines. -/
def Pend.lostLoad (p : Pend) (lost : Nat → Bool) : Bool := !p.returned && p.load.any fun l => l.need.any fun n => lost (n * 64)

/-- A gang's atomics that are lost. -/
def State.lostAtomics (s : State) (lost : Nat → Bool) (g : Gang) : List SqEntry :=
  (s.tile g.tile).sq.filter fun e => e.ofGang g && lost (e.line * 64) && match e.req with
    | .atomic _ _ _ _ _ _ => true
    | _ => false

/-- The result that a lost atomic owes. -/
def SqEntry.owed (e : SqEntry) : Option Nat :=
  match e.req with
  | .atomic _ _ _ _ p _ => p
  | _ => none

/-- The first store or atomic of a gang that a fence of a scope, with its mark, waits for and whose completion will not come: one on its
way, or a store that the host has not acknowledged; its place in its tile's order, and its address. -/
def State.lostStore (s : State) (host : Bool) (lost : Nat → Bool) (g : Gang) (scope mark : Nat) : Option Dword :=
  let moving := (((s.tile g.tile).sq.filter fun e => e.ofGang g && e.w.isNone && lost (e.line * 64)).map fun e => (e.seq, e.addr))
  let unacked := (s.hostStores.filter fun h => h.tile == g.tile && h.slot == g.slot && h.gen == g.gen).map fun h => (h.seq, h.addr)
  let all := if !host then (if scope < 2 then [] else moving) else if scope = 4 then moving ++ unacked else []
  ((all.filter fun x => decide (x.1 < mark)).foldl (fun b x => match b with
    | some y => if x.1 < y.1 then some x else some y
    | none => some x) none).map Prod.snd

/-- R319: what a gang waits for and has lost: a load, the result of an atomic, or a store or atomic of a fence; the slice whose group
waits, and the address. A gang takes one check, in this order (assumption 46). -/
def State.lostWait (s : State) (host : Bool) (lost : Nat → Bool) (g : Gang) : Option (Nat × Dword) :=
  let load := (g.pend.find? fun p => p.lostLoad lost && !p.dests.isEmpty).map fun p =>
    (p.slices.headD 0, ((p.load.bind fun l => l.lanes.find? fun x => x.loc.any lost).map LaneAt.addr).getD 0)
  let atomic := (s.lostAtomics lost g).findSome? fun e =>
    (g.pend.find? fun p => e.owed == some p.id).map fun p => (p.slices.headD 0, e.addr)
  let fence := g.leaders.findSome? fun j => match (g.slice j).wait with
    | .fence scope _ => (s.lostStore host lost g scope (g.slice j).mark.1).map fun a => (j, a)
    | _ => none
  (load.orElse fun _ => atomic).orElse fun _ => fence

/-- R319: the loads and atomics of a gang that are lost are gone, and the gang that waited for one takes a machine check. -/
def State.loseOf (s : State) (host : Bool) (lost : Nat → Bool) (g : Gang) : State :=
  let gone := s.lostAtomics lost g
  let s' := s.modTile g.tile fun t => { t with sq := t.sq.filter fun e => !gone.contains e }
  let h := { g with pend := g.pend.filter fun p => !(p.lostLoad lost || gone.any fun e => e.owed == some p.id) }
  let s' := s'.setGang g.tile g.slot h
  match s.lostWait host lost g with
  | some (j, a) => s'.lostCheck h j a
  | none => s'

/-- R316, R319: traffic in flight is lost: gangs that wait for it take machine checks, and requests that have not reached their home are
gone. Stores that had reached it stand. -/
def State.loseTraffic (s : State) (host : Bool) (lost : Nat → Bool) : State :=
  let s := (s.gangs.map Prod.fst).foldl (fun s k => match Sparse.find? s.gangs k with
    | some g => if g.slot < 32 then s.loseOf host lost g else s
    | none => s) s
  { s with
    hostStores := if host then [] else s.hostStores
    tiles := s.tiles.map fun t => (t.1, { t.2 with sq := t.2.sq.filter fun e => !(lost (e.line * 64) && e.w.isNone) }) }

/-- R319: GortyLink has entered DOWN. -/
def State.loseHost (s : State) : State := s.loseTraffic true isHost

/-- R316, R322: no route to another device is left: the collectives that need one of the domain end as an engine's unit does. -/
def State.loseDomain (s : State) : State :=
  (s.loseTraffic false isRemote).losePeers fun w => w / 2 ^ 14 == s.domain && w % 2 ^ 14 != s.devnum

end Sys2Proof.Machine
end

