-- ==== Sys2Proof/Machine/Slh.lean ====
section
/-!
DEFINITION. SLH-DSA-SHAKE-256s (FIPS 205, pure mode, empty context string): the signatures of R350 and R353. The spec names the
scheme; its construction is taken from FIPS 205 (assumption 8).
-/

namespace Sys2Proof.Slh

/-! ## Parameters: n = 32, h = 64, d = 8, h' = 8, a = 14, k = 22, w = 16 -/

/-- Bytes of a hash value; layers and their height; trees of a few-time key and their height; chains of a one-time key. -/
def n : Nat := 32
def layers : Nat := 8
def height : Nat := 8
def trees : Nat := 22
def treeHeight : Nat := 14
def chains : Nat := 67

/-- Bytes of a signature: the randomiser, the few-time part, and a one-time part and a path for each layer. -/
def sigBytes : Nat := n * (1 + trees * (1 + treeHeight) + layers * (chains + height))

/-- Bytes of a public key: its seed and its root. -/
def keyBytes : Nat := 2 * n

/-! ## Bytes and addresses -/

/-- A number in `len` bytes, the highest first. -/
def bigEndian (len x : Nat) : List Byte := (List.range len).map fun i => BitVec.ofNat 8 (x / 256 ^ (len - 1 - i))

/-- The number that bytes stand for, the highest first. -/
def numberOf (bs : List Byte) : Nat := bs.foldl (fun x b => 256 * x + b.toNat) 0

/-- The first `count` digits of `bits` bits of a byte string, the highest first. -/
def digits (bs : List Byte) (bits count : Nat) : List Nat :=
  (List.range count).map fun i => numberOf bs / 2 ^ (8 * bs.length - bits * (i + 1)) % 2 ^ bits

/-- Where in the structure a hash is computed: layer, tree, kind of use, and three words whose meaning the kind gives. -/
structure Spot where
  layer : Nat := 0
  tree : Nat := 0
  kind : Nat := 0
  key : Nat := 0
  level : Nat := 0
  index : Nat := 0
  deriving DecidableEq, Repr

/-- The 32 bytes of an address. -/
def Spot.bytes (p : Spot) : List Byte :=
  bigEndian 4 p.layer ++ bigEndian 12 p.tree ++ bigEndian 4 p.kind ++ bigEndian 4 p.key ++ bigEndian 4 p.level ++ bigEndian 4 p.index

/-- The hash of a message at a spot under a public seed. -/
def hash (seed : List Byte) (p : Spot) (m : List Byte) : List Byte := Sha.shake256 (seed ++ p.bytes ++ m)

/-! ## Trees -/

/-- The root of a binary tree of height `z` whose leaves from `i * 2^z` on `leaf` gives; `join` makes a node of a level and index. -/
def rootOf (leaf : Nat → List Byte) (join : Nat → Nat → List Byte → List Byte) : Nat → Nat → List Byte
  | 0, i => leaf i
  | z + 1, i => join (z + 1) i (rootOf leaf join z (2 * i) ++ rootOf leaf join z (2 * i + 1))

/-- The node above a leaf that a path leads to: at each level the neighbour stands left of an odd node and right of an even one. -/
def climb (join : Nat → Nat → List Byte → List Byte) (i : Nat) (leaf : List Byte) (path : List (List Byte)) : List Byte :=
  (path.mapIdx fun j x => (j, x)).foldl (fun node e =>
    join (e.1 + 1) (i / 2 ^ (e.1 + 1)) (if i / 2 ^ e.1 % 2 = 0 then node ++ e.2 else e.2 ++ node)) leaf

/-- The path of leaf `i` in a tree of a height: the neighbour at each level. -/
def pathOf (leaf : Nat → List Byte) (join : Nat → Nat → List Byte → List Byte) (z i : Nat) : List (List Byte) :=
  (List.range z).map fun j => rootOf leaf join j (i / 2 ^ j ^^^ 1)

/-- A byte string cut into `count` hash values. -/
def cut (bs : List Byte) (count : Nat) : List (List Byte) := (List.range count).map fun i => (bs.drop (n * i)).take n

/-! ## One-time keys -/

/-- `count` steps along a chain from step `i`. -/
def chain (seed : List Byte) (p : Spot) (x : List Byte) (i : Nat) : Nat → List Byte
  | 0 => x
  | c + 1 => hash seed { p with index := i + c } (chain seed p x i c)

/-- The chain lengths of a message: its 64 digits, and three of their checksum. -/
def lengths (m : List Byte) : List Nat :=
  let ds := digits m 4 64
  ds ++ digits (bigEndian 2 (16 * (ds.map fun x => 15 - x).sum)) 4 3

/-- The secret start of chain `i` of a one-time key. -/
def chainStart (secret seed : List Byte) (p : Spot) (i : Nat) : List Byte :=
  hash seed { p with kind := 5, level := i, index := 0 } secret

/-- The public value of a one-time key from the ends of its chains. -/
def packChains (seed : List Byte) (p : Spot) (ends : List (List Byte)) : List Byte :=
  hash seed { p with kind := 1, level := 0, index := 0 } ends.flatten

/-- The public value of the one-time key of leaf `i` at a spot. -/
def oneTime (secret seed : List Byte) (p : Spot) (i : Nat) : List Byte :=
  let p := { p with kind := 0, key := i }
  packChains seed p ((List.range chains).map fun c => chain seed { p with level := c } (chainStart secret seed p c) 0 15)

/-- A message signed with a one-time key. -/
def oneTimeSign (secret seed : List Byte) (p : Spot) (m : List Byte) : List (List Byte) :=
  (lengths m).mapIdx fun c x => chain seed { p with kind := 0, level := c } (chainStart secret seed p c) 0 x

/-- The public value that a one-time signature of a message leads to. -/
def oneTimeFrom (seed : List Byte) (p : Spot) (m : List Byte) (sig : List (List Byte)) : List Byte :=
  packChains seed p ((lengths m).mapIdx fun c x => chain seed { p with kind := 0, level := c } (sig.getD c []) x (15 - x))

/-! ## The tree of trees -/

/-- A node of a layer's tree. -/
def joinAt (seed : List Byte) (p : Spot) (z i : Nat) (m : List Byte) : List Byte :=
  hash seed { p with kind := 2, key := 0, level := z, index := i } m

/-- The root of a layer's tree. -/
def layerRoot (secret seed : List Byte) (p : Spot) : List Byte := rootOf (oneTime secret seed p) (joinAt seed p) height 0

/-- A message signed at a leaf of a layer's tree: the one-time signature and the leaf's path. -/
def layerSign (secret seed : List Byte) (p : Spot) (leaf : Nat) (m : List Byte) : List (List Byte) :=
  oneTimeSign secret seed { p with key := leaf } m ++ pathOf (oneTime secret seed p) (joinAt seed p) height leaf

/-- The root that a layer's signature of a message leads to. -/
def layerFrom (seed : List Byte) (p : Spot) (leaf : Nat) (m : List Byte) (sig : List (List Byte)) : List Byte :=
  climb (joinAt seed p) leaf (oneTimeFrom seed { p with key := leaf } m (sig.take chains)) (sig.drop chains)

/-- The spot of a layer, and the leaf there, over tree `tree` and leaf `leaf` of the lowest. -/
def spotOf (tree leaf j : Nat) : Spot × Nat :=
  ({ layer := j, tree := tree / 2 ^ (height * j) }, if j = 0 then leaf else tree / 2 ^ (height * (j - 1)) % 2 ^ height)

/-- A message signed through every layer: each signs the root of the tree below it. -/
def towerSign (secret seed : List Byte) (tree leaf : Nat) (m : List Byte) : List (List Byte) :=
  ((List.range layers).foldl (fun r j =>
    let (p, i) := spotOf tree leaf j
    let sig := layerSign secret seed p i r.2
    (r.1 ++ sig, layerFrom seed p i r.2 sig)) (([] : List (List Byte)), m)).1

/-- The topmost root that a signature of a message leads to. -/
def towerFrom (seed : List Byte) (tree leaf : Nat) (m : List Byte) (sig : List (List Byte)) : List Byte :=
  (List.range layers).foldl (fun m j =>
    let (p, i) := spotOf tree leaf j
    layerFrom seed p i m ((sig.drop (j * (chains + height))).take (chains + height))) m

/-! ## Few-time keys -/

/-- A secret leaf of the few-time trees, a leaf, and a node. -/
def fewSecret (secret seed : List Byte) (p : Spot) (i : Nat) : List Byte := hash seed { p with kind := 6, level := 0, index := i } secret

def fewLeaf (seed : List Byte) (p : Spot) (i : Nat) (x : List Byte) : List Byte := hash seed { p with kind := 3, level := 0, index := i } x

def fewJoin (seed : List Byte) (p : Spot) (z i : Nat) (m : List Byte) : List Byte := hash seed { p with kind := 3, level := z, index := i } m

/-- The leaf that each few-time tree opens for a digest. -/
def opened (md : List Byte) : List Nat := (digits md treeHeight trees).mapIdx fun i x => i * 2 ^ treeHeight + x

/-- A digest signed with a few-time key: a secret leaf and its path for each tree. -/
def fewSign (secret seed : List Byte) (p : Spot) (md : List Byte) : List (List Byte) :=
  let leaf (i : Nat) : List Byte := fewLeaf seed p i (fewSecret secret seed p i)
  (opened md).flatMap fun i => fewSecret secret seed p i :: pathOf leaf (fewJoin seed p) treeHeight i

/-- The public value that a few-time signature of a digest leads to. -/
def fewFrom (seed : List Byte) (p : Spot) (md : List Byte) (sig : List (List Byte)) : List Byte :=
  let roots := (opened md).mapIdx fun t i =>
    let part := (sig.drop (t * (treeHeight + 1))).take (treeHeight + 1)
    climb (fewJoin seed p) i (fewLeaf seed p i (part.headD [])) part.tail
  hash seed { p with kind := 4, level := 0, index := 0 } roots.flatten

/-! ## Keys and signatures -/

/-- The secret half of a key pair: two secret seeds and the public seed. -/
structure Secret where
  seed : List Byte
  prf : List Byte
  pub : List Byte
  deriving DecidableEq, Repr

/-- The public key of a secret: the public seed and the root of the topmost tree. -/
def publicKey (k : Secret) : List Byte := k.pub ++ layerRoot k.seed k.pub { layer := layers - 1 }

/-- What a randomiser, a public key and a message select: the digest of the few-time key, the tree and the leaf. -/
def select (r key m : List Byte) : List Byte × Nat × Nat :=
  let d := Sha.shake 47 (r ++ key ++ m)
  (d.take 39, numberOf ((d.drop 39).take 7) % 2 ^ 56, numberOf (d.drop 46) % 2 ^ height)

/-- The message as pure mode signs it: the mode's byte and an empty context string before it. -/
def framed (m : List Byte) : List Byte := [0, 0] ++ m

/-- The signature of a message; `extra` is the randomness that the signer adds. -/
def sign (k : Secret) (extra m : List Byte) : List Byte :=
  let r := Sha.shake256 (k.prf ++ extra ++ framed m)
  let (md, tree, leaf) := select r (publicKey k) (framed m)
  let p : Spot := { tree := tree, key := leaf }
  let few := fewSign k.seed k.pub p md
  r ++ (few ++ towerSign k.seed k.pub tree leaf (fewFrom k.pub p md few)).flatten

/-- Whether a signature of a message verifies under a public key. -/
def verify (key m sig : List Byte) : Bool :=
  if sig.length ≠ sigBytes ∨ key.length ≠ keyBytes then false
  else
    let parts := cut sig (sigBytes / n)
    let seed := key.take n
    let (md, tree, leaf) := select (parts.headD []) key (framed m)
    let few := trees * (treeHeight + 1)
    towerFrom seed tree leaf (fewFrom seed { tree := tree, key := leaf } md (parts.tail.take few)) (parts.tail.drop few) == key.drop n

end Sys2Proof.Slh
end

