-- ==== Sys2Proof/Machine/BootBlock.lean ====
section
/-!
DEFINITION. Boot, measurements and attestation (spec/21_boot_security.md R350-R354), and the configuration space in which the host reads
and writes them.
-/

namespace Sys2Proof.Machine

/-! ## Measurements (R352) -/

/-- R352: one measurement register extended. -/
def extended (old d : List Byte) : List Byte := Sha.shake256 (old ++ d)

def Boot.extend (b : Boot) (i : Nat) (d : List Byte) : Boot := { b with mr := b.mr.modify i fun old => extended old d }

/-! ## Boot (R350) -/

/-- Bytes of a key and of a signature (R350 step 4). -/
def keyBytes : Nat := 64
def sigBytes : Nat := 29792

/-- R350 steps 2 to 5: the error code of an image, 0 where every step passes. A key or signature of another length counts as a
malformed header (assumption 8). -/
def imageCode (header body sig : List Byte) : Nat :=
  match Config.headerFields header with
  | none => 0x02
  | some (svn, key) =>
    if key.length ≠ keyBytes ∨ sig.length ≠ sigBytes then 0x02
    else if Sha.shake256 key ≠ Config.fusedKeyHash then 0x03
    else if !Slh.verify key (header ++ body) sig then 0x04
    else if svn.ult Config.fusedMinSvn then 0x05
    else 0

/-- A list brought to a length. -/
def fit (n : Nat) (bs : List Byte) : List Byte := (List.range n).map fun i => bs.getD i 0

/-- R350 step 8: the secret half of the identity key pair of an SVN. -/
def identity (svn : Word) : Slh.Secret :=
  let part (k : Nat) : List Byte := fit Slh.n (Config.identitySeed Config.deviceSecret svn k)
  { seed := part 0, prf := part 1, pub := part 2 }

/-- R350 steps 6 to 9: the boot block of a device whose firmware runs. -/
def booted (svn : Word) (header body sig : List Byte) : Boot :=
  let b : Boot :=
    { stage := 3, svn := svn, ctxbase := Config.ctxBase, lnkbase := Config.lnkBase, pwrbase := Config.pwrBase
      idkey := Slh.publicKey (identity svn) }
  (b.extend 0 (Sha.shake256 (header ++ body ++ sig))).extend 1 (Sha.shake256 header)

/-- A context's slack record written as the device holds it (Table 20.4). -/
def State.showRecord (s : State) (n : Nat) : State :=
  if s.boot.stage ≠ 3 then s
  else (s.deviceWrite (s.boot.slackAt n) (s.ctx n).slack.bytes).1

/-- R350: the words of the blocks that the firmware reports, written as they stand: link status (R317), cluster power and slack records
(R344, assumption 7). -/
def State.showBlocks (s : State) : State :=
  (List.range 64).foldl State.showRecord ((List.range 192).foldl State.showPower ((List.range 29).foldl State.showLink s))

/-- A boot block with what the host holds out and has written: the image, and its fields of the mailbox (Table 21.4). -/
def Boot.hostOf (b old : Boot) : Boot :=
  { b with
    image := old.image, mbNew := old.mbNew, mbReq := old.mbReq, mbIdx := old.mbIdx, mbArg := old.mbArg, mbDest := old.mbDest }

/-- R350 steps 2 to 9: the ROM takes the image that the host has offered, once GortyLink has trained; without one it waits. -/
def State.romBoot (s : State) : State :=
  if s.boot.stage ≠ 0 || !s.hostUp then s
  else
    match s.boot.image with
    | none => s
    | some (header, body, sig) =>
      let code := imageCode header body sig
      if code ≠ 0 then { s with boot := Boot.hostOf { stage := 15, err := code } s.boot }
      else
        let svn := ((Config.headerFields header).map Prod.fst).getD 0
        State.showBlocks { s with boot := (booted svn header body sig).hostOf s.boot }

/-- What outlasts a reset: GTC (assumption 2), memory with its faults, the device's numbers, its surroundings, and the image that the
host holds out. -/
def State.afterReset (s : State) : State :=
  { State.reset with
    gtc := s.gtc, subject := s.subject, agenda := s.agenda, devnum := s.devnum, domain := s.domain, mem := s.mem, bad := s.bad, peers := s.peers
    boot := { image := s.boot.image } }

/-- R350: `DEVICE_RESET`: reset and boot. A subject's part other than 0 says that training fails. -/
def execDeviceReset (s : State) : Out :=
  let r := s.afterReset
  if s.subject.part ≠ 0 then .next { r with boot := { stage := 15, err := 1, image := s.boot.image } }
  else .next (r.setLink 0 .training 0 |>.setLink 0 .up 16).romBoot

/-! ## The configuration space (R351, R353) -/

/-- R353: IDHASH; zero until the firmware has written the boot block. -/
def Boot.idhash (b : Boot) : List Byte := if b.stage = 3 then Sha.shake256 b.idkey else List.replicate 32 0

/-- Table 21.1: BSTAT. -/
def Boot.bstat (b : Boot) : Nat := b.stage % 16 + b.err % 256 * 256

/-- Table 21.1: the boot block, 128 bytes. -/
def Boot.block (b : Boot) : List Byte :=
  bytesOfNat 4 b.bstat ++ bytesOfNat 4 b.svn.toNat ++ bytesOfNat 8 b.ctxbase.toNat ++ bytesOfNat 8 b.lnkbase.toNat ++
    bytesOfNat 8 b.pwrbase.toNat ++ b.idhash ++ b.idkey

/-- Table 21.4: the mailbox, 64 bytes. -/
def Boot.mailbox (b : Boot) : List Byte :=
  bytesOfNat 4 b.mbReq.toNat ++ bytesOfNat 4 b.mbAck.toNat ++ bytesOfNat 4 b.mbIdx.toNat ++ bytesOfNat 4 0 ++ b.mbArg ++
    bytesOfNat 8 b.mbDest.toNat ++ bytesOfNat 8 0

/-- The bytes of the configuration space from an offset on; what no table holds reads zero (assumption 8). -/
def Boot.read (b : Boot) (off n : Nat) : List Byte :=
  (List.range n).map fun k =>
    let o := off + k
    if o < 0x100 then b.block.getD o 0 else b.mailbox.getD (o - 0x100) 0

/-- The mailbox's DEST with one of its words, or all of it, written. -/
def destWrite (d value : Dword) (off width : Nat) : Dword :=
  if width = 8 then value
  else if off = 0 then (d >>> 32 <<< 32) ||| (value &&& 0xFFFFFFFF)
  else (d &&& 0xFFFFFFFF) ||| ((value &&& 0xFFFFFFFF) <<< 32)

/-- A host write at an offset of the configuration space; the boot block and ACK are the device's, and bits marked zero stay zero. -/
def Boot.write (b : Boot) (off : Nat) (value : Dword) (width : Nat) : Boot :=
  if off = 0x100 then { b with mbReq := value.extractLsb' 0 32, mbNew := true }
  else if off = 0x108 then { b with mbIdx := value.extractLsb' 0 32 &&& 7 }
  else if 0x110 ≤ off ∧ off < 0x130 then
    { b with mbArg := b.mbArg.mapIdx fun i x =>
        if off - 0x110 ≤ i ∧ i < off - 0x110 + width then value.extractLsb' (8 * (i - (off - 0x110))) 8 else x }
  else if off = 0x130 ∨ off = 0x134 then { b with mbDest := destWrite b.mbDest value (off - 0x130) width }
  else b

/-! ## The mailbox (R353, R354) -/

/-- R353: ACK of a request. -/
def Boot.ack (b : Boot) (req : Word) (code : Nat) : Boot := { b with mbAck := req &&& 0xFFFF0000 ||| BitVec.ofNat 32 (code * 256) }

/-- A mailbox request of a code taken, once the device is ready and no report is under way. -/
def takeMail (s : State) (mine : Nat → Bool) (k : Boot → Word → Boot) : Out :=
  let w := s.boot.mbReq
  if s.boot.stage ≠ 3 ∨ !s.boot.mbNew ∨ s.boot.report.isSome ∨ !mine (w.toNat % 16) then .next s
  else .next { s with boot := k { s.boot with mbReq := 0, mbNew := false } w }

/-- R353: `MB_EXTEND`. -/
def execMbExtend (s : State) : Out :=
  takeMail s (· == 1) fun b w =>
    let i := b.mbIdx.toNat % 8
    if w &&& 0xFFF0 ≠ 0 then b.ack w 2
    else if i < 2 then b.ack w 1
    else (b.extend i b.mbArg).ack w 0

/-- Bytes of a report before its signature (Table 21.3). -/
def reportBytes : Nat := 0x150

/-- Table 21.3: bytes 0x000 to 0x14F of a report. -/
def Boot.message (b : Boot) (now : Nat) : List Byte :=
  bytesOfNat 4 1 ++ bytesOfNat 4 b.svn.toNat ++ bytesOfNat 8 now ++ b.idhash ++ b.mbArg ++ b.mr.flatten

/-- Table 21.3: a report, signed with the identity key at a time. -/
def Boot.signed (b : Boot) (message : List Byte) (now : Nat) : List Byte :=
  message ++ Slh.sign (identity b.svn) (fit Slh.n (Config.signRandom now)) message

/-- R353: whether DEST is within its limits for the whole report. -/
def destOk (d : Dword) : Bool :=
  let a := d.toNat
  let last := a + reportBytes + sigBytes - 1
  a % 64 == 0 && (isHbm last || (isHost a && isHost last))

/-- R354: `MB_REPORT`: the registers are captured and a report begins; the reserved codes are answered here too. -/
def execMbReport (s : State) : Out :=
  takeMail s (· != 1) fun b w =>
    if w.toNat % 16 ≠ 2 ∨ w &&& 0xFFF0 ≠ 0 then b.ack w 2
    else if !destOk b.mbDest then b.ack w 3
    else { b with report := some { seq := w.toNat / 65536, dest := b.mbDest, message := b.message s.gtc } }

/-- R353, R319: the report's stores to the host aperture, which the host acknowledges together. -/
def reportStore (dest : Dword) (w : Nat) : HostStore :=
  { tile := deviceNo, slot := 0, gen := 0, launch := none, seq := 0, line := lineOf dest.toNat, addr := dest, w := some w }

/-- R353: `REPORT_COMPLETE`: the signed report is written; then, as a system-scope release, ACK is: once the report is in force and, in the
host aperture, acknowledged (Tables 9.5, 11.2). -/
def execReportComplete (s : State) : Out :=
  match s.boot.report with
  | none => .next s
  | some r =>
    match r.w with
    | none =>
      if !s.carries r.dest.toNat then .next s
      else
        let (s, w) := s.deviceWrite r.dest.toNat (s.boot.signed r.message s.gtc)
        .next { s with
          boot := { s.boot with report := some { r with w := some w } }
          hostStores := if isHost r.dest.toNat then s.hostStores ++ [reportStore r.dest w] else s.hostStores }
    | some w =>
      if s.gtc < sysWait w || s.hostStores.any (fun h => h.tile == deviceNo) then .next s
      else .next { s with boot := { s.boot.ack (BitVec.ofNat 32 (r.seq * 65536)) 0 with report := none } }

end Sys2Proof.Machine
end

