-- ==== Sys2Proof/Machine/Transc.lean ====
section
/-!
DEFINITION. The transcendental functions of Table 4.6, correctly rounded to nearest with ties to even (R85) with the special
operands of Table 4.7 (R86). Each is evaluated in fixed point with 448 fractional bits, far below the distance from any
FP32 operand's result to a rounding boundary, and rounded once with a sticky bit (assumption 14).
-/

namespace Sys2Proof.Num

/-- Fractional bits of the fixed-point evaluation. -/
def fxBits : Nat := 448

/-- 1 in fixed point. -/
def fxOne : Nat := 2 ^ fxBits

/-- The floor of pi times `2^448`. -/
def fxPi : Nat := 0x3243f6a8885a308d313198a2e03707344a4093822299f31d0082efa98ec4e6c89452821e638d01377be5466cf34e90c6cc0ac29b7c97c50dd

/-- The floor of the natural logarithm of 2 times `2^448`. -/
def fxLn2 : Nat := 0xb17217f7d1cf79abc9e3b39803f2f6af40f343267298b62d8a0d175b8baafa2be7b876206debac98559552fb4afa1b10ed2eae35c1382144

/-- Horner evaluation of the exponential series `sum t^k / k!`, from the term `k` down. -/
def fxExpAux (t : Nat) : Nat → Nat → Nat
  | 0, acc => acc
  | k + 1, acc => fxExpAux t k (fxOne + t * acc / fxOne / (k + 1))

/-- The exponential of `t` in [0, 1), in fixed point. -/
def fxExp (t : Nat) : Nat := fxExpAux t 100 fxOne

/-- Horner evaluation of `sum (-1)^k t^(2k) / (2k+1)!` from the term `k` down; `q` is `t^2`. -/
def fxSincAux (q : Nat) : Nat → Nat → Nat
  | 0, acc => acc
  | k + 1, acc => fxSincAux q k (fxOne - q * acc / fxOne / ((2 * k + 2) * (2 * k + 3)))

/-- The sine of `t` in [0, pi/2], in fixed point. -/
def fxSin (t : Nat) : Nat := t * fxSincAux (t * t / fxOne) 60 fxOne / fxOne

/-- Horner evaluation of `sum z^(2k) / (2k+1)`; `q` is `z^2`. -/
def fxAtanhAux (q : Nat) : Nat → Nat → Nat
  | 0, acc => acc
  | k + 1, acc => fxAtanhAux q k (fxOne / (2 * k + 1) + q * acc / fxOne)

/-- The natural logarithm of `y / 2^448` in [1, 2). -/
def fxLn (y : Nat) : Nat :=
  let z := (y - fxOne) * fxOne / (y + fxOne)
  2 * z * fxAtanhAux (z * z / fxOne) 150 0 / fxOne

/-- An irrational result known as `n * 2^e` from below, rounded to nearest with ties to even. -/
def roundIrr (ftz neg : Bool) (n : Nat) (e : Int) : Res := round32 ⟨.rne, ftz, false⟩ neg (2 * n + 1) (e - 1)

/-- `2^k` as a result. -/
def powTwo (ftz : Bool) (k : Int) : Res := round32 ⟨.rne, ftz, false⟩ false 1 k

/-- The result of an overflow under nearest rounding, and of a positive result below half the least subnormal. -/
def hugeRes : Res := ⟨infWord false, ovf ||| nx⟩
def minuteRes : Res := ⟨zeroWord false, unf ||| nx⟩

/-- The number `(-1)^neg * mag * 2^e` in fixed point, rounded down. -/
def toFixed (x : Dy) : Int :=
  let sh := x.e + fxBits
  if sh ≥ 0 then x.m * (2 ^ sh.toNat : Nat) else x.m / (2 ^ (-sh).toNat : Nat)

/-- R145: `2^a`. -/
def exp2V (ftz : Bool) (a : Fv) : Res :=
  match a with
  | .nan s => ⟨canonicalNan, if s then nv else 0⟩
  | .inf s => ⟨if s then zeroWord false else infWord false, 0⟩
  | .fin s m e =>
    if m = 0 then ⟨0x3F800000, 0⟩
    else
      let x := Dy.ofSign s m e
      if x.cmp ⟨128, 0⟩ ≥ 0 then hugeRes
      else if x.cmp ⟨-151, 0⟩ ≤ 0 then minuteRes
      else
        let f := toFixed x
        let k := f / (fxOne : Int)
        let r := (f % (fxOne : Int)).toNat
        if r = 0 then powTwo ftz k
        else roundIrr ftz false (fxExp (r * fxLn2 / fxOne)) (k - fxBits)

/-- R145: `e^a`. -/
def expV (ftz : Bool) (a : Fv) : Res :=
  match a with
  | .nan s => ⟨canonicalNan, if s then nv else 0⟩
  | .inf s => ⟨if s then zeroWord false else infWord false, 0⟩
  | .fin s m e =>
    if m = 0 then ⟨0x3F800000, 0⟩
    else
      let x := Dy.ofSign s m e
      if x.cmp ⟨89, 0⟩ ≥ 0 then hugeRes
      else if x.cmp ⟨-105, 0⟩ ≤ 0 then minuteRes
      else
        let f := toFixed x
        let k := f / (fxLn2 : Int)
        roundIrr ftz false (fxExp (f % (fxLn2 : Int)).toNat) (k - fxBits)

/-- The natural logarithm of a positive number as a fixed-point integer, and whether the number is a power of two with its
exponent. -/
def lnFixed (m : Nat) (e : Int) : Int × Bool × Int :=
  let l := bitLen m
  let k := e + (l : Int) - 1
  let y := m * 2 ^ (fxBits + 1 - l)
  ((k * (fxLn2 : Int)) + (fxLn y : Int), y == fxOne, k)

/-- A fixed-point irrational number of either sign as a result. -/
def roundFixed (ftz : Bool) (x : Int) : Res :=
  if x < 0 then roundIrr ftz true (x.natAbs - 1) (-(fxBits : Int)) else roundIrr ftz false x.natAbs (-(fxBits : Int))

/-- R145: the natural logarithm, or the logarithm to base 2 when `two`. -/
def logV (two ftz : Bool) (a : Fv) : Res :=
  match a with
  | .nan s => ⟨canonicalNan, if s then nv else 0⟩
  | .inf s => if s then ⟨canonicalNan, nv⟩ else ⟨infWord false, 0⟩
  | .fin s m e =>
    if m = 0 then ⟨infWord true, dz⟩
    else if s then ⟨canonicalNan, nv⟩
    else
      let (x, pow, k) := lnFixed m e
      if pow && k == 0 then ⟨zeroWord false, 0⟩
      else if two && pow then ofInt .rne k
      else roundFixed ftz (if two then x * (fxOne : Int) / (fxLn2 : Int) else x)

/-- The sine of `pi * r` for a dyadic `r` in [0, 1/2], signed by `neg`. -/
def sinPiCore (ftz neg : Bool) (r : Dy) : Res :=
  if r.m = 0 then ⟨zeroWord false, 0⟩
  else if r.cmp ⟨1, -1⟩ = 0 then ⟨if neg then 0xBF800000 else 0x3F800000, 0⟩
  else roundIrr ftz neg (fxSin ((toFixed r).toNat * fxPi / fxOne)) (-(fxBits : Int))

/-- A non-negative dyadic number modulo 2. -/
def modTwo (m : Nat) (e : Int) : Dy :=
  if e ≥ 1 then ⟨0, 0⟩ else ⟨(m % 2 ^ (1 - e).toNat : Nat), e⟩

/-- R145, R86: the sine of `pi * a`. -/
def sinpiV (ftz : Bool) (a : Fv) : Res :=
  match a with
  | .nan s => ⟨canonicalNan, if s then nv else 0⟩
  | .inf _ => ⟨canonicalNan, nv⟩
  | .fin s m e =>
    let r := modTwo m e
    let one : Dy := ⟨1, 0⟩
    if r.m = 0 || r.cmp one = 0 then ⟨zeroWord s, 0⟩
    else
      let (neg, r) := if r.cmp one > 0 then (!s, r.sub one) else (s, r)
      sinPiCore ftz neg (if r.cmp ⟨1, -1⟩ > 0 then one.sub r else r)

/-- R145, R86: the cosine of `pi * a`. -/
def cospiV (ftz : Bool) (a : Fv) : Res :=
  match a with
  | .nan s => ⟨canonicalNan, if s then nv else 0⟩
  | .inf _ => ⟨canonicalNan, nv⟩
  | .fin _ m e =>
    let r := modTwo m e
    let one : Dy := ⟨1, 0⟩
    let half : Dy := ⟨1, -1⟩
    let r := if r.cmp one > 0 then (Dy.mk 2 0).sub r else r
    if r.cmp half > 0 then sinPiCore ftz true (r.sub half) else sinPiCore ftz false (half.sub r)

end Sys2Proof.Num
end

