-- ==== Sys2Proof/Machine/Scalar.lean ====
section
/-!
DEFINITION. The scalar operations (spec/06_isa_control.md R106-R110, spec/05_encoding.md R91): one result and one set of flags
for each issue group.
-/

namespace Sys2Proof.Machine

/-- R41, R106, R108: a scalar operation executes once for its group: `f` gives the result, and each slice's flags from those it had;
the result goes to `d`, if there is one. -/
def scalarOp (i : Instr) (d : Option Nat) (s : State) (f : Gang → Flags → Word × Flags) : Out :=
  onGroup i s fun c g =>
    let h := match d with
      | some d => g.setS d (f g (g.slice c.slice).fl).1
      | none => g
    s.finish c (h.modSlices (g.group c.slice) fun x => { x with fl := (f g x.fl).2 })

/-- An S-format operation on `sA` and `sB` that sets Z and N. -/
def scalarZn (i : Instr) (d : BitVec 9) (a : BitVec 9) (b : BitVec 6) (s : State) (op : Word → Word → Word) : Out :=
  scalarOp i (some d.toNat) s fun g fl =>
    let r := op (g.sreg a.toNat) (g.sreg b.toNat)
    (r, znFlags fl r)

/-- A unary operation on `sA` that sets Z and N. -/
def scalarUnary (i : Instr) (d : BitVec 9) (a : BitVec 9) (s : State) (op : Word → Word) : Out :=
  scalarOp i (some d.toNat) s fun g fl =>
    let r := op (g.sreg a.toNat)
    (r, znFlags fl r)

/-! ## Results -/

/-- The high word of the signed product. -/
def mulhWord (a b : Word) : Word := BitVec.ofInt 32 (a.toInt * b.toInt / 2 ^ 32)

/-- The high word of the unsigned product. -/
def mulhuWord (a b : Word) : Word := BitVec.ofNat 32 (a.toNat * b.toNat / 2 ^ 32)

/-- R67: signed division. -/
def divWord (a b : Word) : Word := if b = 0 then 0xFFFFFFFF else BitVec.ofInt 32 (a.toInt.tdiv b.toInt)

/-- R67: unsigned division. -/
def divuWord (a b : Word) : Word := if b = 0 then 0xFFFFFFFF else a / b

/-- R67: the signed remainder, of the dividend's sign. -/
def remWord (a b : Word) : Word := if b = 0 then a else BitVec.ofInt 32 (a.toInt.tmod b.toInt)

/-- R67: the unsigned remainder. -/
def remuWord (a b : Word) : Word := if b = 0 then a else a % b

/-- A shift left by the whole word `b`. -/
def shlWord (a b : Word) : Word := if b.toNat < 32 then a <<< b.toNat else 0

def shrWord (a b : Word) : Word := if b.toNat < 32 then a >>> b.toNat else 0

def sraWord (a b : Word) : Word := a.sshiftRight (min b.toNat 31)

def rolWord (a b : Word) : Word := a.rotateLeft (b.toNat % 32)

def minWord (a b : Word) : Word := if a.slt b then a else b
def maxWord (a b : Word) : Word := if a.slt b then b else a
def minuWord (a b : Word) : Word := if a.ult b then a else b
def maxuWord (a b : Word) : Word := if a.ult b then b else a

/-- R109: the field position and length of an operand word. -/
def fieldPos (b : Word) : Nat := (b.extractLsb' 0 5).toNat
def fieldLen (b : Word) : Nat := (b.extractLsb' 8 5).toNat + 1

/-- R109: field extract. -/
def bfxWord (a b : Word) : Word := BitVec.ofNat 32 (a.toNat / 2 ^ fieldPos b % 2 ^ fieldLen b)

/-- R109: field insert into `d`; bits that would land above bit 31 are dropped. -/
def bfiWord (d a b : Word) : Word :=
  let mask := BitVec.ofNat 32 ((2 ^ fieldLen b - 1) * 2 ^ fieldPos b)
  (d &&& ~~~mask) ||| (BitVec.ofNat 32 (a.toNat * 2 ^ fieldPos b) &&& mask)

/-- Count of one bits. -/
def popcWord (a : Word) : Word := BitVec.ofNat 32 ((List.range 32).countP fun i => a.getLsbD i)

/-- Leading zeros; 32 for 0. -/
def clzWord (a : Word) : Word := BitVec.ofNat 32 (32 - Num.bitLen a.toNat)

/-- Trailing zeros; 32 for 0. -/
def ctzWord (a : Word) : Word :=
  BitVec.ofNat 32 (((List.range 32).find? fun i => a.getLsbD i).getD 32)

/-- R67, R108: a division of either kind; a zero divisor sets FPST.DZ and never traps. -/
def scalarDiv (i : Instr) (d : BitVec 9) (a : BitVec 9) (b : BitVec 6) (s : State) (op : Word → Word → Word) : Out :=
  onGroup i s fun c g =>
    let x := g.sreg a.toNat
    let y := g.sreg b.toNat
    let r := op x y
    let g := (g.setS d.toNat r).modSlices (g.group c.slice) fun z => { z with fl := znClear r }
    s.finish c { g with fpst := if y = 0 then g.fpst ||| Num.dz else g.fpst }


/-- R108: `add`. -/
def execAdd (d : BitVec 9) (a : BitVec 9) (b : BitVec 6) (s : State) : Out :=
  scalarOp (.add d a b) (some d.toNat) s fun g _ =>
    (g.sreg a.toNat + g.sreg b.toNat, addFlags (g.sreg a.toNat) (g.sreg b.toNat))

/-- R108: `sub`. -/
def execSub (d : BitVec 9) (a : BitVec 9) (b : BitVec 6) (s : State) : Out :=
  scalarOp (.sub d a b) (some d.toNat) s fun g _ =>
    (g.sreg a.toNat - g.sreg b.toNat, subFlags (g.sreg a.toNat) (g.sreg b.toNat))

/-- R108: `mul`, the low word. -/
def execMul (d : BitVec 9) (a : BitVec 9) (b : BitVec 6) (s : State) : Out :=
  scalarOp (.mul d a b) (some d.toNat) s fun g _ =>
    (g.sreg a.toNat * g.sreg b.toNat, mulFlags (g.sreg a.toNat) (g.sreg b.toNat))

/-- R108: `mulh`. -/
def execMulh (d : BitVec 9) (a : BitVec 9) (b : BitVec 6) (s : State) : Out :=
  scalarOp (.mulh d a b) (some d.toNat) s fun g _ =>
    let r := mulhWord (g.sreg a.toNat) (g.sreg b.toNat)
    (r, znClear r)

/-- R108: `mulh.n`. -/
def execMulhN (d : BitVec 9) (a : BitVec 9) (b : BitVec 6) (s : State) : Out :=
  scalarOp (.mulhN d a b) (some d.toNat) s fun g _ =>
    let r := mulhuWord (g.sreg a.toNat) (g.sreg b.toNat)
    (r, znClear r)

/-- R108, R67: `div`. -/
def execDiv (d : BitVec 9) (a : BitVec 9) (b : BitVec 6) (s : State) : Out :=
  scalarDiv (.div d a b) d a b s divWord

/-- R108, R67: `div.n`. -/
def execDivN (d : BitVec 9) (a : BitVec 9) (b : BitVec 6) (s : State) : Out :=
  scalarDiv (.divN d a b) d a b s divuWord

/-- R108, R67: `rem`. -/
def execRem (d : BitVec 9) (a : BitVec 9) (b : BitVec 6) (s : State) : Out :=
  scalarDiv (.rem d a b) d a b s remWord

/-- R108, R67: `rem.n`. -/
def execRemN (d : BitVec 9) (a : BitVec 9) (b : BitVec 6) (s : State) : Out :=
  scalarDiv (.remN d a b) d a b s remuWord

/-- R108: `and`. -/
def execAnd (d : BitVec 9) (a : BitVec 9) (b : BitVec 6) (s : State) : Out :=
  scalarZn (.and d a b) d a b s (· &&& ·)

/-- R108: `or`. -/
def execOr (d : BitVec 9) (a : BitVec 9) (b : BitVec 6) (s : State) : Out :=
  scalarZn (.or d a b) d a b s (· ||| ·)

/-- R108: `xor`. -/
def execXor (d : BitVec 9) (a : BitVec 9) (b : BitVec 6) (s : State) : Out :=
  scalarZn (.xor d a b) d a b s (· ^^^ ·)

/-- R108: `andn`. -/
def execAndn (d : BitVec 9) (a : BitVec 9) (b : BitVec 6) (s : State) : Out :=
  scalarZn (.andn d a b) d a b s (fun x y => x &&& ~~~y)

/-- R108: `shl`. -/
def execShl (d : BitVec 9) (a : BitVec 9) (b : BitVec 6) (s : State) : Out :=
  scalarZn (.shl d a b) d a b s shlWord

/-- R108: `shr`. -/
def execShr (d : BitVec 9) (a : BitVec 9) (b : BitVec 6) (s : State) : Out :=
  scalarZn (.shr d a b) d a b s shrWord

/-- R108: `sra`. -/
def execSra (d : BitVec 9) (a : BitVec 9) (b : BitVec 6) (s : State) : Out :=
  scalarZn (.sra d a b) d a b s sraWord

/-- R108: `rol`. -/
def execRol (d : BitVec 9) (a : BitVec 9) (b : BitVec 6) (s : State) : Out :=
  scalarZn (.rol d a b) d a b s rolWord

/-- R108: `min`. -/
def execMin (d : BitVec 9) (a : BitVec 9) (b : BitVec 6) (s : State) : Out :=
  scalarZn (.min d a b) d a b s minWord

/-- R108: `max`. -/
def execMax (d : BitVec 9) (a : BitVec 9) (b : BitVec 6) (s : State) : Out :=
  scalarZn (.max d a b) d a b s maxWord

/-- R108: `minN`. -/
def execMinN (d : BitVec 9) (a : BitVec 9) (b : BitVec 6) (s : State) : Out :=
  scalarZn (.minN d a b) d a b s minuWord

/-- R108: `maxN`. -/
def execMaxN (d : BitVec 9) (a : BitVec 9) (b : BitVec 6) (s : State) : Out :=
  scalarZn (.maxN d a b) d a b s maxuWord

/-- R109: `bfx`. -/
def execBfx (d : BitVec 9) (a : BitVec 9) (b : BitVec 6) (s : State) : Out :=
  scalarZn (.bfx d a b) d a b s bfxWord

/-- R109: `bfi`. -/
def execBfi (d : BitVec 9) (a : BitVec 9) (b : BitVec 6) (s : State) : Out :=
  scalarOp (.bfi d a b) (some d.toNat) s fun g fl =>
    let r := bfiWord (g.sreg d.toNat) (g.sreg a.toNat) (g.sreg b.toNat)
    (r, znFlags fl r)

/-- R108: `cmp` writes no register. -/
def execCmp (a : BitVec 9) (b : BitVec 6) (s : State) : Out :=
  scalarOp (.cmp a b) none s fun g _ => (0, subFlags (g.sreg a.toNat) (g.sreg b.toNat))

/-- R108: `mov` sets no flag. -/
def execMov (d : BitVec 9) (a : BitVec 9) (s : State) : Out :=
  scalarOp (.mov d a) (some d.toNat) s fun g fl => (g.sreg a.toNat, fl)

/-- R108: `popc`. -/
def execPopc (d : BitVec 9) (a : BitVec 9) (s : State) : Out := scalarUnary (.popc d a) d a s popcWord

/-- R108: `clz`. -/
def execClz (d : BitVec 9) (a : BitVec 9) (s : State) : Out := scalarUnary (.clz d a) d a s clzWord

/-- R108: `ctz`. -/
def execCtz (d : BitVec 9) (a : BitVec 9) (s : State) : Out := scalarUnary (.ctz d a) d a s ctzWord

/-- R91: `sel.<cond>` writes sA to sD when the condition holds, and no flag. -/
def execSelCond (d : BitVec 9) (a : BitVec 9) (c : BitVec 4) (s : State) : Out :=
  onGroup (.selCond d a c) s fun k g =>
    s.finish k (if condHolds c.toNat (g.slice k.slice).fl then g.setS d.toNat (g.sreg a.toNat) else g)

/-- R110: `cmpi`. -/
def execCmpi (d : BitVec 9) (i : BitVec 15) (s : State) : Out :=
  scalarOp (.cmpi d i) none s fun g _ => (0, subFlags (g.sreg d.toNat) (i.signExtend 32))

/-- R110: `addi`. -/
def execAddi (d : BitVec 9) (i : BitVec 15) (s : State) : Out :=
  scalarOp (.addi d i) (some d.toNat) s fun g _ =>
    (g.sreg d.toNat + i.signExtend 32, addFlags (g.sreg d.toNat) (i.signExtend 32))

/-- R110: `andi`. -/
def execAndi (d : BitVec 9) (i : BitVec 15) (s : State) : Out :=
  scalarOp (.andi d i) (some d.toNat) s fun g fl =>
    let r := g.sreg d.toNat &&& i.signExtend 32
    (r, znFlags fl r)

/-- R110: `ori`. -/
def execOri (d : BitVec 9) (i : BitVec 15) (s : State) : Out :=
  scalarOp (.ori d i) (some d.toNat) s fun g fl =>
    let r := g.sreg d.toNat ||| i.signExtend 32
    (r, znFlags fl r)

/-- R110: `xori`. -/
def execXori (d : BitVec 9) (i : BitVec 15) (s : State) : Out :=
  scalarOp (.xori d i) (some d.toNat) s fun g fl =>
    let r := g.sreg d.toNat ^^^ i.signExtend 32
    (r, znFlags fl r)

/-- R91: `ldi`. -/
def execLdi (d : BitVec 6) (i : BitVec 18) (s : State) : Out :=
  scalarOp (.ldi d i) (some d.toNat) s fun _ fl => (i.signExtend 32, fl)

/-- R91: `ldlo` writes bits [15:0]. -/
def execLdlo (d : BitVec 6) (i : BitVec 16) (s : State) : Out :=
  scalarOp (.ldlo d i) (some d.toNat) s fun g fl => ((g.sreg d.toNat).extractLsb' 16 16 ++ i, fl)

/-- R91: `ldhi` writes bits [31:16]. -/
def execLdhi (d : BitVec 6) (i : BitVec 16) (s : State) : Out :=
  scalarOp (.ldhi d i) (some d.toNat) s fun g fl => (i ++ (g.sreg d.toNat).extractLsb' 0 16, fl)

end Sys2Proof.Machine
end

