-- ==== Sys2Proof/Machine/VecInt.lean ====
section
/-!
DEFINITION. Vector integer and logic instructions (spec/07_isa_vector.md R130-R141), lane by lane.
-/

namespace Sys2Proof.Machine

/-! ## Results -/

/-- R136: an exact result clamped to the range of ET under SAT, else its low 32 bits. -/
def satWord (m : Word) (exact : Int) (wrapped : Word) : Word :=
  if modeSat m then Num.clampEt (modeEt m) exact else wrapped

/-- R136: a word read as ET's signedness has it. -/
def etInt (m : Word) (w : Word) : Int := Num.readInt (modeEt m) w

def addInt (m a b : Word) : Word := satWord m (etInt m a + etInt m b) (a + b)
def subInt (m a b : Word) : Word := satWord m (etInt m a - etInt m b) (a - b)
def mulInt (m a b : Word) : Word := satWord m (etInt m a * etInt m b) (a * b)
def madInt (m a b d : Word) : Word := satWord m (etInt m a * etInt m b + etInt m d) (a * b + d)
def absInt (m a : Word) : Word := satWord m (etInt m a).natAbs (BitVec.ofInt 32 a.toInt.natAbs)
def negInt (m a : Word) : Word := satWord m (-etInt m a) (-a)
def andnWord (a b : Word) : Word := a &&& ~~~b

/-- R137: the comparison a code of `icmp` names. -/
def icmpHolds (c : Nat) (a b : Word) : Bool :=
  match c with
  | 0 => a == b
  | 1 => a != b
  | 2 => a.slt b
  | 3 => a.sle b
  | 4 => b.slt a
  | 5 => b.sle a
  | 6 => a.ult b
  | 7 => a.ule b
  | 8 => b.ult a
  | _ => b.ule a

/-! ## Opcodes 0x40-0x51 -/

/-- R135: `iadd`, V form. -/
def execIaddV (d a b : BitVec 6) (l : BitVec 2) (s : State) : Out :=
  laneOp (.iaddV d a b l) d.toNat a.toNat (.v b.toNat) l.toNat s fun _ m _ a b _ => .word (addInt m a b)

/-- R135: `iadd`, VS form. -/
def execIaddVs (d a b : BitVec 6) (l : BitVec 2) (s : State) : Out :=
  laneOp (.iaddVs d a b l) d.toNat a.toNat (.s b.toNat) l.toNat s fun _ m _ a b _ => .word (addInt m a b)

/-- R135: `isub`, V form. -/
def execIsubV (d a b : BitVec 6) (l : BitVec 2) (s : State) : Out :=
  laneOp (.isubV d a b l) d.toNat a.toNat (.v b.toNat) l.toNat s fun _ m _ a b _ => .word (subInt m a b)

/-- R135: `isub`, VS form. -/
def execIsubVs (d a b : BitVec 6) (l : BitVec 2) (s : State) : Out :=
  laneOp (.isubVs d a b l) d.toNat a.toNat (.s b.toNat) l.toNat s fun _ m _ a b _ => .word (subInt m a b)

/-- R135: `imul`, V form. -/
def execImulV (d a b : BitVec 6) (l : BitVec 2) (s : State) : Out :=
  laneOp (.imulV d a b l) d.toNat a.toNat (.v b.toNat) l.toNat s fun _ m _ a b _ => .word (mulInt m a b)

/-- R135: `imul`, VS form. -/
def execImulVs (d a b : BitVec 6) (l : BitVec 2) (s : State) : Out :=
  laneOp (.imulVs d a b l) d.toNat a.toNat (.s b.toNat) l.toNat s fun _ m _ a b _ => .word (mulInt m a b)

/-- R135: `imulh`, V form. -/
def execImulhV (d a b : BitVec 6) (l : BitVec 2) (s : State) : Out :=
  laneOp (.imulhV d a b l) d.toNat a.toNat (.v b.toNat) l.toNat s fun _ _ _ a b _ => .word (mulhWord a b)

/-- R135: `imulh`, VS form. -/
def execImulhVs (d a b : BitVec 6) (l : BitVec 2) (s : State) : Out :=
  laneOp (.imulhVs d a b l) d.toNat a.toNat (.s b.toNat) l.toNat s fun _ _ _ a b _ => .word (mulhWord a b)

/-- R135: `imulh.n`, V form. -/
def execImulhNV (d a b : BitVec 6) (l : BitVec 2) (s : State) : Out :=
  laneOp (.imulhNV d a b l) d.toNat a.toNat (.v b.toNat) l.toNat s fun _ _ _ a b _ => .word (mulhuWord a b)

/-- R135: `imulh.n`, VS form. -/
def execImulhNVs (d a b : BitVec 6) (l : BitVec 2) (s : State) : Out :=
  laneOp (.imulhNVs d a b l) d.toNat a.toNat (.s b.toNat) l.toNat s fun _ _ _ a b _ => .word (mulhuWord a b)

/-- R135: `imad`, V form. -/
def execImadV (d a b : BitVec 6) (l : BitVec 2) (s : State) : Out :=
  laneOp (.imadV d a b l) d.toNat a.toNat (.v b.toNat) l.toNat s fun _ m _ a b d => .word (madInt m a b d)

/-- R135: `imad`, VS form. -/
def execImadVs (d a b : BitVec 6) (l : BitVec 2) (s : State) : Out :=
  laneOp (.imadVs d a b l) d.toNat a.toNat (.s b.toNat) l.toNat s fun _ m _ a b d => .word (madInt m a b d)

/-- R135: `iand`, V form. -/
def execIandV (d a b : BitVec 6) (l : BitVec 2) (s : State) : Out :=
  laneOp (.iandV d a b l) d.toNat a.toNat (.v b.toNat) l.toNat s fun _ _ _ a b _ => .word (a &&& b)

/-- R135: `iand`, VS form. -/
def execIandVs (d a b : BitVec 6) (l : BitVec 2) (s : State) : Out :=
  laneOp (.iandVs d a b l) d.toNat a.toNat (.s b.toNat) l.toNat s fun _ _ _ a b _ => .word (a &&& b)

/-- R135: `ior`, V form. -/
def execIorV (d a b : BitVec 6) (l : BitVec 2) (s : State) : Out :=
  laneOp (.iorV d a b l) d.toNat a.toNat (.v b.toNat) l.toNat s fun _ _ _ a b _ => .word (a ||| b)

/-- R135: `ior`, VS form. -/
def execIorVs (d a b : BitVec 6) (l : BitVec 2) (s : State) : Out :=
  laneOp (.iorVs d a b l) d.toNat a.toNat (.s b.toNat) l.toNat s fun _ _ _ a b _ => .word (a ||| b)

/-- R135: `ixor`, V form. -/
def execIxorV (d a b : BitVec 6) (l : BitVec 2) (s : State) : Out :=
  laneOp (.ixorV d a b l) d.toNat a.toNat (.v b.toNat) l.toNat s fun _ _ _ a b _ => .word (a ^^^ b)

/-- R135: `ixor`, VS form. -/
def execIxorVs (d a b : BitVec 6) (l : BitVec 2) (s : State) : Out :=
  laneOp (.ixorVs d a b l) d.toNat a.toNat (.s b.toNat) l.toNat s fun _ _ _ a b _ => .word (a ^^^ b)

/-- R135: `iandn`, V form. -/
def execIandnV (d a b : BitVec 6) (l : BitVec 2) (s : State) : Out :=
  laneOp (.iandnV d a b l) d.toNat a.toNat (.v b.toNat) l.toNat s fun _ _ _ a b _ => .word (andnWord a b)

/-- R135: `iandn`, VS form. -/
def execIandnVs (d a b : BitVec 6) (l : BitVec 2) (s : State) : Out :=
  laneOp (.iandnVs d a b l) d.toNat a.toNat (.s b.toNat) l.toNat s fun _ _ _ a b _ => .word (andnWord a b)

/-- R135: `ishl`, V form. -/
def execIshlV (d a b : BitVec 6) (l : BitVec 2) (s : State) : Out :=
  laneOp (.ishlV d a b l) d.toNat a.toNat (.v b.toNat) l.toNat s fun _ _ _ a b _ => .word (shlWord a b)

/-- R135: `ishl`, VS form. -/
def execIshlVs (d a b : BitVec 6) (l : BitVec 2) (s : State) : Out :=
  laneOp (.ishlVs d a b l) d.toNat a.toNat (.s b.toNat) l.toNat s fun _ _ _ a b _ => .word (shlWord a b)

/-- R135: `ishr`, V form. -/
def execIshrV (d a b : BitVec 6) (l : BitVec 2) (s : State) : Out :=
  laneOp (.ishrV d a b l) d.toNat a.toNat (.v b.toNat) l.toNat s fun _ _ _ a b _ => .word (shrWord a b)

/-- R135: `ishr`, VS form. -/
def execIshrVs (d a b : BitVec 6) (l : BitVec 2) (s : State) : Out :=
  laneOp (.ishrVs d a b l) d.toNat a.toNat (.s b.toNat) l.toNat s fun _ _ _ a b _ => .word (shrWord a b)

/-- R135: `isra`, V form. -/
def execIsraV (d a b : BitVec 6) (l : BitVec 2) (s : State) : Out :=
  laneOp (.israV d a b l) d.toNat a.toNat (.v b.toNat) l.toNat s fun _ _ _ a b _ => .word (sraWord a b)

/-- R135: `isra`, VS form. -/
def execIsraVs (d a b : BitVec 6) (l : BitVec 2) (s : State) : Out :=
  laneOp (.israVs d a b l) d.toNat a.toNat (.s b.toNat) l.toNat s fun _ _ _ a b _ => .word (sraWord a b)

/-- R135: `imin`, V form. -/
def execIminV (d a b : BitVec 6) (l : BitVec 2) (s : State) : Out :=
  laneOp (.iminV d a b l) d.toNat a.toNat (.v b.toNat) l.toNat s fun _ _ _ a b _ => .word (minWord a b)

/-- R135: `imin`, VS form. -/
def execIminVs (d a b : BitVec 6) (l : BitVec 2) (s : State) : Out :=
  laneOp (.iminVs d a b l) d.toNat a.toNat (.s b.toNat) l.toNat s fun _ _ _ a b _ => .word (minWord a b)

/-- R135: `imax`, V form. -/
def execImaxV (d a b : BitVec 6) (l : BitVec 2) (s : State) : Out :=
  laneOp (.imaxV d a b l) d.toNat a.toNat (.v b.toNat) l.toNat s fun _ _ _ a b _ => .word (maxWord a b)

/-- R135: `imax`, VS form. -/
def execImaxVs (d a b : BitVec 6) (l : BitVec 2) (s : State) : Out :=
  laneOp (.imaxVs d a b l) d.toNat a.toNat (.s b.toNat) l.toNat s fun _ _ _ a b _ => .word (maxWord a b)

/-- R135: `imin.n`, V form. -/
def execIminNV (d a b : BitVec 6) (l : BitVec 2) (s : State) : Out :=
  laneOp (.iminNV d a b l) d.toNat a.toNat (.v b.toNat) l.toNat s fun _ _ _ a b _ => .word (minuWord a b)

/-- R135: `imin.n`, VS form. -/
def execIminNVs (d a b : BitVec 6) (l : BitVec 2) (s : State) : Out :=
  laneOp (.iminNVs d a b l) d.toNat a.toNat (.s b.toNat) l.toNat s fun _ _ _ a b _ => .word (minuWord a b)

/-- R135: `imax.n`, V form. -/
def execImaxNV (d a b : BitVec 6) (l : BitVec 2) (s : State) : Out :=
  laneOp (.imaxNV d a b l) d.toNat a.toNat (.v b.toNat) l.toNat s fun _ _ _ a b _ => .word (maxuWord a b)

/-- R135: `imax.n`, VS form. -/
def execImaxNVs (d a b : BitVec 6) (l : BitVec 2) (s : State) : Out :=
  laneOp (.imaxNVs d a b l) d.toNat a.toNat (.s b.toNat) l.toNat s fun _ _ _ a b _ => .word (maxuWord a b)

/-- R138: `isel`, V form. -/
def execIselV (k : BitVec 3) (d a b : BitVec 6) (l : BitVec 2) (s : State) : Out :=
  laneOp (.iselV k d a b l) d.toNat a.toNat (.v b.toNat) l.toNat s fun g _ i a b _ =>
    .word (if g.pred k.toNat i then a else b)

/-- R138: `isel`, VS form. -/
def execIselVs (k : BitVec 3) (d a b : BitVec 6) (l : BitVec 2) (s : State) : Out :=
  laneOp (.iselVs k d a b l) d.toNat a.toNat (.s b.toNat) l.toNat s fun g _ i a b _ =>
    .word (if g.pred k.toNat i then a else b)

/-! ## Compares, unary operations, fields -/

/-- R137: `icmp`. -/
def execIcmp (c : BitVec 4) (d : BitVec 3) (a b : BitVec 6) (s : State) : Out :=
  predOp (.icmp c d a b) d.toNat a.toNat b.toNat s fun _ x y => (icmpHolds c.toNat x y, 0)

/-- An unlinked operation on one vector register. -/
def unaryOp (i : Instr) (d a : BitVec 6) (s : State) (f : Word → Nat → Word → LaneRes) : Out :=
  laneOp i d.toNat a.toNat (.v a.toNat) 0 s fun _ m lane x _ _ => f m lane x

/-- R139: `inot`. -/
def execInot (d a : BitVec 6) (s : State) : Out := unaryOp (.inot d a) d a s fun _ _ x => .word (~~~x)

/-- R139: `iabs`. -/
def execIabs (d a : BitVec 6) (s : State) : Out := unaryOp (.iabs d a) d a s fun m _ x => .word (absInt m x)

/-- R139: `ineg`. -/
def execIneg (d a : BitVec 6) (s : State) : Out := unaryOp (.ineg d a) d a s fun m _ x => .word (negInt m x)

/-- R139: `ipopc`. -/
def execIpopc (d a : BitVec 6) (s : State) : Out := unaryOp (.ipopc d a) d a s fun _ _ x => .word (popcWord x)

/-- R139: `iclz`. -/
def execIclz (d a : BitVec 6) (s : State) : Out := unaryOp (.iclz d a) d a s fun _ _ x => .word (clzWord x)

/-- R139: `lanei`. -/
def execLanei (d : BitVec 6) (s : State) : Out := unaryOp (.lanei d) d d s fun _ lane _ => .word (BitVec.ofNat 32 lane)

/-- R140: `ibfx`. -/
def execIbfx (d a b : BitVec 6) (s : State) : Out :=
  laneOp (.ibfx d a b) d.toNat a.toNat (.v b.toNat) 0 s fun _ _ _ a b _ => .word (bfxWord a b)

/-- R140: `ibfi`. -/
def execIbfi (d a b : BitVec 6) (s : State) : Out :=
  laneOp (.ibfi d a b) d.toNat a.toNat (.v b.toNat) 0 s fun _ _ _ a b d => .word (bfiWord d a b)

/-- R141: `vbc`. -/
def execVbc (d b : BitVec 6) (s : State) : Out :=
  laneOp (.vbc d b) d.toNat d.toNat (.s b.toNat) 0 s fun _ _ _ _ b _ => .word (b)

end Sys2Proof.Machine
end

