-- ==== Sys2Proof/Machine/VecFp.lean ====
section
/-!
DEFINITION. Floating-point arithmetic, compares, special functions, conversions, byte lanes and the random generator
(spec/07_isa_vector.md R142-R149).
-/

namespace Sys2Proof.Machine

/-! ## FP arithmetic (R142) -/

/-- R71: an FP32 operand of a lane under MODE. -/
def fpArg (m w : Word) : Num.Fv := Num.operand (modeFtz m) w

/-- A lane's result of an FP operation. -/
def ofRes (r : Num.Res) : LaneRes := .fp r.w r.fl

def faddRes (m a b : Word) : LaneRes := ofRes (Num.addV (envOf m) (fpArg m a) (fpArg m b))
def fsubRes (m a b : Word) : LaneRes := ofRes (Num.addV (envOf m) (fpArg m a) (fpArg m b).negate)
def fmulRes (m a b : Word) : LaneRes := ofRes (Num.mulV (envOf m) (fpArg m a) (fpArg m b))
def ffmaRes (m a b d : Word) : LaneRes := ofRes (Num.fmaV (envOf m) false false (fpArg m a) (fpArg m b) (fpArg m d))
def ffmsRes (m a b d : Word) : LaneRes := ofRes (Num.fmaV (envOf m) false true (fpArg m a) (fpArg m b) (fpArg m d))
def fnmaRes (m a b d : Word) : LaneRes := ofRes (Num.fmaV (envOf m) true false (fpArg m a) (fpArg m b) (fpArg m d))
def fminRes (m a b : Word) : LaneRes := ofRes (Num.minmaxV false (fpArg m a) (fpArg m b))
def fmaxRes (m a b : Word) : LaneRes := ofRes (Num.minmaxV true (fpArg m a) (fpArg m b))

/-- R142: `fadd`, V form. -/
def execFaddV (d a b : BitVec 6) (l : BitVec 2) (s : State) : Out :=
  laneOp (.faddV d a b l) d.toNat a.toNat (.v b.toNat) l.toNat s fun _ m _ a b _ => faddRes m a b

/-- R142: `fadd`, VS form. -/
def execFaddVs (d a b : BitVec 6) (l : BitVec 2) (s : State) : Out :=
  laneOp (.faddVs d a b l) d.toNat a.toNat (.s b.toNat) l.toNat s fun _ m _ a b _ => faddRes m a b

/-- R142: `fsub`, V form. -/
def execFsubV (d a b : BitVec 6) (l : BitVec 2) (s : State) : Out :=
  laneOp (.fsubV d a b l) d.toNat a.toNat (.v b.toNat) l.toNat s fun _ m _ a b _ => fsubRes m a b

/-- R142: `fsub`, VS form. -/
def execFsubVs (d a b : BitVec 6) (l : BitVec 2) (s : State) : Out :=
  laneOp (.fsubVs d a b l) d.toNat a.toNat (.s b.toNat) l.toNat s fun _ m _ a b _ => fsubRes m a b

/-- R142: `fmul`, V form. -/
def execFmulV (d a b : BitVec 6) (l : BitVec 2) (s : State) : Out :=
  laneOp (.fmulV d a b l) d.toNat a.toNat (.v b.toNat) l.toNat s fun _ m _ a b _ => fmulRes m a b

/-- R142: `fmul`, VS form. -/
def execFmulVs (d a b : BitVec 6) (l : BitVec 2) (s : State) : Out :=
  laneOp (.fmulVs d a b l) d.toNat a.toNat (.s b.toNat) l.toNat s fun _ m _ a b _ => fmulRes m a b

/-- R142: `ffma`, V form. -/
def execFfmaV (d a b : BitVec 6) (l : BitVec 2) (s : State) : Out :=
  laneOp (.ffmaV d a b l) d.toNat a.toNat (.v b.toNat) l.toNat s fun _ m _ a b d => ffmaRes m a b d

/-- R142: `ffma`, VS form. -/
def execFfmaVs (d a b : BitVec 6) (l : BitVec 2) (s : State) : Out :=
  laneOp (.ffmaVs d a b l) d.toNat a.toNat (.s b.toNat) l.toNat s fun _ m _ a b d => ffmaRes m a b d

/-- R142: `ffms`, V form. -/
def execFfmsV (d a b : BitVec 6) (l : BitVec 2) (s : State) : Out :=
  laneOp (.ffmsV d a b l) d.toNat a.toNat (.v b.toNat) l.toNat s fun _ m _ a b d => ffmsRes m a b d

/-- R142: `ffms`, VS form. -/
def execFfmsVs (d a b : BitVec 6) (l : BitVec 2) (s : State) : Out :=
  laneOp (.ffmsVs d a b l) d.toNat a.toNat (.s b.toNat) l.toNat s fun _ m _ a b d => ffmsRes m a b d

/-- R142: `fnma`, V form. -/
def execFnmaV (d a b : BitVec 6) (l : BitVec 2) (s : State) : Out :=
  laneOp (.fnmaV d a b l) d.toNat a.toNat (.v b.toNat) l.toNat s fun _ m _ a b d => fnmaRes m a b d

/-- R142: `fnma`, VS form. -/
def execFnmaVs (d a b : BitVec 6) (l : BitVec 2) (s : State) : Out :=
  laneOp (.fnmaVs d a b l) d.toNat a.toNat (.s b.toNat) l.toNat s fun _ m _ a b d => fnmaRes m a b d

/-- R142: `fmin`, V form. -/
def execFminV (d a b : BitVec 6) (l : BitVec 2) (s : State) : Out :=
  laneOp (.fminV d a b l) d.toNat a.toNat (.v b.toNat) l.toNat s fun _ m _ a b _ => fminRes m a b

/-- R142: `fmin`, VS form. -/
def execFminVs (d a b : BitVec 6) (l : BitVec 2) (s : State) : Out :=
  laneOp (.fminVs d a b l) d.toNat a.toNat (.s b.toNat) l.toNat s fun _ m _ a b _ => fminRes m a b

/-- R142: `fmax`, V form. -/
def execFmaxV (d a b : BitVec 6) (l : BitVec 2) (s : State) : Out :=
  laneOp (.fmaxV d a b l) d.toNat a.toNat (.v b.toNat) l.toNat s fun _ m _ a b _ => fmaxRes m a b

/-- R142: `fmax`, VS form. -/
def execFmaxVs (d a b : BitVec 6) (l : BitVec 2) (s : State) : Out :=
  laneOp (.fmaxVs d a b l) d.toNat a.toNat (.s b.toNat) l.toNat s fun _ m _ a b _ => fmaxRes m a b

/-! ## One-operand operations and compares (R143, R144) -/

/-- R143: `fabs`. -/
def execFabs (d a : BitVec 6) (s : State) : Out := unaryOp (.fabs d a) d a s fun _ _ x => .word (x &&& 0x7FFFFFFF)

/-- R143: `fneg`. -/
def execFneg (d a : BitVec 6) (s : State) : Out := unaryOp (.fneg d a) d a s fun _ _ x => .word (x ^^^ 0x80000000)

/-- Table 7.4: the class mask of a word. -/
def fclassWord (w : Word) : Word :=
  match Num.val w with
  | .nan true => 0x100
  | .nan false => 0x200
  | .inf true => 0x001
  | .inf false => 0x080
  | .fin true m _ => if m = 0 then 0x008 else if m < 2 ^ 23 then 0x004 else 0x002
  | .fin false m _ => if m = 0 then 0x010 else if m < 2 ^ 23 then 0x020 else 0x040

/-- R143: `fclass`. -/
def execFclass (d a : BitVec 6) (s : State) : Out := unaryOp (.fclass d a) d a s fun _ _ x => .word (fclassWord x)

/-- R143: `frnd`. -/
def execFrnd (d a : BitVec 6) (s : State) : Out :=
  unaryOp (.frnd d a) d a s fun m _ x => ofRes (Num.rintV (envOf m).rm (fpArg m x))

/-- Table 7.5: the comparison a code of `fcmp` names, and its flags. -/
def fcmpRes (c : Nat) (m a b : Word) : Bool × Num.Flags :=
  let x := fpArg m a
  let y := fpArg m b
  let uo := x.isNan || y.isNan
  let sig := Num.sigFlags [x, y]
  let ordered := if uo then Num.nv else 0
  match c with
  | 0 => (!uo && Num.eqV x y, sig)
  | 1 => (uo || !Num.eqV x y, sig)
  | 2 => (!uo && Num.ltV false x y, ordered)
  | 3 => (!uo && !Num.ltV false y x, ordered)
  | 4 => (!uo && Num.ltV false y x, ordered)
  | 5 => (!uo && !Num.ltV false x y, ordered)
  | 6 => (uo, sig)
  | _ => (!uo, sig)

/-- R144: `fcmp`. -/
def execFcmp (c : BitVec 4) (d : BitVec 3) (a b : BitVec 6) (s : State) : Out :=
  predOp (.fcmp c d a b) d.toNat a.toNat b.toNat s fun m x y => fcmpRes c.toNat m x y

/-! ## Special functions (R145) -/

/-- The number 1. -/
def fpOne : Num.Fv := .fin false 1 0

/-- A special function of one operand under MODE. -/
def specialOp (i : Instr) (n : BitVec 4) (d a : BitVec 6) (s : State) (f : Num.Env → Num.Fv → Num.Res) : Out :=
  longOp i n.toNat d.toNat s fun g m lane => ofRes (f (envOf m) (fpArg m (g.vreg a.toNat lane)))

/-- R145: `frcp`. -/
def execFrcp (n : BitVec 4) (d a : BitVec 6) (s : State) : Out := specialOp (.frcp n d a) n d a s (fun env x => Num.divV env fpOne x)

/-- R145: `frsq`. -/
def execFrsq (n : BitVec 4) (d a : BitVec 6) (s : State) : Out := specialOp (.frsq n d a) n d a s (fun env x => Num.rsqrtV env.ftz x)

/-- R145: `fsqrt`. -/
def execFsqrt (n : BitVec 4) (d a : BitVec 6) (s : State) : Out := specialOp (.fsqrt n d a) n d a s (Num.sqrtV)

/-- R145: `fexp2`. -/
def execFexp2 (n : BitVec 4) (d a : BitVec 6) (s : State) : Out := specialOp (.fexp2 n d a) n d a s (fun env x => Num.exp2V env.ftz x)

/-- R145: `flog2`. -/
def execFlog2 (n : BitVec 4) (d a : BitVec 6) (s : State) : Out := specialOp (.flog2 n d a) n d a s (fun env x => Num.logV true env.ftz x)

/-- R145: `fexp`. -/
def execFexp (n : BitVec 4) (d a : BitVec 6) (s : State) : Out := specialOp (.fexp n d a) n d a s (fun env x => Num.expV env.ftz x)

/-- R145: `flog`. -/
def execFlog (n : BitVec 4) (d a : BitVec 6) (s : State) : Out := specialOp (.flog n d a) n d a s (fun env x => Num.logV false env.ftz x)

/-- R145: `fsinpi`. -/
def execFsinpi (n : BitVec 4) (d a : BitVec 6) (s : State) : Out := specialOp (.fsinpi n d a) n d a s (fun env x => Num.sinpiV env.ftz x)

/-- R145: `fcospi`. -/
def execFcospi (n : BitVec 4) (d a : BitVec 6) (s : State) : Out := specialOp (.fcospi n d a) n d a s (fun env x => Num.cospiV env.ftz x)

/-- R145: `fdiv`. -/
def execFdiv (n : BitVec 4) (d a b : BitVec 6) (s : State) : Out :=
  longOp (.fdiv n d a b) n.toNat d.toNat s fun g m lane =>
    ofRes (Num.divV (envOf m) (fpArg m (g.vreg a.toNat lane)) (fpArg m (g.vreg b.toNat lane)))

/-! ## Conversions (R146) -/

/-- FP32 to a narrower IEEE format: R79. -/
def toIeee (f : Num.Ieee) (m : Word) (x : Num.Fv) : LaneRes :=
  match x with
  | .nan s => .fp (BitVec.ofNat 32 f.nanCode) (if s then Num.nv else 0)
  | .inf s => .word (BitVec.ofNat 32 (f.infCode s))
  | .fin s mag e =>
    let r := f.round (envOf m).rm false s mag e
    .fp (BitVec.ofNat 32 r.1) r.2

/-- A narrower IEEE format to FP32: exact, NV for a signalling NaN (R78). -/
def ofIeee (f : Num.Ieee) (w : Word) : LaneRes :=
  let x := f.decode (w.toNat % 2 ^ 16)
  .fp (Num.word32 x) (Num.sigFlags [x])

/-- An integer to FP32, rounded once under RM (R80). -/
def ofIntRes (m : Word) (i : Int) : LaneRes := if i = 0 then .word 0 else ofRes (Num.ofInt (envOf m).rm i)

/-- FP32 to an integer in a range (R80). -/
def toIntRes (m : Word) (lo hi : Int) (x : Num.Fv) : LaneRes :=
  let r := Num.toIntRange (envOf m).rm lo hi x
  .fp (BitVec.ofInt 32 r.1) r.2

/-- Table 7.7: the conversion from code `f` to code `t`. -/
def cvtRes (t f : Nat) (m a : Word) : LaneRes :=
  match t, f with
  | 2, 0 => ofIntRes m a.toInt
  | 2, 1 => ofIntRes m a.toNat
  | 2, 3 => ofIeee Num.ieee16 a
  | 2, _ => ofIeee Num.ieeeBf a
  | 0, _ => toIntRes m (-(2 ^ 31)) (2 ^ 31 - 1) (fpArg m a)
  | 1, _ => toIntRes m 0 (2 ^ 32 - 1) (fpArg m a)
  | 3, _ => toIeee Num.ieee16 m (fpArg m a)
  | _, _ => toIeee Num.ieeeBf m (fpArg m a)

/-- R146: `cvt`. -/
def execCvt (t : BitVec 4) (d a : BitVec 6) (f : BitVec 6) (s : State) : Out :=
  unaryOp (.cvt t d a f) d a s fun m _ x => cvtRes t.toNat f.toNat m x

/-! ## Byte lanes (R147, R148) -/

/-- R133: ET must be a type of Table 7.8. -/
def etCheck (i : Instr) (c : Cur) (g : Gang) : Option TrapInfo :=
  if Num.narrowable (modeEt (g.slice c.slice).mode) then none else some (g.illegal c i)

/-- A byte put into byte lane `k` of a word. -/
def putByte (d : Word) (k b : Nat) : Word :=
  (d &&& ~~~(BitVec.ofNat 32 (255 * 2 ^ (8 * k)))) ||| BitVec.ofNat 32 (b % 256 * 2 ^ (8 * k))

/-- R147: the byte of a narrowed value, with its flags. -/
def narrowByte (m a : Word) : Nat × Num.Flags := Num.narrow (envOf m) (modeEt m) (fpArg m a)

/-- R148: the FP32 word of byte lane `k`. -/
def widenWord (m a : Word) (k : Nat) : Word := Num.word32 (Num.widen (modeEt m) (a.toNat / 2 ^ (8 * k) % 256))

/-- R147: `narrow.b0` to `narrow.b3`. -/
def execNarrow (k : BitVec 2) (d a : BitVec 6) (s : State) : Out :=
  laneOp (.narrow k d a) d.toNat a.toNat (.v a.toNat) 0 s
    (fun _ m _ a _ d => let r := narrowByte m a; .fp (putByte d k.toNat r.1) r.2) (etCheck (.narrow k d a))

/-- R148: `widen.b0` to `widen.b3`. -/
def execWiden (k : BitVec 2) (d a : BitVec 6) (s : State) : Out :=
  laneOp (.widen k d a) d.toNat a.toNat (.v a.toNat) 0 s
    (fun _ m _ a _ _ => .word (widenWord m a k.toNat)) (etCheck (.widen k d a))

/-! ## The random generator (R149) -/

/-- The 128-bit counter and 64-bit key of the generator. -/
structure Philox where
  c0 : Word
  c1 : Word
  c2 : Word
  c3 : Word
  k0 : Word
  k1 : Word
  deriving DecidableEq, Repr

/-- One round of R149. -/
def philoxRound (x : Philox) : Philox :=
  let p0 := 0xD2511F53 * x.c0.toNat
  let p1 := 0xCD9E8D57 * x.c2.toNat
  { c0 := BitVec.ofNat 32 (p1 / 2 ^ 32) ^^^ x.c1 ^^^ x.k0
    c1 := BitVec.ofNat 32 p1
    c2 := BitVec.ofNat 32 (p0 / 2 ^ 32) ^^^ x.c3 ^^^ x.k1
    c3 := BitVec.ofNat 32 p0
    k0 := x.k0 + 0x9E3779B9
    k1 := x.k1 + 0xBB67AE85 }

/-- `n` rounds. -/
def philoxRounds : Nat → Philox → Philox
  | 0, x => x
  | n + 1, x => philoxRounds n (philoxRound x)

/-- R149: `rng`. -/
def execRng (n : BitVec 4) (d a b : BitVec 6) (s : State) : Out :=
  onGroup (.rng n d a b) s fun c g =>
    let js := g.group c.slice
    let k := b.toNat
    let lane (i : Nat) : List (Dest × Word) :=
      let x := philoxRounds 10
        ⟨g.vreg a.toNat i, g.vreg (a.toNat + 1) i, g.sreg (k + 2), g.sreg (k + 3), g.sreg k, g.sreg (k + 1)⟩
      let key (r : Nat) : Dest := .vreg ((d.toNat + r) * 32 + i)
      [(key 0, x.c0), (key 1, x.c1), (key 2, x.c2), (key 3, x.c3)]
    let vals := (g.active js).flatMap lane
    s.finish c (g.open js n.toNat (vals.map Prod.fst) vals false none)

end Sys2Proof.Machine
end

