-- ==== Sys2Proof/Machine/Cross.lean ====
section
/-!
DEFINITION. Cross-lane instructions (spec/07_isa_vector.md R150-R156): each gathers from the active lanes of its group.
-/

namespace Sys2Proof.Machine

/-- R150: a cross-lane instruction with lookahead `n`: `f` gives the registers written from the active lanes. -/
def crossOp (i : Instr) (n : BitVec 4) (s : State) (f : Gang → Word → List Nat → List (Dest × Word)) : Out :=
  onGroup i s fun c g =>
    let js := g.group c.slice
    let vals := f g (g.slice c.slice).mode (g.active js)
    s.finish c (g.open js n.toNat (vals.map Prod.fst) vals false none)

/-- A value for every active lane of a vector register. -/
def toLanes (d : Nat) (lanes : List Nat) (f : Nat → Word) : List (Dest × Word) :=
  lanes.map fun i => (.vreg (d * 32 + i), f i)

/-- The lane a word selects. -/
def laneSel (w : Word) : Nat := w.toNat % 32

/-- R151: `shfl`. -/
def execShfl (n : BitVec 4) (d a b : BitVec 6) (s : State) : Out :=
  crossOp (.shfl n d a b) n s fun g _ lanes =>
    toLanes d.toNat lanes fun i =>
      let j := laneSel (g.vreg b.toNat i)
      g.vreg a.toNat (if lanes.contains j then j else i)

/-- R152: `bcast`. -/
def execBcast (n : BitVec 4) (d a b : BitVec 6) (s : State) : Out :=
  crossOp (.bcast n d a b) n s fun g _ lanes =>
    let j := laneSel (g.sreg b.toNat)
    toLanes d.toNat lanes fun i => g.vreg a.toNat (if lanes.contains j then j else i)

/-- R153: `vget`. -/
def execVget (n : BitVec 4) (d a b : BitVec 6) (s : State) : Out :=
  crossOp (.vget n d a b) n s fun g _ lanes =>
    let j := laneSel (g.sreg b.toNat)
    [(.sreg d.toNat, if lanes.contains j then g.vreg a.toNat j else 0)]

/-- R154: `ballot`. -/
def execBallot (n : BitVec 4) (d : BitVec 6) (a : BitVec 3) (s : State) : Out :=
  crossOp (.ballot n d a) n s fun g _ lanes =>
    [(.sreg d.toNat, maskOf (lanes.filter fun i => g.pred a.toNat i))]

/-- R155: whether two keys match under an element type. -/
def keysEqual (et : Nat) (x y : Word) : Bool :=
  if et = 2 then
    if (Num.val x).isNan || (Num.val y).isNan then false
    else x == y || (x &&& 0x7FFFFFFF == 0 && y &&& 0x7FFFFFFF == 0)
  else x == y

/-- R155: `match`. -/
def execMatchv (n : BitVec 4) (d a : BitVec 6) (s : State) : Out :=
  crossOp (.matchv n d a) n s fun g m lanes =>
    toLanes d.toNat lanes fun i =>
      maskOf (lanes.filter fun j => j == i || keysEqual (modeEt m) (g.vreg a.toNat i) (g.vreg a.toNat j))

/-- R156: the advance counts of two lists of active lanes. -/
def advWord (g : Gang) (a b : Nat) (lanes : List Nat) : Word :=
  match lanes.getLast? with
  | none => 0
  | some m =>
    BitVec.ofNat 32 (lanes.countP (fun j => (g.vreg b j).ule (g.vreg a m)) * 2 ^ 16 +
      lanes.countP fun i => (g.vreg a i).ule (g.vreg b m))

/-- R156: `isect`. -/
def execIsect (n : BitVec 4) (d a b : BitVec 6) (s : State) : Out :=
  crossOp (.isect n d a b) n s fun g _ lanes =>
    toLanes d.toNat lanes (fun i =>
      match lanes.find? fun j => g.vreg b.toNat j == g.vreg a.toNat i with
      | some j => BitVec.ofNat 32 j
      | none => 0xFFFFFFFF) ++ [(.adv, advWord g a.toNat b.toNat lanes)]

end Sys2Proof.Machine
end

