-- ==== Sys2Proof/Machine/Outside.lean ====
section
/-!
DEFINITION. What comes from outside: events of the links (spec/18_link.md R316, R317), host accesses (R318), domain requests (R322, R323)
and writes of configuration fields (R247, R353).
-/

namespace Sys2Proof.Machine

/-! ## Link events (R316, R317) -/

/-- A transition of Table 18.2 made from one of some states. -/
def linkEvent (n : Nat) (s : State) (from_ : LinkState → Bool) (k : Link → State) : Out :=
  if isLink n && from_ (s.link n).st then .next (k (s.link n)) else .next s

/-- A link carries traffic again: with GortyLink up, a ROM that waits for its image reads it (R350). -/
def State.linkUp (s : State) (n : Nat) (st : LinkState) (lanes : Nat) : State := (s.setLink n st lanes).romBoot

/-- R316: `LINK_TRAINED`. -/
def execLinkTrained (link : Nat) (s : State) : Out :=
  linkEvent link s (· == .training) fun _ => s.linkUp link .up (linkLanes link)

/-- R316: `LINK_TRAIN_DEGRADED`, 2 ms after the entry. The subject's part is the number of lanes trained, at least half. -/
def execLinkTrainDegraded (link : Nat) (s : State) : Out :=
  linkEvent link s (· == .training) fun l =>
    let lanes := max (linkLanes link / 2) (min s.subject.part (linkLanes link - 1))
    if l.since + 2000000 ≤ s.gtc then s.linkUp link .degraded lanes else s

/-- R317: a link-layer error that retransmission does not hide, counted (assumption 66). -/
def State.countError (s : State) (n : Nat) : State :=
  { s with links := Sparse.put s.links n { s.link n with errs := min ((s.link n).errs + 1) 255 } }

/-- R316: what is lost with a link that has entered DOWN: GortyLink's traffic, which a device that has not booted halts for (R350), or the
domain's where no route is left. -/
def State.linkLost (s : State) (n : Nat) : State :=
  if n = 0 then
    let s := s.loseHost
    if s.boot.stage = 0 then { s with boot := { s.boot with stage := 15, err := 1 } } else s
  else if n ≤ 24 ∧ !s.routed then s.loseDomain
  else s

/-- R316: `LINK_TRAIN_TIMEOUT`, 10 ms after the entry: traffic in flight is lost. -/
def execLinkTrainTimeout (link : Nat) (s : State) : Out :=
  linkEvent link s (· == .training) fun l =>
    if l.since + 10000000 ≤ s.gtc then (((s.countError link).setLink link .down 0).linkLost link) else s

/-- R316: `LINK_DOWN_RETRY`: 1 ms after the entry, or when reset ends. -/
def execLinkDownRetry (link : Nat) (s : State) : Out :=
  linkEvent link s (· == .down) fun l =>
    if l.retr = 0 ∨ l.since + 1000000 ≤ s.gtc then s.setLink link .training 0 else s

/-- R316, R317: `LINK_LANE_LOST`: of an UP link, or a further one of a DEGRADED link, half the lanes being left. -/
def execLinkLaneLost (link : Nat) (s : State) : Out :=
  linkEvent link s (fun st => st == .up || st == .degraded) fun l =>
    if linkLanes link / 2 < l.lanes then s.setLink link .degraded (l.lanes - 1) else s

/-- R316, R317: `LINK_LANES_RETRAINED`. The subject's part is the number of lanes now usable; with all of them the link is UP. -/
def execLinkLanesRetrained (link : Nat) (s : State) : Out :=
  linkEvent link s (· == .degraded) fun l =>
    let lanes := s.subject.part
    if linkLanes link ≤ lanes then s.setLink link .up (linkLanes link)
    else if l.lanes < lanes then s.setLink link .degraded lanes
    else s

/-- R316: `LINK_LANES_BELOW_HALF`. The subject's part is the number of lanes still usable, less than half. -/
def execLinkLanesBelowHalf (link : Nat) (s : State) : Out :=
  linkEvent link s (fun st => st == .up || st == .degraded) fun _ =>
    s.setLink link .training (min s.subject.part (linkLanes link / 2 - 1))

/-! ## Host accesses (R318) -/

/-- R318: the host's store or atomic taken into the order of its writes. -/
def State.hostWrote (s : State) (w : Nat) : State := { s with hostW := max s.hostW w }

/-- R318: one home action on device memory. What the host is given is the state's `answer`; a load takes no lease. -/
def State.hostAct (s : State) (kind : HostAccess) : State :=
  match kind with
  | .image _ _ _ => s
  | .load addr width =>
    let s := s.comeTo (linesOf addr width) hostNo
    let s := (linesOf addr width).foldl (fun s l => (s.touchL2 l).modHome l fun h => h.took s.gtc hostNo) s
    { s with answer := .value (BitVec.ofNat 64 (natOfBytes (s.homeBytes s.gtc addr width))) }
  | .store addr width value _ =>
    let (s, w) := (s.comeTo (linesOf addr width) hostNo).storeHome hostNo addr (bytesOfNat width value.toNat)
    s.hostWrote w
  | .atomic addr op x y =>
    let (s, old, w) := (s.comeTo [lineOf addr] hostNo).performAtomic hostNo addr op x y
    { s.hostWrote w with answer := .value (old.setWidth 64) }

/-- R318: whether an access must wait at the device port: a release, until every earlier host store and atomic has returned its W and a
system-scope release's time has come (Table 9.5). -/
def State.hostWaits (s : State) (kind : HostAccess) : Bool :=
  match kind with
  | .store _ _ _ true => decide (s.gtc < sysWait s.hostW)
  | _ => false

/-- R318: an access of the host to device memory, in the order in which the host posts them: what comes after one that waits at the port
waits behind it. -/
def State.postHost (s : State) (kind : HostAccess) : State :=
  if !s.hostPort.isEmpty || s.hostWaits kind then { s with hostPort := s.hostPort ++ [kind] } else s.hostAct kind

/-- R318: the access at the head of the port, once it need not wait. -/
def State.hostNext (s : State) : State :=
  match s.hostPort with
  | [] => s
  | kind :: rest => if s.hostWaits kind then s else { s with hostPort := rest }.hostAct kind

/-- R318: `HOST_ACCESS`: an access to device memory, or to the configuration space, which stands from 2^48 on; an atomic there is one of
REQ (R353). A subject's unit of 1 stands for the access at the head of the port. -/
def execHostAccess (kind : HostAccess) (s : State) : Out :=
  if s.subject.unit = 1 then .next s.hostNext
  else
    match kind with
    | .image header body sig => .next ({ s with boot := { s.boot with image := some (header, body, sig) } }).romBoot
    | .load addr width =>
      if !s.hostUp || decide (width = 0) then .next s
      else if 2 ^ 48 ≤ addr then
        .next { s with answer := .value (BitVec.ofNat 64 (natOfBytes (s.boot.read (addr - 2 ^ 48) width))) }
      else if !isHbm (addr + width - 1) then .next s
      else .next (s.postHost kind)
    | .store addr width _ _ =>
      if !s.hostUp || !isHbm (addr + width - 1) || decide (width = 0) then .next s else .next (s.postHost kind)
    | .atomic addr op x y =>
      if !s.hostUp || addr % 4 ≠ 0 then .next s
      else if 2 ^ 48 ≤ addr then
        let old : Word := BitVec.ofNat 32 (natOfBytes (s.boot.read (addr - 2 ^ 48) 4))
        .next { s with
          answer := .value (old.setWidth 64), boot := s.boot.write (addr - 2 ^ 48) ((atomicWord op old x y).setWidth 64) 4 }
      else if !isHbm (addr + 3) then .next s
      else .next (s.postHost kind)

/-! ## Domain requests (R322, R323) -/

/-- R322 steps 3 and 4: where an offset of a context's window stands on this device, or the cause with which the request is refused. -/
def State.served (s : State) (n off need : Nat) : Place :=
  let st := (s.ctx n).st
  if st == .created || st == .ended || st == .failed then .fault 0x05
  else s.placeNow n (BitVec.ofNat 64 (off % 2 ^ 37)) need

/-- The port that a request comes by. -/
def portOf : DomainRequest → Nat
  | .load p _ _ _ => p
  | .store p _ _ _ _ => p
  | .atomic p _ _ _ _ _ => p
  | .wake p _ _ => p
  | .wata p _ _ _ _ => p
  | .unwatch p _ => p

/-- The context and the offset that a request is for; none for the end of a watch. -/
def offOf : DomainRequest → Option (Nat × Nat)
  | .load _ n off _ => some (n, off)
  | .store _ n off _ _ => some (n, off)
  | .atomic _ n off _ _ _ => some (n, off)
  | .wake _ n off => some (n, off)
  | .wata _ n off _ _ => some (n, off)
  | .unwatch _ _ => none

/-- The page that a request is for, by its context. -/
def pageOf (r : DomainRequest) : Option (Nat × Nat) := (offOf r).map fun x => (x.1, x.2 % 2 ^ 37 / 65536)

/-- What an access of a request needs (R305). -/
def needOf : DomainRequest → Nat
  | .store _ _ _ _ _ => needW
  | .atomic _ _ _ _ _ _ => needRW
  | _ => needR

/-- R316: whether a scale-up port carries traffic. -/
def State.portUp (s : State) (p : Nat) : Bool := decide (p < 24) && ((s.link (p + 1)).st == .up || (s.link (p + 1)).st == .degraded)

/-- The watch of a gang of another device, by its port and number. -/
def Watch.ofPeer (w : Watch) (port number : Nat) : Bool := w.peer == some (port, number)

/-- R190, R323: the home action of a `wata` of another device: the word is read, and watched where it equals what is expected. A
write taken before it in the same tick is seen as one of this device's sees it (assumption 63). -/
def State.domainWata (s : State) (port loc number : Nat) (expect : Word) : State :=
  let s := s.comeTo [lineOf loc] (portNo port)
  let t := (s.home (lineOf loc)).seenAt s.gtc
  let s := s.modHome (lineOf loc) fun h => h.took s.gtc (portNo port)
  let x := s.homeWord t loc
  let w : Watch :=
    { line := lineOf loc, since := t, tile := portNo port, slot := number, slice := 0, fired := s.firstDue (lineOf loc) t
      peer := some (port, number) }
  let old := s.watches.filter fun w => !(w.peer.isSome && w.ended s.gtc)
  { s with answer := .value (x.setWidth 64), watches := if x ≠ expect ∨ s.watchFull loc then old else old ++ [w] }

/-- R323: the one home action of a request whose place is known, under its port's number. A load is given its doubleword and a lease of
its own context's length (R233). -/
def State.domainAct (s : State) (loc : Nat) : DomainRequest → State
  | .load p _ _ lease =>
    let s := s.comeTo [lineOf loc] (portNo p)
    { (s.grantLease (lineOf loc) (portNo p) lease).1 with answer := .value (s.homeDword s.gtc (loc / 8 * 8)) }
  | .store p _ _ width value => ((s.comeTo [lineOf loc] (portNo p)).storeHome (portNo p) loc (bytesOfNat width value.toNat)).1
  | .atomic p _ _ op x y =>
    let (s, old, _) := (s.comeTo [lineOf loc] (portNo p)).performAtomic (portNo p) loc op x y
    { s with answer := .value (old.setWidth 64) }
  | .wake p _ _ =>
    let s := s.comeTo [lineOf loc] (portNo p)
    (s.wakeLine (lineOf loc)).modHome (lineOf loc) fun h => h.took s.gtc (portNo p)
  | .wata p _ _ number expect => s.domainWata p loc number expect
  | .unwatch _ _ => s

/-- R306, R322, R323: a request on its page: refused, answered with zeros, acting at its home, or waiting for the page's clearing. -/
def State.domainServe (s : State) (n off : Nat) (r : DomainRequest) : State :=
  match s.served n off (needOf r) with
  | .fault c => { s with answer := .refused c }
  | .zero => { s with answer := .value 0 }
  | .miss va _ => { s.askClear n va 0 with domainPort := s.domainPort ++ [r] }
  | .at_ loc _ => s.domainAct loc r

/-- R323: a request at its port: behind one that waits for the same page, or served now. -/
def State.domainCome (s : State) (r : DomainRequest) : State :=
  match offOf r with
  | none => s
  | some (n, off) =>
    if s.domainPort.any fun x => pageOf x == pageOf r then { s with domainPort := s.domainPort ++ [r] } else s.domainServe n off r

/-- Whether a request's address is a multiple of its width (R177). -/
def requestOk : DomainRequest → Bool
  | .store _ _ off width _ => width != 0 && off % width == 0
  | .atomic _ _ off _ _ _ => off % 4 == 0
  | .wata _ _ off _ _ => off % 4 == 0
  | _ => true

/-- R306: the requests that wait for a page that is being cleared no more are taken up again, in their order. -/
def State.domainNext (s : State) (n page : Nat) : State :=
  if s.clearing n (page * 65536) then s
  else
    let mine := s.domainPort.filter fun x => pageOf x == some (n, page)
    mine.foldl State.domainCome { s with domainPort := s.domainPort.filter fun x => pageOf x != some (n, page) }

/-- R323: `DOMAIN_REQUEST`: one home action on this device, by a port that carries traffic. What the requester is given, or the cause with
which it is refused, is the state's `answer`. A subject's unit of 1 stands for the requests that wait for the request's page. -/
def execDomainRequest (request : DomainRequest) (s : State) : Out :=
  if s.subject.unit = 1 then
    match pageOf request with
    | some (n, page) => .next (s.domainNext n page)
    | none => .next s
  else if !s.portUp (portOf request) || !requestOk request then .next s
  else
    match request with
    | .unwatch port number => .next { s with watches := s.watches.filter fun w => !w.ofPeer port number }
    | r => .next (s.domainCome r)

/-! ## Configuration fields (R247, R353) -/

/-- R247, R353: `REGISTER_WRITE`: a field of a record in device memory, or from 2^48 on a field of the configuration space. -/
def execRegisterWrite (addr : Nat) (value : Dword) (width : Nat) (s : State) : Out :=
  if !s.hostUp || decide (width = 0) then .next s
  else if 2 ^ 48 ≤ addr then .next { s with boot := s.boot.write (addr - 2 ^ 48) value width }
  else if !isHbm (addr + width - 1) then .next s
  else .next (s.postHost (.store addr width value false))

end Sys2Proof.Machine
end

