-- ==== Sys2Proof/Machine/Reversible.lean ====
section
/-!
DEFINITION. The reversible pairs and the stack instructions, opcodes 0xB0-0xBB (spec/08_isa_reversible.md R167-R176).
-/

namespace Sys2Proof.Machine

/-! ## Forward results (R169, R171-R173) -/

/-- R169, R171: a forward FP result: `r` the base operation's, `check` the value of what it stored, `ops` the operands, `keep`
the one that the undo restores, `exact` the exact value before rounding, `clamped` whether a conversion saturated. An exact term of
zero takes the sign of `keep` where the undo will use it, and is +0 in a LOSSY entry. -/
def forwardFp (cls : Nat) (m : Word) (r : LaneRes) (check : Num.Fv) (ops : List Word) (keep : Word) (exact : Num.Dy)
    (clamped : Bool) : LaneRes :=
  let push (w : Word) (lossy : Bool) : LaneRes :=
    if lossy then { val := r.val, fl := r.fl ||| Num.rl, push := some ⟨⟨w, tagLossy⟩, cls⟩ }
    else { val := r.val, fl := r.fl, push := some ⟨⟨w, cls⟩, cls⟩ }
  if !check.isFinite || ops.any (fun w => !(Num.val w).isFinite) then push Num.canonicalNan true
  else
    let e := exact.sub check.dy
    let lossy := clamped || r.fl &&& (Num.ovf ||| Num.nv) != 0 || ops.any (Num.flushed (modeFtz m)) ||
      (e.m != 0 && (Num.exact32 e).isNone)
    push (Num.rne32 e (!lossy && (Num.val keep).isZero && (Num.val keep).neg)) lossy

/-- R71: whether FTZ replaced an FP32 result. -/
def resultFlushed (m : Word) (r : LaneRes) : Bool := modeFtz m && r.fl &&& Num.unf != 0

def exactSum (a b : Word) : Num.Dy := (Num.val a).dy.add (Num.val b).dy
def exactProduct (a b : Word) : Num.Dy := (Num.val a).dy.mul (Num.val b).dy

/-- Table 8.6: `rfadd`. -/
def rfaddRes (m a b : Word) : LaneRes :=
  let r := faddRes m a b
  forwardFp tagFadd m r (Num.val r.val) [a, b] a (exactSum a b) (resultFlushed m r)

/-- Table 8.6: `rfmul`; a zero `b` is lossy (R169). -/
def rfmulRes (m a b : Word) : LaneRes :=
  let r := fmulRes m a b
  forwardFp tagFmul m r (Num.val r.val) [a, b] a (exactProduct a b) (resultFlushed m r || (Num.val b).isZero)

/-- Table 8.6: `rfma`. -/
def rfmaRes (m a b d : Word) : LaneRes :=
  let r := ffmaRes m a b d
  forwardFp tagFma m r (Num.val r.val) [a, b, d] d ((exactProduct a b).add (Num.val d).dy) (resultFlushed m r)

/-- R76, R169: whether a conversion gave 0 for a negative number under SAT. -/
def clampedToZero (m a : Word) : Bool :=
  match Num.B8.ofCode (modeEt m) with
  | some v => v.unsigned && modeSat m && (Num.val a).neg && !(Num.val a).isZero
  | none => false

/-- Table 8.6: `rnarrow`. -/
def rnarrowRes (m a : Word) : LaneRes :=
  let r := narrowByte m a
  forwardFp tagNarrow m (.fp (BitVec.ofNat 32 r.1) r.2) (Num.widen (modeEt m) r.1) [a] a (Num.val a).dy (clampedToZero m a)

/-- An integer forward result. -/
def forwardInt (cls : Nat) (y e : Word) (fl : Num.Flags) : LaneRes := { val := y, fl := fl, push := some ⟨⟨e, cls⟩, cls⟩ }

/-- The low `n` bits of a word. -/
def lowBits (w : Word) (n : Nat) : Word := BitVec.ofNat 32 (w.toNat % 2 ^ n)

/-- Table 8.7: `rmax0` and the flags of its maximum. -/
def rmax0Res (m a : Word) : LaneRes :=
  let et := modeEt m
  if et = 2 then
    let v := fpArg m a
    forwardInt tagMax0 (if v.isNan then 0 else (Num.minmaxV true v (.fin false 0 0)).w) a (Num.sigFlags [v])
  else forwardInt tagMax0 (if Num.etUnsigned et then a else maxWord a 0) a 0

/-- R161, R168: a forward instruction: room for its pushes, then its lanes. -/
def forwardOp (i : Instr) (d a : Nat) (b : OpB) (l : Nat) (s : State) (f : Word → Word → Word → Word → LaneRes)
    (pre : Cur → Gang → Option TrapInfo := noCheck) : Out :=
  onGroupIf i s pre fun c g => s.withRoom c g fun _ => s.runLanes c g i d a b l fun _ => f (g.slice c.slice).mode

/-! ## Undo results (R171) -/

/-- R171: an exact value rounded once under RNE; a zero takes the sign of the popped word. -/
def undoWord (e : Word) (x : Num.Dy) : Word := Num.rne32 x (e.msb)

/-- Whether words are finite numbers all. -/
def allFinite (ws : List Word) : Bool := ws.all fun w => (Num.val w).isFinite

/-- Table 8.6: `unfadd`. -/
def unfaddWord (e a b : Word) : Word :=
  if allFinite [e, a, b] then undoWord e ((exactSum a e).sub (Num.val b).dy) else Num.canonicalNan

/-- Table 8.6: `unfmul`; the sign of a zero is that of the product of the signs of `va` and `vb`. -/
def unfmulWord (e a b : Word) : Word :=
  if !allFinite [e, a, b] || (Num.val b).isZero then Num.canonicalNan
  else
    let x := exactSum a e
    if x.m = 0 then Num.zeroWord (a.msb != b.msb)
    else (Num.divV ⟨.rne, false, false⟩ (.fin (decide (x.m < 0)) x.m.natAbs x.e) (Num.val b)).w

/-- Table 8.6: `unfma`. -/
def unfmaWord (e a b d : Word) : Word :=
  if allFinite [e, a, b, d] then undoWord e ((exactSum d e).sub (exactProduct a b)) else Num.canonicalNan

/-- Table 8.6: `unnarrow`. -/
def unnarrowWord (m e a : Word) : Word :=
  let v := Num.widen (modeEt m) (a.toNat % 256)
  if v.isFinite && allFinite [e] then undoWord e (v.dy.add (Num.val e).dy) else Num.canonicalNan

/-- The inverse of an odd word modulo 2^32, by Newton's steps. -/
def oddInverse (x : Word) : Word := (List.range 5).foldl (fun y _ => y * (2 - x * y)) x

/-! ## Undo instructions (R170) -/

/-- R170: the fault of a lane's top entry, if any: its cause and what was found. -/
def popFault? (cls : Nat) (want : Option Word) (top : Option Rem) : Option (Nat × Dword) :=
  match top with
  | none => some (0x06, remVal 0 cls tagEmpty)
  | some e =>
    if e.tag ≠ cls ∧ e.tag ≠ tagLossy then some (0x06, remVal e.word cls e.tag)
    else if e.tag = tagLossy then some (0x07, remVal e.word cls e.tag)
    else if want.any (· != e.word) then some (0x06, remVal e.word cls e.tag)
    else none

/-- R170, R171: pops of every active lane after the checks; `d` the register written, if one is, by `f` of the lane and the
popped word. -/
def State.pop (s : State) (c : Cur) (g : Gang) (cls : Nat) (want : Option Word) (d : Option Nat) (f : Nat → Word → Word) : State :=
  let lanes := g.active (g.group c.slice)
  match lanesTrap? (lanes.filterMap fun i => (popFault? cls want (g.remOf i).head?).map fun t => (i, t.1, t.2)) with
  | some t => s.trap c t
  | none =>
    s.finish c (lanes.foldl (fun (h : Gang) i =>
      let e := ((g.remOf i).headD ⟨0, 0⟩).word
      let h := h.setRem i (g.remOf i).tail
      match d with
      | some d => h.setV d i (f i e)
      | none => h) g)

/-- R162, R170: an undo: refill first, then the pops. -/
def undoOp (i : Instr) (cls : Nat) (want : Gang → Option Word) (d : Option Nat) (s : State) (f : Gang → Word → Nat → Word → Word)
    (pre : Cur → Gang → Option TrapInfo := noCheck) : Out :=
  onGroupIf i s pre fun c g => s.withEntries c g fun _ => s.pop c g cls (want g) d (f g (g.slice c.slice).mode)

/-- An undo that checks no word. -/
def noWord (_ : Gang) : Option Word := none

/-! ## The pairs -/

/-- R172: `rfadd`. -/
def execRfadd (d a b : BitVec 6) (l : BitVec 2) (s : State) : Out :=
  forwardOp (.rfadd d a b l) d.toNat a.toNat (.v b.toNat) l.toNat s fun m a b _ => rfaddRes m a b

/-- R172: `unfadd`. -/
def execUnfadd (d a b : BitVec 6) (s : State) : Out :=
  undoOp (.unfadd d a b) tagFadd noWord (some d.toNat) s fun g _ i e => unfaddWord e (g.vreg a.toNat i) (g.vreg b.toNat i)

/-- R172: `rfmul`. -/
def execRfmul (d a b : BitVec 6) (l : BitVec 2) (s : State) : Out :=
  forwardOp (.rfmul d a b l) d.toNat a.toNat (.v b.toNat) l.toNat s fun m a b _ => rfmulRes m a b

/-- R172: `unfmul`. -/
def execUnfmul (d a b : BitVec 6) (s : State) : Out :=
  undoOp (.unfmul d a b) tagFmul noWord (some d.toNat) s fun g _ i e => unfmulWord e (g.vreg a.toNat i) (g.vreg b.toNat i)

/-- R172: `rfma`. -/
def execRfma (d a b : BitVec 6) (l : BitVec 2) (s : State) : Out :=
  forwardOp (.rfma d a b l) d.toNat a.toNat (.v b.toNat) l.toNat s fun m a b d => rfmaRes m a b d

/-- R172: `unfma`, whose forward result is in `vd`. -/
def execUnfma (d a b : BitVec 6) (s : State) : Out :=
  undoOp (.unfma d a b) tagFma noWord (some d.toNat) s fun g _ i e =>
    unfmaWord e (g.vreg a.toNat i) (g.vreg b.toNat i) (g.vreg d.toNat i)

/-- R172: `rnarrow`. -/
def execRnarrow (d a : BitVec 6) (s : State) : Out :=
  forwardOp (.rnarrow d a) d.toNat a.toNat (.v a.toNat) 0 s (fun m a _ _ => rnarrowRes m a) (etCheck (.rnarrow d a))

/-- R172: `unnarrow`. -/
def execUnnarrow (d a : BitVec 6) (s : State) : Out :=
  undoOp (.unnarrow d a) tagNarrow noWord (some d.toNat) s (fun g m i e => unnarrowWord m e (g.vreg a.toNat i))
    (etCheck (.unnarrow d a))

/-- R173: `rshr`. -/
def execRshr (d a b : BitVec 6) (s : State) : Out :=
  forwardOp (.rshr d a b) d.toNat a.toNat (.v b.toNat) 0 s fun _ a b _ =>
    forwardInt tagShr (a >>> (b.toNat % 32)) (lowBits a (b.toNat % 32)) 0

/-- R173: `unshr`. -/
def execUnshr (d a b : BitVec 6) (s : State) : Out :=
  undoOp (.unshr d a b) tagShr noWord (some d.toNat) s fun g _ i e =>
    let n := (g.vreg b.toNat i).toNat % 32
    (g.vreg a.toNat i <<< n) ||| lowBits e n

/-- R173: the trap of an even scalar factor, TVAL the factor. -/
def evenTrap? (c : Cur) (g : Gang) (b : Nat) : Option TrapInfo :=
  if (g.sreg b).getLsbD 0 then none else some (g.frontTrap c 0x01 ((g.sreg b).setWidth 64))

/-- R173: `rimul`. -/
def execRimul (d a b : BitVec 6) (l : BitVec 2) (s : State) : Out :=
  onGroup (.rimul d a b l) s fun c g =>
    match evenTrap? c g b.toNat with
    | some t => s.trap c t
    | none => s.withRoom c g fun _ =>
        s.runLanes c g (.rimul d a b l) d.toNat a.toNat (.s b.toNat) l.toNat fun _ a b _ => forwardInt tagImul (a * b) 0 0

/-- R173: `unimul`. -/
def execUnimul (d a b : BitVec 6) (s : State) : Out :=
  onGroup (.unimul d a b) s fun c g =>
    match evenTrap? c g b.toNat with
    | some t => s.trap c t
    | none => s.withEntries c g fun _ =>
        s.pop c g tagImul none (some d.toNat) fun i _ => g.vreg a.toNat i * oddInverse (g.sreg b.toNat)

/-- R173: `riadd`. -/
def execRiadd (d a b : BitVec 6) (l : BitVec 2) (s : State) : Out :=
  forwardOp (.riadd d a b l) d.toNat a.toNat (.v b.toNat) l.toNat s fun _ a b _ => forwardInt tagIadd (a + b) 0 0

/-- R173: `unniadd`. -/
def execUnniadd (d a b : BitVec 6) (s : State) : Out :=
  undoOp (.unniadd d a b) tagIadd noWord (some d.toNat) s fun g _ i _ => g.vreg a.toNat i - g.vreg b.toNat i

/-- R173: `rmax0`. -/
def execRmax0 (d a : BitVec 6) (s : State) : Out :=
  forwardOp (.rmax0 d a) d.toNat a.toNat (.v a.toNat) 0 s fun m a _ _ => rmax0Res m a

/-- R173: `unmax0`. -/
def execUnmax0 (d a : BitVec 6) (s : State) : Out :=
  undoOp (.unmax0 d a) tagMax0 noWord (some d.toNat) s fun _ _ _ e => e

/-! ## Marks (R174-R176) -/

/-- R174: the word of a mark. -/
def markWord (w : Word) : Word := lowBits w 27

/-- R174: `rsmark`. -/
def execRsmark (a : BitVec 9) (s : State) : Out :=
  onGroup (.rsmark a) s fun c g => s.withRoom c g fun _ =>
    s.finish c ((g.active (g.group c.slice)).foldl (fun g i =>
      g.setRem i (⟨markWord (g.sreg a.toNat), tagMark⟩ :: g.remOf i)) g)

/-- R174: `unmark`. -/
def execUnmark (a : BitVec 9) (s : State) : Out :=
  undoOp (.unmark a) tagMark (fun g => some (markWord (g.sreg a.toNat))) none s fun _ _ _ e => e

/-- What a lane keeps above nothing and below the nearest mark of a word, none where it has no such mark. -/
def belowMark (key : Word) : List Rem → Option (List Rem)
  | [] => none
  | e :: es => if e.tag = tagMark ∧ e.word = key then some es else belowMark key es

/-- R175: the tags of the slot entries of blocks `n` to 1 down to and including the nearest mark. -/
def State.slotsToMark (s : State) (g : Gang) (j lane : Nat) (key : Word) : Nat → Except Snag (Option (List Dword))
  | 0 => .ok none
  | n + 1 =>
    match s.slotEntries g j lane (n + 1) with
    | .error e => .error e
    | .ok es =>
      let es := es.reverse
      let tag (x : Nat × Rem) : Dword := slotTag (g.block (n + 1)) x.1 lane
      match es.findIdx? fun x => x.2.tag == tagMark && x.2.word == key with
      | some k => .ok (some ((es.take (k + 1)).map tag))
      | none =>
        match s.slotsToMark g j lane key n with
        | .error e => .error e
        | .ok none => .ok none
        | .ok (some rest) => .ok (some (es.map tag ++ rest))

/-- R175: what `rsdrop` leaves of a lane on chip and the tags it consumes, none where the lane has no such mark. -/
def State.dropLane (s : State) (g : Gang) (j : Nat) (key : Word) (lane : Nat) : Except Snag (Nat × Option (List Rem × List Dword)) :=
  match belowMark key (g.remOf lane) with
  | some l => .ok (lane, some (l, []))
  | none => (s.slotsToMark g j lane key g.rsdepth).map fun o => (lane, o.map fun tags => ([], tags))

/-- R175: `rsdrop`. A byte of a slot that it must read or rewrite and whose translation faults traps at it with 0x04 or 0x05
(assumption 68). -/
def execRsdrop (a : BitVec 9) (s : State) : Out :=
  onGroup (.rsdrop a) s fun c g =>
    let js := g.group c.slice
    match collect (s.dropLane g c.slice (markWord (g.sreg a.toNat))) (g.active js) with
    | .error e => s.snagged c g id e
    | .ok lanes =>
      match lanesTrap? ((lanes.filter fun l => l.2.isNone).map fun l => (l.1, 0x06, remVal 0 tagMark tagEmpty)) with
      | some t => s.trap c t
      | none =>
        let tags := lanes.flatMap fun l => match l.2 with | some x => x.2 | none => []
        match s.consume c g tags fun g => lanes.foldl (fun g l => match l.2 with
            | some x => g.setRem l.1 x.1
            | none => g) g with
        | .error e => s.snagged c g id e
        | .ok none => s.put c (g.waitAt js (.room (s.tagLines g c.slice tags)))
        | .ok (some t) =>
          match t.gang? c.tile c.slot with
          | some g => t.finish c g
          | none => t

/-- R176: `rsdep`. -/
def execRsdep (d : BitVec 9) (s : State) : Out :=
  onGroup (.rsdep d) s fun c g =>
    let n := ((g.liveSlices.flatMap lanesOf).map (s.depth g)).foldl max 0
    s.finish c (g.setS d.toNat (BitVec.ofNat 32 n))

end Sys2Proof.Machine
end

