-- ==== Sys2Proof/Machine/Special.lean ====
section
/-!
DEFINITION. Special registers (spec/03_state.md R54, R57-R60, Table 3.7): what `rdsr` reads and `wrsr` writes, number by number.
-/

namespace Sys2Proof.Machine

/-- R54: SCC as a group reads it. -/
def Gang.scc (g : Gang) (j : Nat) : Word :=
  let js := g.group j
  (g.slice j).fl.word ||| (if js.all g.mz then 0x10 else 0) ||| (if js.all g.ma then 0x20 else 0)

/-- Pennants 1 to 7 as PNST reads. -/
def Gang.pennants (g : Gang) : Word :=
  (List.range 8).foldl (fun w k =>
    if k = 0 then w
    else
      match (g.pnst[k]?).getD none with
      | none => w
      | some v => w ||| BitVec.ofNat 32 ((if v then 2 else 1) * 2 ^ (2 * k))) 0

/-- The four engine counters as CNT reads. -/
def Gang.counters (g : Gang) : Word :=
  BitVec.ofNat 32 (g.count 0 + g.count 1 * 2 ^ 8 + g.count 2 * 2 ^ 16 + g.count 3 * 2 ^ 24)

/-- STAT. -/
def State.stat (s : State) (g : Gang) : Word :=
  BitVec.ofNat 32 ((if g.sup then 1 else 0) + (if g.det then 2 else 0) + s.priOf g % 4 * 4 + (s.ctx g.ctx).share % 32 * 16)

/-- GEAR. -/
def Tile.gearWord (t : Tile) : Word := (if t.gear then 1 else 0) ||| (if t.switching.isSome then 2 else 0)

/-- The 32-bit word of a number, widened. -/
def wide (w : Word) : Dword := w.setWidth 64
def wideNat (n : Nat) : Dword := BitVec.ofNat 64 n

/-- Table 3.7: the value of a special register for the group led by slice `j`. -/
def State.readSr (s : State) (g : Gang) (j n : Nat) : Dword :=
  let x := g.slice j
  let cl := s.cluster (clusterOf g.tile)
  match n with
  | 0x0000 => wide x.mode
  | 0x0001 => wide (g.scc j)
  | 0x0002 => wideNat x.repc
  | 0x0003 => wideNat x.cdepth
  | 0x0004 => x.link
  | 0x0005 => x.pc
  | 0x0010 => wide g.hout
  | 0x0011 => wideNat g.fifo.length
  | 0x0012 => wideNat g.horizon
  | 0x0013 => g.fpst.setWidth 64
  | 0x0014 => g.rsb
  | 0x0015 => g.rsl
  | 0x0016 => wideNat g.rsdepth
  | 0x0017 => wide g.counters
  | 0x0018 => wide g.pennants
  | 0x0019 => wide g.adv
  | 0x001A => wideNat g.slot
  | 0x001B => wideNat g.gidx
  | 0x001C => wideNat g.grove
  | 0x001D => wideNat g.ngang
  | 0x001E => wideNat g.nsl
  | 0x001F => wide g.slgrpNow
  | 0x0020 => wide g.spgen
  | 0x0021 => wide (s.stat g)
  | 0x0030 => wideNat s.gtc
  | 0x0031 => wideNat g.tile
  | 0x0032 => wideNat (clusterOf g.tile)
  | 0x0033 => wideNat s.devnum
  | 0x0034 => wide (s.tile g.tile).gearWord
  | 0x0035 => wide (s.tile g.tile).drop
  | 0x0036 => wide cl.cclk
  | 0x0037 => wideNat cl.cad
  | 0x0038 => wideNat cl.slew
  | 0x0039 => wideNat (s.ctx g.ctx).lease
  | 0x0100 => g.trap.tpc
  | 0x0101 => wide g.trap.tcause
  | 0x0102 => g.trap.tval
  | 0x0103 => wide g.trap.tmask
  | 0x0104 => wide g.trap.tmode
  | 0x0105 => wide g.trap.tscc
  | 0x0106 => (s.ctx g.ctx).tbase
  | 0x0107 => (s.ctx g.ctx).loglim
  | _ => if 0x0108 ≤ n ∧ n ≤ 0x010F then g.trap.slicepc.getD (n - 0x0108) 0 else 0

/-- Table 3.7: registers marked S, which no access reaches outside a handler. -/
def srPrivileged (n : Nat) : Bool := decide (0x0100 ≤ n ∧ n ≤ 0x010F)

/-- Table 3.7: whether `wrsr` may write the register, `sup` in a handler. -/
def srWritable (sup : Bool) (n : Nat) : Bool :=
  [0x0000, 0x0001, 0x0004, 0x0013, 0x0014, 0x0015].contains n ||
    (sup && ([0x0010, 0x001F, 0x0035, 0x0039].contains n || srPrivileged n))

/-- The upper twelve bits of an address are zero. -/
def addrOk (x : Dword) : Bool := decide (x.toNat < 2 ^ 52)

/-- R120: whether a value may stand in SLGRP: 0xF for exactly the slices that are not live. -/
def Gang.slgrpOk (g : Gang) (x : Word) : Bool :=
  (List.range 8).all fun j => ((x >>> (4 * j)).toNat % 16 == 15) == !(g.slice j).live

/-- R59 check 5: whether the register's row accepts the value. -/
def Gang.srAccepts (g : Gang) (n : Nat) (x : Dword) : Bool :=
  let w := x.extractLsb' 0 32
  match n with
  | 0x0000 => modeOk w
  | 0x0104 => modeOk w
  | 0x0004 => addrOk x
  | 0x0014 => addrOk x
  | 0x0015 => addrOk x
  | 0x0106 => addrOk x
  | 0x001F => g.slgrpOk w
  | 0x0039 => decide (16 ≤ w.toNat ∧ w.toNat ≤ 4096)
  | _ => if 0x0108 ≤ n ∧ n ≤ 0x010F then addrOk x else true

/-- A 64-bit value with its lowest bits cleared. -/
def clearLow (x : Dword) (n : Nat) : Dword := x >>> n <<< n

/-- A write of a gang's or group's register (Table 3.7). -/
def Gang.writeSr (g : Gang) (js : List Nat) (n : Nat) (x : Dword) : Gang :=
  let w := x.extractLsb' 0 32
  match n with
  | 0x0000 => g.modSlices js fun y => { y with mode := w }
  | 0x0001 => g.modSlices js fun y => { y with fl := .ofWord w }
  | 0x0004 => g.modSlices js fun y => { y with link := clearLow x 2 }
  | 0x0010 => { g with hout := w }
  | 0x0013 => { g with fpst := x.extractLsb' 0 6 }
  | 0x0014 => { g with rsb := clearLow x 6 }
  | 0x0015 => { g with rsl := clearLow x 6 }
  | 0x001F => { g with slgrp := w }
  | 0x0100 => { g with trap := { g.trap with tpc := x } }
  | 0x0101 => { g with trap := { g.trap with tcause := w &&& 0x7FF } }
  | 0x0102 => { g with trap := { g.trap with tval := x } }
  | 0x0103 => { g with trap := { g.trap with tmask := w } }
  | 0x0104 => { g with trap := { g.trap with tmode := w } }
  | 0x0105 => { g with trap := { g.trap with tscc := w &&& 0xF } }
  | _ =>
    if 0x0108 ≤ n ∧ n ≤ 0x010F then
      { g with trap := { g.trap with slicepc := g.trap.slicepc.set (n - 0x0108) (clearLow x 2) } }
    else g

/-- A write of a register of a tile or context (Table 3.7). -/
def State.writeSrOut (s : State) (g : Gang) (n : Nat) (x : Dword) : State :=
  let w := x.extractLsb' 0 32
  match n with
  | 0x0035 => s.modTile g.tile fun t => { t with drop := w }
  | 0x0039 => s.modCtx g.ctx fun k => { k with lease := w.toNat }
  | 0x0106 => s.modCtx g.ctx fun k => { k with tbase := clearLow x 12 }
  | 0x0107 => s.modCtx g.ctx fun k => { k with loglim := x }
  | _ => s

/-- R59 check 3. -/
def srCheck (i : Instr) (n : Nat) (c : Cur) (g : Gang) : Option TrapInfo :=
  if srPrivileged n && !g.sup then some (g.privileged c i) else none

/-- R59 checks 3 and 4. -/
def srWriteCheck (i : Instr) (n : Nat) (c : Cur) (g : Gang) : Option TrapInfo :=
  if srPrivileged n && !g.sup then some (g.privileged c i)
  else if srWritable g.sup n then none
  else some (g.illegal c i)

/-- R118: `rdsr`. -/
def execRdsr (d : BitVec 9) (sr : BitVec 15) (s : State) : Out :=
  onGroupIf (.rdsr d sr) s (srCheck (.rdsr d sr) sr.toNat) fun c g =>
    let x := s.readSr g c.slice sr.toNat
    s.finish c (if srWidth sr.toNat = some 64 then g.setS64 d.toNat x else g.setS d.toNat (x.extractLsb' 0 32))

/-- R118: `wrsr`. -/
def execWrsr (d : BitVec 9) (sr : BitVec 15) (s : State) : Out :=
  onGroupIf (.wrsr d sr) s (srWriteCheck (.wrsr d sr) sr.toNat) fun c g =>
    let x : Dword := if srWidth sr.toNat = some 64 then g.sreg64 d.toNat else wide (g.sreg d.toNat)
    if g.srAccepts sr.toNat x then (s.writeSrOut g sr.toNat x).finish c (g.writeSr (g.group c.slice) sr.toNat x)
    else s.trap c (g.frontTrap c 0x01 x)

end Sys2Proof.Machine
end

