-- ==== Sys2Proof/Machine/Dispatch.lean ====
section
/-!
DEFINITION. One arm for each row of the operation table.
-/

namespace Sys2Proof.Machine

def exec (i : Instr) (s : State) : Host.Outcome State Fault Refusal :=
  match i with
  | .rep n f t => Sys2Proof.Machine.execRep n f t s
  | .bCond c o => Sys2Proof.Machine.execBCond c o s
  | .bMz o => Sys2Proof.Machine.execBMz o s
  | .bMa o => Sys2Proof.Machine.execBMa o s
  | .call o => Sys2Proof.Machine.execCall o s
  | .jmp a => Sys2Proof.Machine.execJmp a s
  | .regang d a => Sys2Proof.Machine.execRegang d a s
  | .ecall imm => Sys2Proof.Machine.execEcall imm s
  | .trap imm => Sys2Proof.Machine.execTrap imm s
  | .brk imm => Sys2Proof.Machine.execBrk imm s
  | .setmode a => Sys2Proof.Machine.execSetmode a s
  | .msetGp imm => Sys2Proof.Machine.execMsetGp imm s
  | .msetEt imm => Sys2Proof.Machine.execMsetEt imm s
  | .msetRm imm => Sys2Proof.Machine.execMsetRm imm s
  | .rdsr d sr => Sys2Proof.Machine.execRdsr d sr s
  | .wrsr d sr => Sys2Proof.Machine.execWrsr d sr s
  | .waitc c n => Sys2Proof.Machine.execWaitc c n s
  | .lnch d a => Sys2Proof.Machine.execLnch d a s
  | .barrArrive b => Sys2Proof.Machine.execBarrArrive b s
  | .barrWait b => Sys2Proof.Machine.execBarrWait b s
  | .barrSync b => Sys2Proof.Machine.execBarrSync b s
  | .logw a => Sys2Proof.Machine.execLogw a s
  | .tlbinv a => Sys2Proof.Machine.execTlbinv a s
  | .add d a b => Sys2Proof.Machine.execAdd d a b s
  | .sub d a b => Sys2Proof.Machine.execSub d a b s
  | .mul d a b => Sys2Proof.Machine.execMul d a b s
  | .mulh d a b => Sys2Proof.Machine.execMulh d a b s
  | .mulhN d a b => Sys2Proof.Machine.execMulhN d a b s
  | .div d a b => Sys2Proof.Machine.execDiv d a b s
  | .divN d a b => Sys2Proof.Machine.execDivN d a b s
  | .rem d a b => Sys2Proof.Machine.execRem d a b s
  | .remN d a b => Sys2Proof.Machine.execRemN d a b s
  | .and d a b => Sys2Proof.Machine.execAnd d a b s
  | .or d a b => Sys2Proof.Machine.execOr d a b s
  | .xor d a b => Sys2Proof.Machine.execXor d a b s
  | .andn d a b => Sys2Proof.Machine.execAndn d a b s
  | .shl d a b => Sys2Proof.Machine.execShl d a b s
  | .shr d a b => Sys2Proof.Machine.execShr d a b s
  | .sra d a b => Sys2Proof.Machine.execSra d a b s
  | .rol d a b => Sys2Proof.Machine.execRol d a b s
  | .min d a b => Sys2Proof.Machine.execMin d a b s
  | .max d a b => Sys2Proof.Machine.execMax d a b s
  | .minN d a b => Sys2Proof.Machine.execMinN d a b s
  | .maxN d a b => Sys2Proof.Machine.execMaxN d a b s
  | .cmp a b => Sys2Proof.Machine.execCmp a b s
  | .bfx d a b => Sys2Proof.Machine.execBfx d a b s
  | .bfi d a b => Sys2Proof.Machine.execBfi d a b s
  | .mov d a => Sys2Proof.Machine.execMov d a s
  | .popc d a => Sys2Proof.Machine.execPopc d a s
  | .clz d a => Sys2Proof.Machine.execClz d a s
  | .ctz d a => Sys2Proof.Machine.execCtz d a s
  | .selCond d a c => Sys2Proof.Machine.execSelCond d a c s
  | .cmpi d imm => Sys2Proof.Machine.execCmpi d imm s
  | .addi d imm => Sys2Proof.Machine.execAddi d imm s
  | .andi d imm => Sys2Proof.Machine.execAndi d imm s
  | .ori d imm => Sys2Proof.Machine.execOri d imm s
  | .xori d imm => Sys2Proof.Machine.execXori d imm s
  | .ldi d imm => Sys2Proof.Machine.execLdi d imm s
  | .ldlo d imm => Sys2Proof.Machine.execLdlo d imm s
  | .ldhi d imm => Sys2Proof.Machine.execLdhi d imm s
  | .iaddV d a b l => Sys2Proof.Machine.execIaddV d a b l s
  | .iaddVs d a b l => Sys2Proof.Machine.execIaddVs d a b l s
  | .isubV d a b l => Sys2Proof.Machine.execIsubV d a b l s
  | .isubVs d a b l => Sys2Proof.Machine.execIsubVs d a b l s
  | .imulV d a b l => Sys2Proof.Machine.execImulV d a b l s
  | .imulVs d a b l => Sys2Proof.Machine.execImulVs d a b l s
  | .imulhV d a b l => Sys2Proof.Machine.execImulhV d a b l s
  | .imulhVs d a b l => Sys2Proof.Machine.execImulhVs d a b l s
  | .imulhNV d a b l => Sys2Proof.Machine.execImulhNV d a b l s
  | .imulhNVs d a b l => Sys2Proof.Machine.execImulhNVs d a b l s
  | .imadV d a b l => Sys2Proof.Machine.execImadV d a b l s
  | .imadVs d a b l => Sys2Proof.Machine.execImadVs d a b l s
  | .iandV d a b l => Sys2Proof.Machine.execIandV d a b l s
  | .iandVs d a b l => Sys2Proof.Machine.execIandVs d a b l s
  | .iorV d a b l => Sys2Proof.Machine.execIorV d a b l s
  | .iorVs d a b l => Sys2Proof.Machine.execIorVs d a b l s
  | .ixorV d a b l => Sys2Proof.Machine.execIxorV d a b l s
  | .ixorVs d a b l => Sys2Proof.Machine.execIxorVs d a b l s
  | .iandnV d a b l => Sys2Proof.Machine.execIandnV d a b l s
  | .iandnVs d a b l => Sys2Proof.Machine.execIandnVs d a b l s
  | .ishlV d a b l => Sys2Proof.Machine.execIshlV d a b l s
  | .ishlVs d a b l => Sys2Proof.Machine.execIshlVs d a b l s
  | .ishrV d a b l => Sys2Proof.Machine.execIshrV d a b l s
  | .ishrVs d a b l => Sys2Proof.Machine.execIshrVs d a b l s
  | .israV d a b l => Sys2Proof.Machine.execIsraV d a b l s
  | .israVs d a b l => Sys2Proof.Machine.execIsraVs d a b l s
  | .iminV d a b l => Sys2Proof.Machine.execIminV d a b l s
  | .iminVs d a b l => Sys2Proof.Machine.execIminVs d a b l s
  | .imaxV d a b l => Sys2Proof.Machine.execImaxV d a b l s
  | .imaxVs d a b l => Sys2Proof.Machine.execImaxVs d a b l s
  | .iminNV d a b l => Sys2Proof.Machine.execIminNV d a b l s
  | .iminNVs d a b l => Sys2Proof.Machine.execIminNVs d a b l s
  | .imaxNV d a b l => Sys2Proof.Machine.execImaxNV d a b l s
  | .imaxNVs d a b l => Sys2Proof.Machine.execImaxNVs d a b l s
  | .iselV k d a b l => Sys2Proof.Machine.execIselV k d a b l s
  | .iselVs k d a b l => Sys2Proof.Machine.execIselVs k d a b l s
  | .icmp c d a b => Sys2Proof.Machine.execIcmp c d a b s
  | .inot d a => Sys2Proof.Machine.execInot d a s
  | .iabs d a => Sys2Proof.Machine.execIabs d a s
  | .ineg d a => Sys2Proof.Machine.execIneg d a s
  | .ipopc d a => Sys2Proof.Machine.execIpopc d a s
  | .iclz d a => Sys2Proof.Machine.execIclz d a s
  | .lanei d => Sys2Proof.Machine.execLanei d s
  | .ibfx d a b => Sys2Proof.Machine.execIbfx d a b s
  | .ibfi d a b => Sys2Proof.Machine.execIbfi d a b s
  | .vbc d b => Sys2Proof.Machine.execVbc d b s
  | .shfl n d a b => Sys2Proof.Machine.execShfl n d a b s
  | .bcast n d a b => Sys2Proof.Machine.execBcast n d a b s
  | .vget n d a b => Sys2Proof.Machine.execVget n d a b s
  | .ballot n d a => Sys2Proof.Machine.execBallot n d a s
  | .matchv n d a => Sys2Proof.Machine.execMatchv n d a s
  | .isect n d a b => Sys2Proof.Machine.execIsect n d a b s
  | .cvt t d a f => Sys2Proof.Machine.execCvt t d a f s
  | .narrow k d a => Sys2Proof.Machine.execNarrow k d a s
  | .widen k d a => Sys2Proof.Machine.execWiden k d a s
  | .faddV d a b l => Sys2Proof.Machine.execFaddV d a b l s
  | .faddVs d a b l => Sys2Proof.Machine.execFaddVs d a b l s
  | .fsubV d a b l => Sys2Proof.Machine.execFsubV d a b l s
  | .fsubVs d a b l => Sys2Proof.Machine.execFsubVs d a b l s
  | .fmulV d a b l => Sys2Proof.Machine.execFmulV d a b l s
  | .fmulVs d a b l => Sys2Proof.Machine.execFmulVs d a b l s
  | .ffmaV d a b l => Sys2Proof.Machine.execFfmaV d a b l s
  | .ffmaVs d a b l => Sys2Proof.Machine.execFfmaVs d a b l s
  | .ffmsV d a b l => Sys2Proof.Machine.execFfmsV d a b l s
  | .ffmsVs d a b l => Sys2Proof.Machine.execFfmsVs d a b l s
  | .fnmaV d a b l => Sys2Proof.Machine.execFnmaV d a b l s
  | .fnmaVs d a b l => Sys2Proof.Machine.execFnmaVs d a b l s
  | .fminV d a b l => Sys2Proof.Machine.execFminV d a b l s
  | .fminVs d a b l => Sys2Proof.Machine.execFminVs d a b l s
  | .fmaxV d a b l => Sys2Proof.Machine.execFmaxV d a b l s
  | .fmaxVs d a b l => Sys2Proof.Machine.execFmaxVs d a b l s
  | .fabs d a => Sys2Proof.Machine.execFabs d a s
  | .fneg d a => Sys2Proof.Machine.execFneg d a s
  | .fclass d a => Sys2Proof.Machine.execFclass d a s
  | .frnd d a => Sys2Proof.Machine.execFrnd d a s
  | .fcmp c d a b => Sys2Proof.Machine.execFcmp c d a b s
  | .frcp n d a => Sys2Proof.Machine.execFrcp n d a s
  | .frsq n d a => Sys2Proof.Machine.execFrsq n d a s
  | .fsqrt n d a => Sys2Proof.Machine.execFsqrt n d a s
  | .fdiv n d a b => Sys2Proof.Machine.execFdiv n d a b s
  | .fexp2 n d a => Sys2Proof.Machine.execFexp2 n d a s
  | .flog2 n d a => Sys2Proof.Machine.execFlog2 n d a s
  | .fexp n d a => Sys2Proof.Machine.execFexp n d a s
  | .flog n d a => Sys2Proof.Machine.execFlog n d a s
  | .fsinpi n d a => Sys2Proof.Machine.execFsinpi n d a s
  | .fcospi n d a => Sys2Proof.Machine.execFcospi n d a s
  | .rng n d a b => Sys2Proof.Machine.execRng n d a b s
  | .rfadd d a b l => Sys2Proof.Machine.execRfadd d a b l s
  | .unfadd d a b => Sys2Proof.Machine.execUnfadd d a b s
  | .rfmul d a b l => Sys2Proof.Machine.execRfmul d a b l s
  | .unfmul d a b => Sys2Proof.Machine.execUnfmul d a b s
  | .rfma d a b l => Sys2Proof.Machine.execRfma d a b l s
  | .unfma d a b => Sys2Proof.Machine.execUnfma d a b s
  | .rnarrow d a => Sys2Proof.Machine.execRnarrow d a s
  | .unnarrow d a => Sys2Proof.Machine.execUnnarrow d a s
  | .rshr d a b => Sys2Proof.Machine.execRshr d a b s
  | .unshr d a b => Sys2Proof.Machine.execUnshr d a b s
  | .rimul d a b l => Sys2Proof.Machine.execRimul d a b l s
  | .unimul d a b => Sys2Proof.Machine.execUnimul d a b s
  | .riadd d a b l => Sys2Proof.Machine.execRiadd d a b l s
  | .unniadd d a b => Sys2Proof.Machine.execUnniadd d a b s
  | .rmax0 d a => Sys2Proof.Machine.execRmax0 d a s
  | .unmax0 d a => Sys2Proof.Machine.execUnmax0 d a s
  | .rsmark a => Sys2Proof.Machine.execRsmark a s
  | .unmark a => Sys2Proof.Machine.execUnmark a s
  | .rsdrop a => Sys2Proof.Machine.execRsdrop a s
  | .rsdep d => Sys2Proof.Machine.execRsdep d s
  | .ldB n d a b h => Sys2Proof.Machine.execLdB n d a b h s
  | .ldBs n d a b h => Sys2Proof.Machine.execLdBs n d a b h s
  | .ldH n d a b h => Sys2Proof.Machine.execLdH n d a b h s
  | .ldHs n d a b h => Sys2Proof.Machine.execLdHs n d a b h s
  | .ldW n d a b h => Sys2Proof.Machine.execLdW n d a b h s
  | .ldAcqW n d a b => Sys2Proof.Machine.execLdAcqW n d a b s
  | .ldD n d a b h => Sys2Proof.Machine.execLdD n d a b h s
  | .ldQ n d a b h => Sys2Proof.Machine.execLdQ n d a b h s
  | .stB d a b h => Sys2Proof.Machine.execStB d a b h s
  | .stH d a b h => Sys2Proof.Machine.execStH d a b h s
  | .stW d a b h => Sys2Proof.Machine.execStW d a b h s
  | .stRelW d a b => Sys2Proof.Machine.execStRelW d a b s
  | .stD d a b h => Sys2Proof.Machine.execStD d a b h s
  | .stQ d a b h => Sys2Proof.Machine.execStQ d a b h s
  | .sldW n d a b h => Sys2Proof.Machine.execSldW n d a b h s
  | .sldAcq n d a b => Sys2Proof.Machine.execSldAcq n d a b s
  | .sldWPhys n d a b => Sys2Proof.Machine.execSldWPhys n d a b s
  | .sldD n d a b h => Sys2Proof.Machine.execSldD n d a b h s
  | .sstW d a b h => Sys2Proof.Machine.execSstW d a b h s
  | .sstRel d a b => Sys2Proof.Machine.execSstRel d a b s
  | .sstWPhys d a b => Sys2Proof.Machine.execSstWPhys d a b s
  | .sstD d a b h => Sys2Proof.Machine.execSstD d a b h s
  | .atom n d a r o h => Sys2Proof.Machine.execAtom n d a r o h s
  | .satom n d r o b h => Sys2Proof.Machine.execSatom n d r o b h s
  | .fenceRel sr => Sys2Proof.Machine.execFenceRel sr s
  | .fenceAcq sr => Sys2Proof.Machine.execFenceAcq sr s
  | .fenceAr sr => Sys2Proof.Machine.execFenceAr sr s
  | .wata d a b => Sys2Proof.Machine.execWata d a b s
  | .wake b => Sys2Proof.Machine.execWake b s
  | .zfill a b => Sys2Proof.Machine.execZfill a b s
  | .pf a b => Sys2Proof.Machine.execPf a b s
  | .pfL2 a b => Sys2Proof.Machine.execPfL2 a b s
  | .cpy4 n g p d => Sys2Proof.Machine.execCpy4 n g p d s
  | .cpy8 n g p d => Sys2Proof.Machine.execCpy8 n g p d s
  | .cpy16 n g p d => Sys2Proof.Machine.execCpy16 n g p d s
  | .bcpy n g p d => Sys2Proof.Machine.execBcpy n g p d s
  | .wcpy n g p d => Sys2Proof.Machine.execWcpy n g p d s
  | .mcast n g p d => Sys2Proof.Machine.execMcast n g p d s
  | .gath n g p d => Sys2Proof.Machine.execGath n g p d s
  | .czero n g p d => Sys2Proof.Machine.execCzero n g p d s
  | .wldS n g p d => Sys2Proof.Machine.execWldS n g p d s
  | .wldG n g p d => Sys2Proof.Machine.execWldG n g p d s
  | .mma n g p d => Sys2Proof.Machine.execMma n g p d s
  | .mloop n g p d => Sys2Proof.Machine.execMloop n g p d s
  | .mrec n g p d => Sys2Proof.Machine.execMrec n g p d s
  | .accrd n g p d => Sys2Proof.Machine.execAccrd n g p d s
  | .accwr n g p d => Sys2Proof.Machine.execAccwr n g p d s
  | .accz n g p d => Sys2Proof.Machine.execAccz n g p d s
  | .mstat n p d => Sys2Proof.Machine.execMstat n p d s
  | .collAr n g p d => Sys2Proof.Machine.execCollAr n g p d s
  | .collRs n g p d => Sys2Proof.Machine.execCollRs n g p d s
  | .collAg n g p d => Sys2Proof.Machine.execCollAg n g p d s
  | .pnset k a => Sys2Proof.Machine.execPnset k a s
  | .pnclr k => Sys2Proof.Machine.execPnclr k s
  | .windowWriteArrival addr data => Sys2Proof.Machine.execWindowWriteArrival addr data s
  | .cclkWrite cluster value => Sys2Proof.Machine.execCclkWrite cluster value s
  | .clusterPowerWrite cluster value => Sys2Proof.Machine.execClusterPowerWrite cluster value s
  | .slackRecordWrite ctx ctl hi lo notch => Sys2Proof.Machine.execSlackRecordWrite ctx ctl hi lo notch s
  | .slackRound ctx slack => Sys2Proof.Machine.execSlackRound ctx slack s
  | .linkTrained link => Sys2Proof.Machine.execLinkTrained link s
  | .linkTrainDegraded link => Sys2Proof.Machine.execLinkTrainDegraded link s
  | .linkTrainTimeout link => Sys2Proof.Machine.execLinkTrainTimeout link s
  | .linkDownRetry link => Sys2Proof.Machine.execLinkDownRetry link s
  | .linkLaneLost link => Sys2Proof.Machine.execLinkLaneLost link s
  | .linkLanesRetrained link => Sys2Proof.Machine.execLinkLanesRetrained link s
  | .linkLanesBelowHalf link => Sys2Proof.Machine.execLinkLanesBelowHalf link s
  | .hostAccess kind => Sys2Proof.Machine.execHostAccess kind s
  | .domainRequest request => Sys2Proof.Machine.execDomainRequest request s
  | .ethFrameReceive port frame => Sys2Proof.Machine.execEthFrameReceive port frame s
  | .ethRetransmitTimeout index => Sys2Proof.Machine.execEthRetransmitTimeout index s
  | .ethPeerLost peer => Sys2Proof.Machine.execEthPeerLost peer s
  | .ptpSync gtc => Sys2Proof.Machine.execPtpSync gtc s
  | .registerWrite addr value width => Sys2Proof.Machine.execRegisterWrite addr value width s
  | .illegalInstruction word => Sys2Proof.Machine.execIllegalInstruction word s
  | .nop => Sys2Proof.Machine.execNop s
  | .ret => Sys2Proof.Machine.execRet s
  | .exit => Sys2Proof.Machine.execExit s
  | .tret => Sys2Proof.Machine.execTret s
  | .tretSkip => Sys2Proof.Machine.execTretSkip s
  | .tkillGang => Sys2Proof.Machine.execTkillGang s
  | .tkillGrove => Sys2Proof.Machine.execTkillGrove s
  | .tpark => Sys2Proof.Machine.execTpark s
  | .gear0 => Sys2Proof.Machine.execGear0 s
  | .gear1 => Sys2Proof.Machine.execGear1 s
  | .gearSwitchComplete => Sys2Proof.Machine.execGearSwitchComplete s
  | .flush => Sys2Proof.Machine.execFlush s
  | .remainderSpill => Sys2Proof.Machine.execRemainderSpill s
  | .remainderRefill => Sys2Proof.Machine.execRemainderRefill s
  | .fenceWaitComplete => Sys2Proof.Machine.execFenceWaitComplete s
  | .wataUnpark => Sys2Proof.Machine.execWataUnpark s
  | .wataBudgetExpiry => Sys2Proof.Machine.execWataBudgetExpiry s
  | .handonWaitResume => Sys2Proof.Machine.execHandonWaitResume s
  | .copyLineStart => Sys2Proof.Machine.execCopyLineStart s
  | .copyComplete => Sys2Proof.Machine.execCopyComplete s
  | .mtxReservationPost => Sys2Proof.Machine.execMtxReservationPost s
  | .matrixPassGrant => Sys2Proof.Machine.execMatrixPassGrant s
  | .matrixPassComplete => Sys2Proof.Machine.execMatrixPassComplete s
  | .mtxSlewWindow => Sys2Proof.Machine.execMtxSlewWindow s
  | .collExchange => Sys2Proof.Machine.execCollExchange s
  | .collComplete => Sys2Proof.Machine.execCollComplete s
  | .storeHomeArrival => Sys2Proof.Machine.execStoreHomeArrival s
  | .storeApply => Sys2Proof.Machine.execStoreApply s
  | .storeCompletionReturn => Sys2Proof.Machine.execStoreCompletionReturn s
  | .completionListExpiry => Sys2Proof.Machine.execCompletionListExpiry s
  | .atomicHome => Sys2Proof.Machine.execAtomicHome s
  | .loadHomeRead => Sys2Proof.Machine.execLoadHomeRead s
  | .loadReturn => Sys2Proof.Machine.execLoadReturn s
  | .l1LeaseExpiry => Sys2Proof.Machine.execL1LeaseExpiry s
  | .ifetchMissFill => Sys2Proof.Machine.execIfetchMissFill s
  | .pageWalk => Sys2Proof.Machine.execPageWalk s
  | .zeroPageClear => Sys2Proof.Machine.execZeroPageClear s
  | .detDrain => Sys2Proof.Machine.execDetDrain s
  | .forcedDrain => Sys2Proof.Machine.execForcedDrain s
  | .barrierArrivalRegister => Sys2Proof.Machine.execBarrierArrivalRegister s
  | .barrierRelease => Sys2Proof.Machine.execBarrierRelease s
  | .tileSink => Sys2Proof.Machine.execTileSink s
  | .bannerLift => Sys2Proof.Machine.execBannerLift s
  | .grovePlacement => Sys2Proof.Machine.execGrovePlacement s
  | .gangActivate => Sys2Proof.Machine.execGangActivate s
  | .gangExchange => Sys2Proof.Machine.execGangExchange s
  | .forcedExchange => Sys2Proof.Machine.execForcedExchange s
  | .groveRetire => Sys2Proof.Machine.execGroveRetire s
  | .launchAdmission => Sys2Proof.Machine.execLaunchAdmission s
  | .afterWordPoll => Sys2Proof.Machine.execAfterWordPoll s
  | .launchDrainComplete => Sys2Proof.Machine.execLaunchDrainComplete s
  | .ctxStart => Sys2Proof.Machine.execCtxStart s
  | .ctxStop => Sys2Proof.Machine.execCtxStop s
  | .ctxSaveComplete => Sys2Proof.Machine.execCtxSaveComplete s
  | .ctxResume => Sys2Proof.Machine.execCtxResume s
  | .ctxRestoreComplete => Sys2Proof.Machine.execCtxRestoreComplete s
  | .ctxKill => Sys2Proof.Machine.execCtxKill s
  | .ctxKillComplete => Sys2Proof.Machine.execCtxKillComplete s
  | .ctxUpdate => Sys2Proof.Machine.execCtxUpdate s
  | .ctxRelease => Sys2Proof.Machine.execCtxRelease s
  | .faultQueuePost => Sys2Proof.Machine.execFaultQueuePost s
  | .fqResume => Sys2Proof.Machine.execFqResume s
  | .fqDecline => Sys2Proof.Machine.execFqDecline s
  | .fqInvalidate => Sys2Proof.Machine.execFqInvalidate s
  | .fqInvalidateAck => Sys2Proof.Machine.execFqInvalidateAck s
  | .fqKill => Sys2Proof.Machine.execFqKill s
  | .cclkRelockComplete => Sys2Proof.Machine.execCclkRelockComplete s
  | .cadenceStep => Sys2Proof.Machine.execCadenceStep s
  | .dormantRequest => Sys2Proof.Machine.execDormantRequest s
  | .dormantSeal => Sys2Proof.Machine.execDormantSeal s
  | .dormantWake => Sys2Proof.Machine.execDormantWake s
  | .wakeComplete => Sys2Proof.Machine.execWakeComplete s
  | .logLineWrite => Sys2Proof.Machine.execLogLineWrite s
  | .logGroupTimeout => Sys2Proof.Machine.execLogGroupTimeout s
  | .deviceReset => Sys2Proof.Machine.execDeviceReset s
  | .mbExtend => Sys2Proof.Machine.execMbExtend s
  | .mbReport => Sys2Proof.Machine.execMbReport s
  | .reportComplete => Sys2Proof.Machine.execReportComplete s
  | .hostStoreAcknowledge => Sys2Proof.Machine.execHostStoreAcknowledge s
  | .longLatencyResultReturn => Sys2Proof.Machine.execLongLatencyResultReturn s

end Sys2Proof.Machine
end

