-- ==== Sys2Proof/Machine/Events.lean ====
section
/-!
DEFINITION. What can happen in a step by itself: the group that issues on each row, lines still to be fetched, and every event of the
device (spec/95_what_each_step_holds.md; assumptions 3, 4).
-/

namespace Sys2Proof.Machine

/-- One thing that can happen in a step. -/
inductive Choice where
  | issue (c : Cur) (i : Instr) (repc : Option Nat)
  | event (i : Instr) (on : Subject)
  deriving DecidableEq, Repr

/-! ## Issue (R279) and instruction lines (R390) -/

/-- R279: the group that issues next on a row of a tile. -/
def State.rowChoice (s : State) (tile row : Nat) : List Choice :=
  match s.rowWinner tile row with
  | none => []
  | some (g, j) =>
    match s.coming g j with
    | .instr i repc => [.issue ⟨g.tile, g.slot, j⟩ i repc]
    | .fetch _ => []

/-- The tiles on which gangs stand. -/
def State.busyTiles (s : State) : List Nat := distinct ((s.gangs.filter fun e => decide (e.2.slot < 32)).map fun e => e.2.tile)

/-- The group that issues next on each row of each tile. -/
def State.issueChoices (s : State) : List Choice := s.busyTiles.flatMap fun t => s.rowChoice t 0 ++ s.rowChoice t 1

def State.fetchEvents (s : State) : List (Instr × Subject) :=
  s.gangs.flatMap fun e =>
    if e.2.ended || decide (32 ≤ e.2.slot) then []
    else (e.2.leaders.filter (s.fetches e.2)).map fun j => (.ifetchMissFill, ⟨e.2.tile, e.2.slot, j, 0⟩)

/-! ## Events of one gang, tile, cluster, context, launch and of the device

An event listed here whose conditions do not hold does nothing. -/

/-- Waits of one group that an event can end. -/
def waitEvents (tile slot j : Nat) (x : Slice) : List (Instr × Subject) :=
  match x.wait with
  | .handon => [(.handonWaitResume, ⟨tile, slot, j, 0⟩)]
  | .fence _ _ => [(.fenceWaitComplete, ⟨tile, slot, j, 0⟩)]
  | .wata => [(.wataUnpark, ⟨tile, slot, j, 0⟩), (.wataBudgetExpiry, ⟨tile, slot, j, 0⟩)]
  | .arrive _ => [(.barrierArrivalRegister, ⟨tile, slot, 0, 0⟩)]
  | .barrier _ => [(.barrierRelease, ⟨tile, slot, 0, 0⟩)]
  | .spill => [(.remainderSpill, ⟨tile, slot, j, 0⟩)]
  | .refill => [(.remainderRefill, ⟨tile, slot, j, 0⟩)]
  | .fetch => if x.phase = 1 then [(.ifetchMissFill, ⟨tile, slot, j, 0⟩)] else []
  | .drain => if x.phase = 0 then [(.forcedDrain, ⟨tile, 0, 0, 0⟩)] else []
  | _ => []

/-- Results of long-latency instructions still to return, and prefetches (R194). -/
def pendEvents (tile slot : Nat) (p : Pend) : List (Instr × Subject) :=
  if p.returned then []
  else
    match p.load with
    | some l =>
      (l.need.map fun n => (.loadHomeRead, ⟨tile, slot, p.id, n⟩)) ++
        if l.need.isEmpty || p.dests.isEmpty then [(.loadReturn, ⟨tile, slot, p.id, 0⟩)] else []
    | none => if p.vals.isEmpty then [] else [(.longLatencyResultReturn, ⟨tile, slot, p.id, 0⟩)]

/-- Commands at the heads of a gang's queues. -/
def queueEvents (g : Gang) : List (Instr × Subject) :=
  let k := clusterOf g.tile
  (if (g.queues.getD 0 []).isEmpty then [] else [(.copyLineStart, ⟨k, 0, 0, 0⟩), (.copyComplete, ⟨g.tile, g.slot, 0, 0⟩)]) ++
  (if (g.queues.getD 1 []).isEmpty then [] else [(.copyLineStart, ⟨k, 0, 0, 0⟩), (.copyComplete, ⟨g.tile, g.slot, 1, 0⟩)]) ++
  (if (g.queues.getD 2 []).isEmpty then []
   else [(.mtxReservationPost, ⟨g.tile, g.slot, 0, 0⟩), (.matrixPassGrant, ⟨k, 0, 0, 0⟩), (.matrixPassComplete, ⟨g.tile, g.slot, 0, 0⟩)]) ++
  (if (g.queues.getD 3 []).isEmpty then [] else [(.collExchange, ⟨g.tile, g.slot, 0, 0⟩), (.collComplete, ⟨g.tile, g.slot, 0, 0⟩)])

def gangEvents (g : Gang) : List (Instr × Subject) :=
  g.leaders.flatMap (fun j => waitEvents g.tile g.slot j (g.slice j)) ++ g.pend.flatMap (pendEvents g.tile g.slot) ++
    queueEvents g ++
    (if g.pos.isNone && !g.ended && decide (g.slot < 32) then [(.gangActivate, ⟨g.tile, g.slot, 0, 0⟩)] else [])

/-- What an entry of a store queue does next. -/
def sqEvents (tile : Nat) (e : SqEntry) : List (Instr × Subject) :=
  match e.w with
  | none => [match e.req with
             | .atomic _ _ _ _ _ _ => (.atomicHome, ⟨tile, e.seq, 0, 0⟩)
             | _ => (.storeHomeArrival, ⟨tile, e.seq, 0, 0⟩)]
  | some _ => [(.storeCompletionReturn, ⟨tile, e.seq, 0, 0⟩)]

def tileEvents (now tile : Nat) (t : Tile) : List (Instr × Subject) :=
  t.sq.flatMap (sqEvents tile) ++ (t.clist.filter fun x => decide (x.2 ≤ now)).map (fun x => (.completionListExpiry, ⟨tile, x.1, 0, 0⟩)) ++
    (t.l1.filter fun c => decide (c.expiry < now)).map (fun c => (.l1LeaseExpiry, ⟨tile, c.line, 0, 0⟩)) ++
    (if t.switching.isSome then [(.gearSwitchComplete, ⟨tile, 0, 0, 0⟩)] else []) ++
    (match t.dorm with
     | .active => if !t.gear && t.holder.isSome then [(.dormantRequest, ⟨tile, 0, 0, 0⟩)] else []
     | .sealing => [(.dormantSeal, ⟨tile, 0, 0, 0⟩)]
     | .dormant => [(.dormantWake, ⟨tile, 0, 0, 0⟩)]
     | .waking => [(.wakeComplete, ⟨tile, 0, 0, 0⟩)]) ++
    (if t.gear then [(.tileSink, ⟨tile, 0, 0, 0⟩)] else []) ++
    (if t.stage.length ≥ 4 then [(.logLineWrite, ⟨tile, 0, 0, 0⟩)] else if t.stage.isEmpty then [] else [(.logGroupTimeout, ⟨tile, 0, 0, 0⟩)])

def clusterEvents (now c : Nat) (k : Cluster) : List (Instr × Subject) :=
  (if k.relock.isSome then [(.cclkRelockComplete, ⟨c, 0, 0, 0⟩)] else []) ++ (if k.cad > k.base then [(.cadenceStep, ⟨c, 0, 0, 0⟩)] else []) ++
    (if k.slew != 0 && k.window now != k.mtxWin then [(.mtxSlewWindow, ⟨c, 0, 0, 0⟩)] else [])

def ctxEvents (n : Nat) (x : Ctx) : List (Instr × Subject) :=
  (match x.st with
   | .stopping => [(.ctxSaveComplete, ⟨n, 0, 0, 0⟩)]
   | .restoring => [(.ctxRestoreComplete, ⟨n, 0, 0, 0⟩)]
   | .killing => [(.ctxKillComplete, ⟨n, 0, 0, 0⟩)]
   | _ => []) ++
  (if x.posts.isEmpty && x.rings.isEmpty then [] else [(.faultQueuePost, ⟨n, 0, 0, 0⟩)]) ++
  (x.inval.mapIdx fun i _ => (.fqInvalidateAck, ⟨n, i, 0, 0⟩)) ++
  match x.slack.open_.find? SlackRound.seen with
  | none => []
  | some r => [(.slackRound n r.slack, ⟨n, 0, 0, 0⟩)]

/-- R248: commands of the context controllers, in memory or held. -/
def State.commandEvents (s : State) : List (Instr × Subject) :=
  if s.boot.stage ≠ 3 then []
  else
    (List.range 64).flatMap fun n =>
      let w := s.nextCmd n
      if w = 0 then []
      else
        match (w &&& 0xF).toNat with
        | 1 => [(.ctxStart, ⟨n, 0, 0, 0⟩)]
        | 2 => [(.ctxStop, ⟨n, 0, 0, 0⟩)]
        | 3 => [(.ctxResume, ⟨n, 0, 0, 0⟩)]
        | 4 => [(.ctxKill, ⟨n, 0, 0, 0⟩)]
        | 5 => [(.ctxUpdate, ⟨n, 0, 0, 0⟩)]
        | _ => [(.ctxRelease, ⟨n, 0, 0, 0⟩)]

/-- R313: requests that stand in memory. -/
def State.requestEvents (s : State) : List (Instr × Subject) :=
  s.ctxs.flatMap fun e =>
    if !e.2.queued then []
    else
      let w := s.standing (e.2.fq + 0x10)
      if w = 0 then []
      else
        match (w &&& 0xF).toNat with
        | 1 => [(.fqResume, ⟨e.1, 0, 0, 0⟩)]
        | 2 => [(.fqDecline, ⟨e.1, 0, 0, 0⟩)]
        | 3 => [(.fqInvalidate, ⟨e.1, 0, 0, 0⟩)]
        | _ => [(.fqKill, ⟨e.1, 0, 0, 0⟩)]

/-- R344: the words of the power control block that the host has changed, read once they are in force. -/
def State.powerEvents (s : State) : List (Instr × Subject) :=
  if s.boot.stage ≠ 3 then []
  else
    let settled (loc : Nat) : Bool := decide ((s.home (lineOf loc)).lastW ≤ s.gtc)
    ((List.range 192).filterMap fun c =>
      let loc := s.boot.powerAt c
      let w := s.homeWord s.gtc loc
      if settled loc && w.toNat != (s.cluster c).powerWord then some (.clusterPowerWrite c w, ⟨c, 0, 0, 0⟩) else none) ++
    (List.range 64).filterMap fun n =>
      let loc := s.boot.slackAt n
      let x := (s.ctx n).slack
      let w (k : Nat) : Word := s.homeWord s.gtc (loc + 4 * k)
      if settled loc && s.homeBytes s.gtc loc 32 != x.bytes then
        some (.slackRecordWrite n (w 0) (w 1) (w 2) (w 3), ⟨n, 0, 0, 0⟩)
      else none

def launchEvents (l : Nat) (x : Launch) : List (Instr × Subject) :=
  (match x.state with
   | .posted => (.launchAdmission, ⟨l, 0, 0, 0⟩) :: (List.range x.afters.length).map (fun i => (.afterWordPoll, ⟨l, i, 0, 0⟩))
   | .admitted => [(.grovePlacement, ⟨l, 0, 0, 0⟩)]
   | .dispatching => [(.grovePlacement, ⟨l, 0, 0, 0⟩)]
   | .draining => [(.launchDrainComplete, ⟨l, 0, 0, 0⟩)]
   | _ => []) ++
  (x.placed.filter fun g => decide (g.exited.length ≥ x.ng)).map (fun g => (.groveRetire, ⟨g.tile, l, g.index, 0⟩)) ++
  (x.banner.filter fun b => !b.2.lifted).map fun b => (.bannerLift, ⟨l, b.1, 0, 0⟩)

/-- R280: exchanges of an active gang of a tile with a pending one. -/
def State.exchangeEvents (s : State) : List (Instr × Subject) :=
  s.gangs.flatMap fun e =>
    let g := e.2
    if g.pos.isSome || g.ended || decide (32 ≤ g.slot) then []
    else
      (.forcedExchange, ⟨g.tile, 0, 0, 0⟩) ::
        ((s.gangsOf g.tile).filter fun h => h.pos.isSome).map fun h => (.gangExchange, ⟨g.tile, h.slot, g.slot, 0⟩)

/-- R353: a mailbox request, and a report under way. -/
def Boot.events (b : Boot) : List (Instr × Subject) :=
  (if b.report.isSome then [(.reportComplete, ⟨0, 0, 0, 0⟩)] else []) ++
    if !b.mbNew then [] else if (b.mbReq &&& 0xF) = 1 then [(.mbExtend, ⟨0, 0, 0, 0⟩)] else [(.mbReport, ⟨0, 0, 0, 0⟩)]

/-- R306, R318: the host's access at the head of the port, and the domain requests that wait there. -/
def State.portEvents (s : State) : List (Instr × Subject) :=
  (s.hostPort.take 1).map (fun k => (.hostAccess k, ⟨1, 0, 0, 0⟩)) ++ s.domainPort.map fun r => (.domainRequest r, ⟨1, 0, 0, 0⟩)

/-- Everything the device can do by itself, beside issue. -/
def State.events (s : State) : List (Instr × Subject) :=
  s.fetchEvents ++ s.gangs.flatMap (fun e => gangEvents e.2) ++ s.tiles.flatMap (fun e => tileEvents s.gtc e.1 e.2) ++
    s.clusters.flatMap (fun e => clusterEvents s.gtc e.1 e.2) ++
    (s.homes.filter fun h => h.2.pending.any fun p => decide (p.1 ≤ s.gtc)).map (fun h => (.storeApply, ⟨h.1, 0, 0, 0⟩)) ++
    (s.walks.mapIdx fun i w => (if w.clear then .zeroPageClear else .pageWalk, ⟨i, 0, 0, 0⟩)) ++
    (s.hostStores.map fun h => (.hostStoreAcknowledge, ⟨h.tile, h.slot, 0, 0⟩)) ++ (s.drains.mapIdx fun i _ => (.detDrain, ⟨i, 0, 0, 0⟩)) ++
    s.ctxs.flatMap (fun e => ctxEvents e.1 e.2) ++ s.launches.flatMap (fun e => launchEvents e.1 e.2) ++ s.exchangeEvents ++
    s.requestEvents ++ s.commandEvents ++ s.powerEvents ++ s.boot.events ++ s.portEvents

/-- What can happen in the next step. -/
def State.choices (s : State) : List Choice := s.issueChoices ++ (s.events.map fun e => .event e.1 e.2)

/-- The choice a turn's number names, counted round; the first is taken without counting them. -/
def chooseFrom {α : Type} (l : List α) (n : Nat) : Option α := if n = 0 then l.head? else l[n % l.length]?

end Sys2Proof.Machine
end

