-- ==== Sys2Proof/Machine/Step.lean ====
section
/-!
DEFINITION. One step of the device: a fault of the hardware may strike; the schedule's turn picks an input, an issue group or an event; it
happens; GTC moves on.
-/

namespace Sys2Proof.Machine

/-- What follows an outcome of a turn: GTC moves on, the step's fault of the lanes is over, and the groups of active gangs are looked at
where they now stand (R100, R279). -/
def ticked (n : Nat) : Out → Out
  | .next s => .next ({ s with upset := 0 }.tick n).noteReady
  | .fault r => .fault r
  | .refused r => .refused r

/-- What is done after a group's instruction. -/
def settled (c : Cur) (old : Gang) (i : Instr) : Out → Out
  | .next s => .next (s.after c old i)
  | .fault r => .fault r
  | .refused r => .refused r

/-- A group issues an instruction. -/
def runGroup (c : Cur) (i : Instr) (repc : Option Nat) (s : State) : Out :=
  let s := s.before c i repc
  match s.gang? c.tile c.slot with
  | none => .next s
  | some g => settled c g i (exec i s)

/-- An event happens. -/
def runEvent (i : Instr) (on : Subject) (s : State) : Out := exec i { s with cur := none, subject := on }

/-- What the surroundings bring (assumptions 53, 54): a line of memory can no longer be read, the shadows of some lanes differ in this
step, or another device serves contexts and pages as it now says (R322). -/
def State.strike (s : State) : Option Upset → State
  | none => s
  | some (.memory line) => { s with bad := if s.bad.contains line then s.bad else s.bad ++ [line] }
  | some (.lanes mask) => { s with upset := mask }
  | some (.peer dev p) => { s with peers := match p with
      | some p => Sparse.put s.peers dev p
      | none => Sparse.del s.peers dev }

/-- What the turn picks. -/
def runTurn (t : Turn) (s : State) : Out :=
  let s := s.strike t.upset
  match t.input with
  | some i => runEvent i t.subject s
  | none =>
    match chooseFrom s.choices t.pick with
    | none => .next s
    | some (.issue c i repc) => runGroup c i repc s
    | some (.event i on) => runEvent i on s

def step (s : State) : Host.Outcome State Fault Refusal := ticked s.turn.ticks (runTurn s.turn s.popTurn)

/-- `s` with an instruction placed where the next step fetches: a gang of eight slices in slot 0 of tile 0, every register
there, its context 0 running, and the word at address 0x1000 in memory, in the cluster's instruction cache and translated. It
stands for the load of a program (assumption 16). -/
def State.withFetchWord (s : State) (nbits w : Nat) : State :=
  let word : Word := BitVec.ofNat 32 (w % 2 ^ nbits)
  let bytes : List Byte := bytesOfNat 4 word.toNat
  let page : Xlat := { ctx := 0, va := 0, pa := 0, size := 16, r := true, w := true, x := true, sc := false, zh := false }
  let gang : Gang :=
    { tile := 0, slot := 0, ctx := 0, nsl := 8, nv := 64, ns := 512, pos := some 0,
      slices := List.replicate 8 { pc := 0x1000 } }
  let s := { s with
    cur := none
    agenda := []
    gtc := 0
    gangs := [(0, gang)]
    mem := (bytes.mapIdx fun i b => (0x1000 + i, b)).foldl (fun m (x : Nat × Byte) => Sparse.write 0 m x.1 x.2) s.mem }
  let s := s.modCtx 0 fun c => { c with st := .running, tiles := [0] }
  let s := s.modTile 0 fun t => { t with holder := some 0, switching := none, dorm := .active }
  s.modCluster 0 fun c =>
    { c with
      relock := none
      tlb := [page]
      icache := [{ line := 64, bytes := bytes ++ List.replicate 60 0, grant := 0, expiry := 1000000 }] }

end Sys2Proof.Machine
end

