-- ==== Sys2Proof/Safety.lean ====
section
/-!
DEFINITION. The terms that statements use: the canonical form of memory, when a group starts an instruction, and what a step
leaves as it was.
-/

namespace Sys2Proof.Machine

/-- The canonical form of memory: addresses strictly rising, no listed byte 0. -/
abbrev Memory.wf (m : Sparse Byte) : Bool := Sparse.canon 0 m

/-- The canonical form of the device's memory. -/
abbrev State.memWf (s : State) : Bool := Memory.wf s.mem

/-- The group led by slice `c.slice` of the gang `g` executes `i`, every register that `i` names exists (R49, R55), none it reads
holds a status marked by a hard error (R199), and no lane's shadow differs (R38). -/
structure Starts (s : State) (c : Cur) (g : Gang) (i : Instr) : Prop where
  cur : s.cur = some c
  gang : s.gang? c.tile c.slot = some g
  vregs : ∀ n, n ∈ (Instr.regs i).rv ++ (Instr.regs i).wv → n < g.nv
  sregs : ∀ n, n ∈ (Instr.regs i).rs ++ (Instr.regs i).ws → n < g.ns
  cleanS : ∀ n, n ∈ (Instr.regs i).rs → n ∉ g.markS
  cleanV : ∀ n, n ∈ (Instr.regs i).rv → ∀ l, l ∈ g.active (g.group c.slice) → n * 32 + l ∉ g.markV
  agree : s.upset = 0

/-- From `s` to `t` only the gang in the executing slot has changed: it stands as `h`. Every byte of memory reads as before. -/
structure OnlyGang (s t : State) (c : Cur) (h : Gang) : Prop where
  gang : t.gang? c.tile c.slot = some h
  others : ∀ tile slot, gkey tile slot ≠ gkey c.tile c.slot → t.gang? tile slot = s.gang? tile slot
  rest : { t with gangs := s.gangs } = s
  bytes : ∀ now a, t.homeByte now a = s.homeByte now a

/-- The lanes of a group that execute (R24): the active lanes of its slices. -/
abbrev lanes (g : Gang) (c : Cur) : List Nat := g.active (g.group c.slice)

/-- The group's slices are past the instruction (R105 inside a repeat), the others where they were. -/
def Past (g h : Gang) (c : Cur) : Prop :=
  ∀ j, h.slice j = if j ∈ g.group c.slice then (g.slice j).advance else g.slice j

/-- The same, with the flags each slice of the group then has. -/
def PastWith (g h : Gang) (c : Cur) (fl : Flags → Flags) : Prop :=
  ∀ j, h.slice j = if j ∈ g.group c.slice then { (g.slice j).advance with fl := fl (g.slice j).fl } else g.slice j

/-- The gang without its registers, slices, awaited results, error marks, walk results and FPST. -/
def Gang.core (g : Gang) : Gang :=
  { g with
    slices := [], v := [], sregs := [], p := [], rem := [], markS := [], markV := [], walked := [], fpst := 0, pend := [], nextId := 0 }

/-- What an instruction leaves of its gang's registers: the scalar registers `sr`, the vector registers `vr`, the predicates `pr`,
the remainder stacks `rm` and FPST `fp`, with the results `pd` still awaited, and nothing else changed but the slices. -/
structure Left (g h : Gang) (sr : Nat → Word) (vr : Nat → Nat → Word) (pr : Nat → Nat → Bool) (rm : Nat → List Rem)
    (fp : BitVec 6) (pd : List Pend) : Prop where
  sreg : ∀ n, h.sreg n = sr n
  vreg : ∀ n l, l < 32 → h.vreg n l = vr n l
  pred : ∀ n l, l < 32 → h.pred n l = pr n l
  rem : ∀ l, h.remOf l = rm l
  fpst : h.fpst = fp
  pend : h.pend = pd
  core : h.core = g.core

/-- A scalar register file with one register written. -/
def Gang.sregWith (g : Gang) (d : Nat) (x : Word) (n : Nat) : Word := if n = d then x else g.sreg n

/-- The vector registers with the lanes of a group written in one register. -/
def Gang.vregWith (g : Gang) (ls : List Nat) (d : Nat) (f : Nat → Word) (n l : Nat) : Word :=
  if n = d ∧ l ∈ ls then f l else g.vreg n l

/-- R61, R35: the gang `g` has entered its handler as `h`: the trap registers, SUP, and the one group of its live slices. A register
that no result in flight is to write stands as before. -/
structure Entered (s t : State) (c : Cur) (g h : Gang) (cause : Nat) (tval : Dword) (slice : Nat) (mask : Nat → Bool) : Prop where
  gang : t.gang? c.tile c.slot = some h
  others : ∀ tile slot, gkey tile slot ≠ gkey c.tile c.slot → t.gang? tile slot = s.gang? tile slot
  rest : { t with gangs := s.gangs, watches := s.watches } = s
  sup : h.sup = true
  tpc : h.trap.tpc = (g.slice c.slice).pc
  tcause : h.trap.tcause = BitVec.ofNat 32 (slice * 256 + cause)
  tval : h.trap.tval = tval
  tmask : ∀ k, k < 32 → h.trap.tmask.getLsbD k = mask k
  tmode : h.trap.tmode = (g.slice c.slice).mode
  tscc : h.trap.tscc = (g.slice c.slice).fl.word
  slicepc : ∀ j, j ∈ g.liveSlices → h.trap.slicepc.getD j 0 = (g.slice j).pc
  slgrp : h.slgrp = g.groupsNow
  slices : ∀ j, j < 8 → h.slice j = if j ∈ g.liveSlices then
      { g.slice j with
        pc := (s.ctx g.ctx).tbase + BitVec.ofNat 64 (64 * cause), mode := 0, grp := g.liveSlices.headD 0, wait := .run, phase := 0
        inRep := false, cut := false }
    else g.slice j
  sreg : ∀ n, (∀ p, p ∈ g.pend → Dest.sreg n ∉ p.dests) → h.sreg n = g.sreg n
  vreg : ∀ n l, l < 32 → (∀ p, p ∈ g.pend → Dest.vreg (n * 32 + l) ∉ p.dests) → h.vreg n l = g.vreg n l
  pred : ∀ n l, h.pred n l = g.pred n l
  rem : ∀ l, h.remOf l = g.remOf l
  fpst : h.fpst = g.fpst
  adv : (∀ p, p ∈ g.pend → Dest.adv ∉ p.dests) → h.adv = g.adv
  core : { h.core with trap := g.trap, sup := g.sup, slgrp := g.slgrp, adv := g.adv } = g.core

/-- The window that a long-latency instruction opens for its group. -/
structure Opened (g : Gang) (c : Cur) (n : Nat) (p : Pend) (ds : List Dest) (vs : List (Dest × Word)) (l : Option LoadPart) : Prop where
  id : p.id = g.nextId
  slices : p.slices = g.group c.slice
  left : ∀ j, j < 8 → p.left.getD j 0 = if j ∈ g.group c.slice then n else 0
  dests : p.dests = ds
  vals : p.vals = vs
  returned : p.returned = false
  load : p.load = l
  after : p.after = []
  shut : p.shut = []
  engine : p.engine = false

/-- What the results in flight can change of a gang when they are written. -/
structure Settled (g h : Gang) : Prop where
  slices : h.slices = g.slices
  sreg : ∀ n, (∀ p, p ∈ g.pend → Dest.sreg n ∉ p.dests) → h.sreg n = g.sreg n
  vreg : ∀ n l, l < 32 → (∀ p, p ∈ g.pend → Dest.vreg (n * 32 + l) ∉ p.dests) → h.vreg n l = g.vreg n l
  pred : ∀ n l, h.pred n l = g.pred n l
  rem : ∀ l, h.remOf l = g.remOf l
  fpst : h.fpst = g.fpst
  trap : h.trap = g.trap
  slgrp : h.slgrp = g.slgrp
  adv : (∀ p, p ∈ g.pend → Dest.adv ∉ p.dests) → h.adv = g.adv
  core : { h.core with adv := g.adv } = g.core
  pend : ∀ q, q ∈ h.pend → ∃ p, p ∈ g.pend ∧ ∀ d, d ∈ q.dests → d ∈ p.dests

end Sys2Proof.Machine
end

