-- ==== Sys2Proof/Certificates/Slice0/Obligations.lean ====
section
/-!
DEFINITION. The statements about the model, with the words of the manual they use written out anew (namespace `Claims`).
-/

open Sys2Proof Sys2Proof.Machine

/-! ## Scalar operations (spec/06_isa_control.md) -/

namespace Sys2Proof.Claims

open Sys2Proof.Machine

/-- Table 6.1: Z and N of a result. -/
def zn (r : Word) (f : Flags) : Flags := { f with z := decide (r = 0), n := r.getLsbD 31 }

/-- A 32-bit result of an exact sum or difference overflows INT32. -/
def outside (x : Int) : Bool := decide (x < -2147483648 ∨ 2147483647 < x)

/-- Table 6.1 and R110: the operations that set Z, N, C and V: destination, result, C and V. -/
def arith (g : Gang) : Instr → Option (Nat × Word × Bool × Bool)
  | .add d a b =>
    let x := g.sreg a.toNat; let y := g.sreg b.toNat
    some (d.toNat, x + y, decide (2 ^ 32 ≤ x.toNat + y.toNat), outside (x.toInt + y.toInt))
  | .sub d a b =>
    let x := g.sreg a.toNat; let y := g.sreg b.toNat
    some (d.toNat, x - y, decide (y.toNat ≤ x.toNat), outside (x.toInt - y.toInt))
  | .addi d i =>
    let x := g.sreg d.toNat; let y : Word := i.signExtend 32
    some (d.toNat, x + y, decide (2 ^ 32 ≤ x.toNat + y.toNat), outside (x.toInt + y.toInt))
  | .mul d a b =>
    let x := g.sreg a.toNat; let y := g.sreg b.toNat
    some (d.toNat, x * y, decide (x.toNat * y.toNat / 2 ^ 32 ≠ 0), outside (x.toInt * y.toInt))
  | .mulh d a b => some (d.toNat, BitVec.ofInt 32 ((g.sreg a.toNat).toInt * (g.sreg b.toNat).toInt / 2 ^ 32), false, false)
  | .mulhN d a b => some (d.toNat, BitVec.ofNat 32 ((g.sreg a.toNat).toNat * (g.sreg b.toNat).toNat / 2 ^ 32), false, false)
  | _ => none

/-- R109: whether bit `k` lies in the field that `b` names. -/
def inField (b : Word) (k : Nat) : Bool := decide (b.toNat % 32 ≤ k ∧ k < b.toNat % 32 + (b.toNat / 256 % 32 + 1))

/-- Table 6.1 and R110: the operations that set Z and N alone: destination and the bits of the result. -/
def logic (g : Gang) : Instr → Option (Nat × (Nat → Bool))
  | .and d a b => some (d.toNat, fun k => (g.sreg a.toNat).getLsbD k && (g.sreg b.toNat).getLsbD k)
  | .or d a b => some (d.toNat, fun k => (g.sreg a.toNat).getLsbD k || (g.sreg b.toNat).getLsbD k)
  | .xor d a b => some (d.toNat, fun k => (g.sreg a.toNat).getLsbD k != (g.sreg b.toNat).getLsbD k)
  | .andn d a b => some (d.toNat, fun k => (g.sreg a.toNat).getLsbD k && !(g.sreg b.toNat).getLsbD k)
  | .andi d i => some (d.toNat, fun k => (g.sreg d.toNat).getLsbD k && i.getLsbD (min k 14))
  | .ori d i => some (d.toNat, fun k => (g.sreg d.toNat).getLsbD k || i.getLsbD (min k 14))
  | .xori d i => some (d.toNat, fun k => (g.sreg d.toNat).getLsbD k != i.getLsbD (min k 14))
  | .shl d a b => some (d.toNat, fun k => decide ((g.sreg b.toNat).toNat ≤ k) && (g.sreg a.toNat).getLsbD (k - (g.sreg b.toNat).toNat))
  | .shr d a b => some (d.toNat, fun k => (g.sreg a.toNat).getLsbD (k + (g.sreg b.toNat).toNat))
  | .sra d a b => some (d.toNat, fun k => (g.sreg a.toNat).getLsbD (min (k + (g.sreg b.toNat).toNat) 31))
  | .rol d a b => some (d.toNat, fun k => (g.sreg a.toNat).getLsbD ((k + 32 - (g.sreg b.toNat).toNat % 32) % 32))
  | .bfx d a b =>
    let y := g.sreg b.toNat
    some (d.toNat, fun k => inField y (k + y.toNat % 32) && (g.sreg a.toNat).getLsbD (k + y.toNat % 32))
  | .bfi d a b =>
    let y := g.sreg b.toNat
    some (d.toNat, fun k => if inField y k then (g.sreg a.toNat).getLsbD (k - y.toNat % 32) else (g.sreg d.toNat).getLsbD k)
  | _ => none

/-- Table 6.1: the bits that are one, and the zeros above and below them, counted. -/
def onesCount (a : Word) : Word := BitVec.ofNat 32 ((List.range 32).filter fun k => a.getLsbD k).length
def leadingZeros (a : Word) : Word := BitVec.ofNat 32 ((List.range 32).takeWhile fun k => !a.getLsbD (31 - k)).length
def trailingZeros (a : Word) : Word := BitVec.ofNat 32 ((List.range 32).takeWhile fun k => !a.getLsbD k).length

/-- Table 6.1: minima, maxima and counts: destination and result. -/
def count (g : Gang) : Instr → Option (Nat × Word)
  | .min d a b => some (d.toNat, if (g.sreg a.toNat).toInt ≤ (g.sreg b.toNat).toInt then g.sreg a.toNat else g.sreg b.toNat)
  | .max d a b => some (d.toNat, if (g.sreg a.toNat).toInt ≤ (g.sreg b.toNat).toInt then g.sreg b.toNat else g.sreg a.toNat)
  | .minN d a b => some (d.toNat, if (g.sreg a.toNat).toNat ≤ (g.sreg b.toNat).toNat then g.sreg a.toNat else g.sreg b.toNat)
  | .maxN d a b => some (d.toNat, if (g.sreg a.toNat).toNat ≤ (g.sreg b.toNat).toNat then g.sreg b.toNat else g.sreg a.toNat)
  | .popc d a => some (d.toNat, onesCount (g.sreg a.toNat))
  | .clz d a => some (d.toNat, leadingZeros (g.sreg a.toNat))
  | .ctz d a => some (d.toNat, trailingZeros (g.sreg a.toNat))
  | _ => none

/-- Table 5.4: the conditions of `sel` and of branches. -/
def condition (k : Nat) (f : Flags) : Prop :=
  match k with
  | 0 => f.z = true
  | 1 => f.z = false
  | 2 => f.c = true
  | 3 => f.c = false
  | 4 => f.n = true
  | 5 => f.n = false
  | 6 => f.v = true
  | 7 => f.v = false
  | 8 => f.c = true ∧ f.z = false
  | 9 => f.c = false ∨ f.z = true
  | 10 => f.n = f.v
  | 11 => f.n ≠ f.v
  | 12 => f.z = false ∧ f.n = f.v
  | 13 => f.z = true ∨ f.n ≠ f.v
  | _ => True

/-- What a scalar operation leaves: `x` in `d`, the flags of each slice of its group, nothing else. -/
def ScalarLeaves (s : State) (c : Cur) (g : Gang) (i : Instr) (d : Nat) (x : Word) (fl : Flags → Flags) (fp : BitVec 6) : Prop :=
  ∃ t h, exec i s = .next t ∧ OnlyGang s t c h ∧ PastWith g h c fl ∧ Left g h (g.sregWith d x) g.vreg g.pred g.remOf fp g.pend

/-- The same for an operation that writes no register. -/
def ScalarKeeps (s : State) (c : Cur) (g : Gang) (i : Instr) (fl : Flags → Flags) : Prop :=
  ∃ t h, exec i s = .next t ∧ OnlyGang s t c h ∧ PastWith g h c fl ∧ Left g h g.sreg g.vreg g.pred g.remOf g.fpst g.pend

end Sys2Proof.Claims

open Sys2Proof.Claims

/-- R108, Table 6.1, R110: sums, differences and products, with all four flags. -/
def Sys2Proof.Claims.ScalarArithmetic : Prop :=
  ∀ s c g i d x cf vf, Starts s c g i → arith g i = some (d, x, cf, vf) →
    ScalarLeaves s c g i d x (fun f => { zn x f with c := cf, v := vf }) g.fpst

/-- R108, R109, R110: logic, shifts and bit fields bit by bit, minima, maxima and bit counts as numbers; only Z and N change. -/
def Sys2Proof.Claims.ScalarLogicAndCounts : Prop :=
  (∀ s c g i d p, Starts s c g i → logic g i = some (d, p) →
    ∃ x : Word, (∀ k, k < 32 → x.getLsbD k = p k) ∧ ScalarLeaves s c g i d x (zn x) g.fpst) ∧
  (∀ s c g i d x, Starts s c g i → count g i = some (d, x) → ScalarLeaves s c g i d x (zn x) g.fpst)

/-- R108, Table 6.1, R110, R109: sums, differences and products, with all four flags; logic, shifts and bit fields bit by bit, minima,
maxima and bit counts as numbers; only Z and N change. -/
def Obligations.ScalarResults : Prop := Sys2Proof.Claims.ScalarArithmetic ∧ Sys2Proof.Claims.ScalarLogicAndCounts

/-- R67, R108: division truncates toward zero; a zero divisor gives all ones as quotient, the dividend as remainder, sets DZ and
does not trap. -/
def Sys2Proof.Claims.ScalarDivision : Prop :=
  ∀ s c g (d a : BitVec 9) (b : BitVec 6),
    let x := g.sreg a.toNat
    let y := g.sreg b.toNat
    let fp : BitVec 6 := if y = 0 then g.fpst ||| 2 else g.fpst
    let fl (r : Word) : Flags → Flags := fun f => { zn r f with c := false, v := false }
    (Starts s c g (.div d a b) →
      let q : Word := if y = 0 then 0xFFFFFFFF else BitVec.ofInt 32 (x.toInt.tdiv y.toInt)
      ScalarLeaves s c g (.div d a b) d.toNat q (fl q) fp) ∧
    (Starts s c g (.divN d a b) →
      let q : Word := if y = 0 then 0xFFFFFFFF else BitVec.ofNat 32 (x.toNat / y.toNat)
      ScalarLeaves s c g (.divN d a b) d.toNat q (fl q) fp) ∧
    (Starts s c g (.rem d a b) →
      let r : Word := if y = 0 then x else BitVec.ofInt 32 (x.toInt.tmod y.toInt)
      ScalarLeaves s c g (.rem d a b) d.toNat r (fl r) fp) ∧
    (Starts s c g (.remN d a b) →
      let r : Word := if y = 0 then x else BitVec.ofNat 32 (x.toNat % y.toNat)
      ScalarLeaves s c g (.remN d a b) d.toNat r (fl r) fp)

/-- R108, R110: the compares write no register and set the flags of the difference. -/
def Sys2Proof.Claims.ScalarCompare : Prop :=
  ∀ s c g,
    let fl (x y : Word) : Flags → Flags := fun f =>
      { zn (x - y) f with c := decide (y.toNat ≤ x.toNat), v := outside (x.toInt - y.toInt) }
    (∀ a b, Starts s c g (.cmp a b) → ScalarKeeps s c g (.cmp a b) (fl (g.sreg a.toNat) (g.sreg b.toNat))) ∧
    (∀ d i, Starts s c g (.cmpi d i) → ScalarKeeps s c g (.cmpi d i) (fl (g.sreg d.toNat) (i.signExtend 32)))

/-- R67, R108, R110: division truncates toward zero; a zero divisor gives all ones as quotient, the dividend as remainder, sets DZ and does
not trap; the compares write no register and set the flags of the difference. -/
def Obligations.ScalarDivisionAndCompares : Prop := Sys2Proof.Claims.ScalarDivision ∧ Sys2Proof.Claims.ScalarCompare

/-- R91, Table 6.1, Table 5.4: moves, constants and `sel` set no flag; `sel` writes its destination where the condition holds of the
group's flags. -/
def Sys2Proof.Claims.ScalarMoves : Prop :=
  ∀ s c g,
    (∀ d a, Starts s c g (.mov d a) → ScalarLeaves s c g (.mov d a) d.toNat (g.sreg a.toNat) id g.fpst) ∧
    (∀ d i, Starts s c g (.ldi d i) → ScalarLeaves s c g (.ldi d i) d.toNat (i.signExtend 32) id g.fpst) ∧
    (∀ d i, Starts s c g (.ldlo d i) → ∃ x : Word, x.extractLsb' 0 16 = i ∧ x.extractLsb' 16 16 = (g.sreg d.toNat).extractLsb' 16 16 ∧
      ScalarLeaves s c g (.ldlo d i) d.toNat x id g.fpst) ∧
    (∀ d i, Starts s c g (.ldhi d i) → ∃ x : Word, x.extractLsb' 16 16 = i ∧ x.extractLsb' 0 16 = (g.sreg d.toNat).extractLsb' 0 16 ∧
      ScalarLeaves s c g (.ldhi d i) d.toNat x id g.fpst) ∧
    (∀ d a k, k.toNat ≤ 13 → Starts s c g (.selCond d a k) →
      (condition k.toNat (g.slice c.slice).fl → ScalarLeaves s c g (.selCond d a k) d.toNat (g.sreg a.toNat) id g.fpst) ∧
      (¬condition k.toNat (g.slice c.slice).fl → ScalarKeeps s c g (.selCond d a k) id))

/-! ## Vector operations (spec/07_isa_vector.md) -/

namespace Sys2Proof.Claims

/-- A lane operation: destination, `va`, second operand, link field, and the lane's word from the gang, MODE, the lane, a, b and the old
vd. -/
structure LaneForm where
  d : Nat
  a : Nat
  b : OpB
  link : Nat
  f : Gang → Word → Nat → Word → Word → Word → Word

/-- R136: an exact result under SAT clamped to the range of ET, each operand read as ET's signedness has it. -/
def clamped (m : Word) (exact : (Word → Int) → Int) (wrapped : Word) : Word :=
  if m.getLsbD 12 = false then wrapped
  else
    let unsigned := [1, 6, 8, 10].contains (modeEt m)
    let bits : Nat := if modeEt m = 5 ∨ modeEt m = 6 then 16 else if modeEt m = 7 ∨ modeEt m = 8 then 8
      else if modeEt m = 9 ∨ modeEt m = 10 then 4 else 32
    let lo : Int := if unsigned then 0 else -(2 ^ (bits - 1))
    let hi : Int := if unsigned then 2 ^ bits - 1 else 2 ^ (bits - 1) - 1
    BitVec.ofInt 32 (min (max (exact fun w => if unsigned then (w.toNat : Int) else w.toInt) lo) hi)

/-- Table 7.2: shifts by the whole unsigned word `b`. -/
def shiftLeft (a b : Word) : Word := if b.toNat < 32 then BitVec.ofNat 32 (a.toNat * 2 ^ b.toNat) else 0
def shiftRight (a b : Word) : Word := if b.toNat < 32 then BitVec.ofNat 32 (a.toNat / 2 ^ b.toNat) else 0
def shiftArith (a b : Word) : Word := BitVec.ofInt 32 (a.toInt / 2 ^ min b.toNat 31)

/-- R109, R140: the field of `b`'s position and length. -/
def extractField (a b : Word) : Word := BitVec.ofNat 32 (a.toNat / 2 ^ (b.toNat % 32) % 2 ^ (b.toNat / 256 % 32 + 1))
def insertField (d a b : Word) : Word :=
  let mask := BitVec.ofNat 32 (2 ^ (b.toNat / 256 % 32 + 1) - 1)
  (d &&& ~~~(mask <<< (b.toNat % 32))) ||| ((a &&& mask) <<< (b.toNat % 32))


def addF (_ : Gang) (m : Word) (_ : Nat) (a b _d : Word) : Word := clamped m (fun r => r a + r b) (a + b)
def subF (_ : Gang) (m : Word) (_ : Nat) (a b _d : Word) : Word := clamped m (fun r => r a - r b) (a - b)
def mulF (_ : Gang) (m : Word) (_ : Nat) (a b _d : Word) : Word := clamped m (fun r => r a * r b) (a * b)
def madF (_ : Gang) (m : Word) (_ : Nat) (a b d : Word) : Word := clamped m (fun r => r a * r b + r d) (a * b + d)
def mulhF (_ : Gang) (_ : Word) (_ : Nat) (a b _d : Word) : Word := BitVec.ofInt 32 (a.toInt * b.toInt / 2 ^ 32)
def mulhuF (_ : Gang) (_ : Word) (_ : Nat) (a b _d : Word) : Word := BitVec.ofNat 32 (a.toNat * b.toNat / 2 ^ 32)
def minF (_ : Gang) (_ : Word) (_ : Nat) (a b _d : Word) : Word := if a.toInt ≤ b.toInt then a else b
def maxF (_ : Gang) (_ : Word) (_ : Nat) (a b _d : Word) : Word := if a.toInt ≤ b.toInt then b else a
def minuF (_ : Gang) (_ : Word) (_ : Nat) (a b _d : Word) : Word := if a.toNat ≤ b.toNat then a else b
def maxuF (_ : Gang) (_ : Word) (_ : Nat) (a b _d : Word) : Word := if a.toNat ≤ b.toNat then b else a

/-- A form in V and in VS format. -/
def vForm (d a b : BitVec 6) (l : BitVec 2) (f : Gang → Word → Nat → Word → Word → Word → Word) : LaneForm :=
  ⟨d.toNat, a.toNat, .v b.toNat, l.toNat, f⟩
def vsForm (d a b : BitVec 6) (l : BitVec 2) (f : Gang → Word → Nat → Word → Word → Word → Word) : LaneForm :=
  ⟨d.toNat, a.toNat, .s b.toNat, l.toNat, f⟩

/-- Table 7.2 and R138: the linkable integer operations. -/
def intForm : Instr → Option LaneForm
  | .iaddV d a b l => some (vForm d a b l addF)
  | .iaddVs d a b l => some (vsForm d a b l addF)
  | .isubV d a b l => some (vForm d a b l subF)
  | .isubVs d a b l => some (vsForm d a b l subF)
  | .imulV d a b l => some (vForm d a b l mulF)
  | .imulVs d a b l => some (vsForm d a b l mulF)
  | .imulhV d a b l => some (vForm d a b l mulhF)
  | .imulhVs d a b l => some (vsForm d a b l mulhF)
  | .imulhNV d a b l => some (vForm d a b l mulhuF)
  | .imulhNVs d a b l => some (vsForm d a b l mulhuF)
  | .imadV d a b l => some (vForm d a b l madF)
  | .imadVs d a b l => some (vsForm d a b l madF)
  | .iandV d a b l => some (vForm d a b l fun _ _ _ a b _ => a &&& b)
  | .iandVs d a b l => some (vsForm d a b l fun _ _ _ a b _ => a &&& b)
  | .iorV d a b l => some (vForm d a b l fun _ _ _ a b _ => a ||| b)
  | .iorVs d a b l => some (vsForm d a b l fun _ _ _ a b _ => a ||| b)
  | .ixorV d a b l => some (vForm d a b l fun _ _ _ a b _ => a ^^^ b)
  | .ixorVs d a b l => some (vsForm d a b l fun _ _ _ a b _ => a ^^^ b)
  | .iandnV d a b l => some (vForm d a b l fun _ _ _ a b _ => a &&& ~~~b)
  | .iandnVs d a b l => some (vsForm d a b l fun _ _ _ a b _ => a &&& ~~~b)
  | .ishlV d a b l => some (vForm d a b l fun _ _ _ a b _ => shiftLeft a b)
  | .ishlVs d a b l => some (vsForm d a b l fun _ _ _ a b _ => shiftLeft a b)
  | .ishrV d a b l => some (vForm d a b l fun _ _ _ a b _ => shiftRight a b)
  | .ishrVs d a b l => some (vsForm d a b l fun _ _ _ a b _ => shiftRight a b)
  | .israV d a b l => some (vForm d a b l fun _ _ _ a b _ => shiftArith a b)
  | .israVs d a b l => some (vsForm d a b l fun _ _ _ a b _ => shiftArith a b)
  | .iminV d a b l => some (vForm d a b l minF)
  | .iminVs d a b l => some (vsForm d a b l minF)
  | .imaxV d a b l => some (vForm d a b l maxF)
  | .imaxVs d a b l => some (vsForm d a b l maxF)
  | .iminNV d a b l => some (vForm d a b l minuF)
  | .iminNVs d a b l => some (vsForm d a b l minuF)
  | .imaxNV d a b l => some (vForm d a b l maxuF)
  | .imaxNVs d a b l => some (vsForm d a b l maxuF)
  | .iselV k d a b l => some (vForm d a b l fun g _ i a b _ => if g.pred k.toNat i then a else b)
  | .iselVs k d a b l => some (vsForm d a b l fun g _ i a b _ => if g.pred k.toNat i then a else b)
  | _ => none

/-- Tables 7.3, R140, R141, R143: the operations that take no link. -/
def plainForm : Instr → Option LaneForm
  | .inot d a => some (vForm d a a 0 fun _ _ _ a _ _ => ~~~a)
  | .iabs d a => some (vForm d a a 0 fun _ m _ a _ _ => clamped m (fun r => (r a).natAbs) (if a.toInt < 0 then 0 - a else a))
  | .ineg d a => some (vForm d a a 0 fun _ m _ a _ _ => clamped m (fun r => -(r a)) (0 - a))
  | .ipopc d a => some (vForm d a a 0 fun _ _ _ a _ _ => onesCount a)
  | .iclz d a => some (vForm d a a 0 fun _ _ _ a _ _ => leadingZeros a)
  | .lanei d => some (vForm d d d 0 fun _ _ i _ _ _ => BitVec.ofNat 32 i)
  | .ibfx d a b => some (vForm d a b 0 fun _ _ _ a b _ => extractField a b)
  | .ibfi d a b => some (vForm d a b 0 fun _ _ _ a b d => insertField d a b)
  | .vbc d b => some (vsForm d d b 0 fun _ _ _ _ b _ => b)
  | .fabs d a => some (vForm d a a 0 fun _ _ _ a _ _ => a &&& 0x7FFFFFFF)
  | .fneg d a => some (vForm d a a 0 fun _ _ _ a _ _ => a ^^^ 0x80000000)
  | .fclass d a => some (vForm d a a 0 fun _ _ _ a _ _ => fclassWord a)
  | _ => none

/-- The words that a form gives its active lanes, written to its destination, and nothing else changed. -/
def LanesWrite (s : State) (c : Cur) (g : Gang) (i : Instr) (d : Nat) (r : Nat → Word) (fp : BitVec 6) : Prop :=
  ∃ t h, exec i s = .next t ∧ OnlyGang s t c h ∧ Past g h c ∧
    Left g h g.sreg (g.vregWith (lanes g c) d r) g.pred g.remOf fp g.pend

/-- MODE of the executing group. -/
abbrev modeOf (g : Gang) (c : Cur) : Word := (g.slice c.slice).mode

/-- The lane results of a form without a link. -/
def LaneForm.result (f : LaneForm) (g : Gang) (c : Cur) (i : Nat) : Word :=
  f.f g (modeOf g c) i (g.vreg f.a i) (g.opB f.b i) (g.vreg f.d i)

/-- R137: the comparison a code of `icmp` names. -/
def compares (k : Nat) (a b : Word) : Bool :=
  match k with
  | 0 => decide (a = b)
  | 1 => decide (a ≠ b)
  | 2 => decide (a.toInt < b.toInt)
  | 3 => decide (a.toInt ≤ b.toInt)
  | 4 => decide (b.toInt < a.toInt)
  | 5 => decide (b.toInt ≤ a.toInt)
  | 6 => decide (a.toNat < b.toNat)
  | 7 => decide (a.toNat ≤ b.toNat)
  | 8 => decide (b.toNat < a.toNat)
  | _ => decide (b.toNat ≤ a.toNat)

end Sys2Proof.Claims

/-- R24, R135, R136, R138: the linkable integer operations without a link: each active lane's word, and nothing else. -/
def Sys2Proof.Claims.LinkableIntegerResults : Prop :=
  ∀ s c g i f, Starts s c g i → intForm i = some f → f.link = 0 → LanesWrite s c g i f.d (f.result g c) g.fpst

/-- R139, R140, R141, R143: the unary operations, bit fields, `vbc` and the sign operations, lane by lane. -/
def Sys2Proof.Claims.VectorUnaryResults : Prop :=
  ∀ s c g i f, Starts s c g i → plainForm i = some f → LanesWrite s c g i f.d (f.result g c) g.fpst

/-- R24, R135, R136, R138, R139, R140, R141, R143: the linkable integer operations without a link: each active lane's word, and nothing
else; the unary operations, bit fields, `vbc` and the sign operations, lane by lane. -/
def Obligations.VectorIntegerResults : Prop := Sys2Proof.Claims.LinkableIntegerResults ∧ Sys2Proof.Claims.VectorUnaryResults

/-- R137, R50: `icmp` writes its comparison to the predicate in each active lane; a write to p0 is discarded. -/
def Sys2Proof.Claims.VectorCompare : Prop :=
  ∀ s c g (k : BitVec 4) (d : BitVec 3) (a b : BitVec 6), k.toNat ≤ 9 → Starts s c g (.icmp k d a b) →
    ∃ t h, exec (.icmp k d a b) s = .next t ∧ OnlyGang s t c h ∧ Past g h c ∧
      Left g h g.sreg g.vreg
        (fun n l => if n = d.toNat ∧ d ≠ 0 ∧ l ∈ lanes g c then compares k.toNat (g.vreg a.toNat l) (g.vreg b.toNat l) else g.pred n l)
        g.remOf g.fpst g.pend

/-! ## Traps (spec/03_state.md R61) -/

namespace Sys2Proof.Claims

/-- The instruction traps so, outside a handler. -/
def TrapsWith (s : State) (c : Cur) (g : Gang) (i : Instr) (cause : Nat) (tval : Dword) (slice : Nat) (mask : Nat → Bool) : Prop :=
  g.sup = false → ∃ t h, exec i s = .next t ∧ Entered s t c g h cause tval slice mask

/-- R35: the trap of an instruction as a whole: the active lanes of its group, its lowest slice. -/
def TrapsWhole (s : State) (c : Cur) (g : Gang) (i : Instr) (cause : Nat) (tval : Dword) : Prop :=
  TrapsWith s c g i cause tval c.slice fun k => decide (k ∈ lanes g c)

/-- The gang and its slot agree. -/
abbrev Placed (g : Gang) (c : Cur) : Prop := g.tile = c.tile ∧ g.slot = c.slot

/-- R62: a trap in a handler: every gang of the grove ends, the launch is faulted with the first cause, and a record of kind 3 is to be
posted. -/
def KillsWith (s : State) (c : Cur) (g : Gang) (i : Instr) (cause : Nat) (tval : Dword) : Prop :=
  g.sup = true → Placed g c → ∀ l x, g.launch = some l → s.launch? l = some x →
    ∃ t y r, exec i s = .next t ∧ t.launch? l = some y ∧ y.faulted = true ∧ y.cause = (if x.faulted then x.cause else cause) ∧
      (t.ctx g.ctx).posts = (s.ctx g.ctx).posts ++ [r] ∧ r.kind = 3 ∧ r.cause = cause ∧ r.tile = c.tile ∧ r.slot = c.slot ∧
      r.gen = g.gen ∧ r.addr = tval ∧ r.pc = (g.slice c.slice).pc ∧ r.first = g.trap.tcause ∧
      (∀ k, k < 32 → r.mask.getLsbD k = decide (k ∈ lanes g c)) ∧
      (∀ k, k ∈ s.groveGangs g → s.gang? k.tile k.slot = some k → k.gidx < 16 → (∀ a, a ∈ s.groveGangs g → a.gidx = k.gidx → a = k) →
        ∃ h, t.gang? k.tile k.slot = some h ∧ h.ended = true) ∧
      ∀ now a, t.homeByte now a = s.homeByte now a

/-- The instruction leaves its group waiting where it stands, nothing changed but what it waits for and how far it has got. -/
def Waits (s : State) (c : Cur) (g : Gang) (i : Instr) (w : Wait) : Prop :=
  ∃ t h, exec i s = .next t ∧ OnlyGang s t c h ∧
    (∀ j, h.slice j = if j ∈ g.group c.slice then { g.slice j with wait := w } else g.slice j) ∧
    Left g h g.sreg g.vreg g.pred g.remOf g.fpst g.pend

/-! ## Floating-point lanes (spec/04_formats.md, spec/07_isa_vector.md) -/

/-- R73: whether MODE enables one of the exceptions that a lane raised. -/
def enabled (m : Word) (fl : Num.Flags) : Bool := (List.range 5).any fun k => m.getLsbD (24 + k) && fl.getLsbD k

/-- R72: FPST with the flags of the active lanes. -/
def joined (g : Gang) (c : Cur) (fl : Nat → Num.Flags) (fp : BitVec 6) : Prop :=
  ∀ k, k < 6 → fp.getLsbD k = (g.fpst.getLsbD k || (lanes g c).any fun l => (fl l).getLsbD k)

/-- R33, R35, R72, R73: lanes with flags: all results together, or where lanes raise an enabled exception the trap 0x0A that names
them, with the lowest one's flags in TVAL, and no register written. -/
def LanesOrTrap (s : State) (c : Cur) (g : Gang) (i : Instr) (fl : Nat → Num.Flags) (commit : BitVec 6 → Prop) : Prop :=
  let m := modeOf g c
  ((∀ l, l ∈ lanes g c → enabled m (fl l) = false) → ∃ fp, joined g c fl fp ∧ commit fp) ∧
  (∀ l, l ∈ lanes g c → enabled m (fl l) = true → (∀ k, k ∈ lanes g c → k < l → enabled m (fl k) = false) →
    TrapsWith s c g i 0x0A ((fl l).setWidth 64) (l / 4) fun k => decide (k ∈ lanes g c) && enabled m (fl k))

/-- RM, FTZ and SAT of a MODE word. -/
def modeEnv (m : Word) : Num.Env := ⟨Num.Rm.ofCode (m.toNat / 2 ^ 9 % 8), m.getLsbD 13, m.getLsbD 12⟩

/-- A floating-point lane operation: destination, `va`, second operand, link field, result from MODE, a, b and the old vd. -/
structure FloatForm where
  d : Nat
  a : Nat
  b : OpB
  link : Nat
  f : Gang → Word → Nat → Word → Word → Word → Num.Res

/-- R71: an operand under FTZ. -/
abbrev arg (m w : Word) : Num.Fv := Num.operand (m.getLsbD 13) w

def fpF (f : Num.Env → Num.Fv → Num.Fv → Num.Fv → Num.Res) (_ : Gang) (m : Word) (_ : Nat) (a b d : Word) : Num.Res :=
  f (modeEnv m) (arg m a) (arg m b) (arg m d)

def fvForm (d a b : BitVec 6) (l : BitVec 2) (f : Num.Env → Num.Fv → Num.Fv → Num.Fv → Num.Res) : Option FloatForm :=
  some ⟨d.toNat, a.toNat, .v b.toNat, l.toNat, fpF f⟩
def fvsForm (d a b : BitVec 6) (l : BitVec 2) (f : Num.Env → Num.Fv → Num.Fv → Num.Fv → Num.Res) : Option FloatForm :=
  some ⟨d.toNat, a.toNat, .s b.toNat, l.toNat, fpF f⟩

def sumF (e : Num.Env) (a b _ : Num.Fv) : Num.Res := Num.addV e a b
def differenceF (e : Num.Env) (a b _ : Num.Fv) : Num.Res := Num.addV e a b.negate
def productF (e : Num.Env) (a b _ : Num.Fv) : Num.Res := Num.mulV e a b
def fusedF (e : Num.Env) (a b d : Num.Fv) : Num.Res := Num.fmaV e false false a b d
def fusedSubF (e : Num.Env) (a b d : Num.Fv) : Num.Res := Num.fmaV e false true a b d
def fusedNegF (e : Num.Env) (a b d : Num.Fv) : Num.Res := Num.fmaV e true false a b d
def minimumF (_ : Num.Env) (a b _ : Num.Fv) : Num.Res := Num.minmaxV false a b
def maximumF (_ : Num.Env) (a b _ : Num.Fv) : Num.Res := Num.minmaxV true a b

/-- R142: the linkable floating-point operations. -/
def floatForm : Instr → Option FloatForm
  | .faddV d a b l => fvForm d a b l sumF
  | .faddVs d a b l => fvsForm d a b l sumF
  | .fsubV d a b l => fvForm d a b l differenceF
  | .fsubVs d a b l => fvsForm d a b l differenceF
  | .fmulV d a b l => fvForm d a b l productF
  | .fmulVs d a b l => fvsForm d a b l productF
  | .ffmaV d a b l => fvForm d a b l fusedF
  | .ffmaVs d a b l => fvsForm d a b l fusedF
  | .ffmsV d a b l => fvForm d a b l fusedSubF
  | .ffmsVs d a b l => fvsForm d a b l fusedSubF
  | .fnmaV d a b l => fvForm d a b l fusedNegF
  | .fnmaVs d a b l => fvsForm d a b l fusedNegF
  | .fminV d a b l => fvForm d a b l minimumF
  | .fminVs d a b l => fvsForm d a b l minimumF
  | .fmaxV d a b l => fvForm d a b l maximumF
  | .fmaxVs d a b l => fvsForm d a b l maximumF
  | _ => none

/-- Table 7.7: the eight conversions, to-code and from-code. -/
def convert (t f : Nat) (m a : Word) : Option Num.Res :=
  let env := modeEnv m
  let toInt (lo hi : Int) : Num.Res := let r := Num.toIntRange env.rm lo hi (arg m a); ⟨BitVec.ofInt 32 r.1, r.2⟩
  let narrower (x : Num.Ieee) : Num.Res :=
    match arg m a with
    | .nan s => ⟨BitVec.ofNat 32 x.nanCode, if s then 1 else 0⟩
    | .inf s => ⟨BitVec.ofNat 32 (x.infCode s), 0⟩
    | .fin s n e => let r := x.round env.rm false s n e; ⟨BitVec.ofNat 32 r.1, r.2⟩
  let wider (x : Num.Ieee) : Num.Res :=
    let v := x.decode (a.toNat % 65536)
    ⟨Num.word32 v, if v.isSignalling then 1 else 0⟩
  match t, f with
  | 2, 0 => some (Num.ofInt env.rm a.toInt)
  | 2, 1 => some (Num.ofInt env.rm a.toNat)
  | 2, 3 => some (wider Num.ieee16)
  | 2, 4 => some (wider Num.ieeeBf)
  | 0, 2 => some (toInt (-2147483648) 2147483647)
  | 1, 2 => some (toInt 0 4294967295)
  | 3, 2 => some (narrower Num.ieee16)
  | 4, 2 => some (narrower Num.ieeeBf)
  | _, _ => none

/-- The other floating-point lane operations without a link: R143, R146, R147, R148. -/
def otherFloat (m : Word) : Instr → Option FloatForm
  | .frnd d a => some ⟨d.toNat, a.toNat, .v a.toNat, 0, fun _ m _ a _ _ => Num.rintV (modeEnv m).rm (arg m a)⟩
  | .cvt t d a f =>
    if (convert t.toNat f.toNat 0 0).isNone then none
    else some ⟨d.toNat, a.toNat, .v a.toNat, 0, fun _ m _ a _ _ => (convert t.toNat f.toNat m a).getD ⟨0, 0⟩⟩
  | .narrow k d a =>
    if Num.narrowable (m.toNat / 8 % 64) then
      some ⟨d.toNat, a.toNat, .v a.toNat, 0, fun _ m _ a _ d =>
        let r := Num.narrow (modeEnv m) (m.toNat / 8 % 64) (arg m a)
        ⟨BitVec.ofNat 32 (d.toNat - d.toNat / 2 ^ (8 * k.toNat) % 256 * 2 ^ (8 * k.toNat) + r.1 % 256 * 2 ^ (8 * k.toNat)), r.2⟩⟩
    else none
  | .widen k d a =>
    if Num.narrowable (m.toNat / 8 % 64) then
      some ⟨d.toNat, a.toNat, .v a.toNat, 0, fun _ m _ a _ _ =>
        ⟨Num.word32 (Num.widen (m.toNat / 8 % 64) (a.toNat / 2 ^ (8 * k.toNat) % 256)), 0⟩⟩
    else none
  | _ => none

/-- Table 7.5: the comparison a code of `fcmp` names, and its flags. -/
def compareFloat (k : Nat) (m a b : Word) : Bool × Num.Flags :=
  let x := arg m a
  let y := arg m b
  let unordered := x.isNan || y.isNan
  let quiet : Num.Flags := if x.isSignalling || y.isSignalling then 1 else 0
  let loud : Num.Flags := if unordered then 1 else 0
  match k with
  | 0 => (!unordered && Num.eqV x y, quiet)
  | 1 => (unordered || !Num.eqV x y, quiet)
  | 2 => (!unordered && Num.ltV false x y, loud)
  | 3 => (!unordered && (Num.ltV false x y || Num.eqV x y), loud)
  | 4 => (!unordered && Num.ltV false y x, loud)
  | 5 => (!unordered && (Num.ltV false y x || Num.eqV x y), loud)
  | 6 => (unordered, quiet)
  | _ => (!unordered, quiet)

/-- The lane results of a form without a link. -/
def FloatForm.result (f : FloatForm) (g : Gang) (c : Cur) (l : Nat) : Num.Res :=
  f.f g (modeOf g c) l (g.vreg f.a l) (g.opB f.b l) (g.vreg f.d l)

/-- A form with the results `r`. -/
def FloatLanes (s : State) (c : Cur) (g : Gang) (i : Instr) (d : Nat) (r : Nat → Num.Res) : Prop :=
  LanesOrTrap s c g i (fun l => (r l).fl) fun fp => LanesWrite s c g i d (fun l => (r l).w) fp

end Sys2Proof.Claims

/-- R72, R73, R142: the floating-point operations without a link, with their flags and their trap. -/
def Obligations.VectorFloatResults : Prop :=
  ∀ s c g i f, Starts s c g i → floatForm i = some f → f.link = 0 → FloatLanes s c g i f.d (f.result g c)

/-- R133, R143, R146, R147, R148: `frnd`, the conversions of Table 7.7, and byte lanes; `narrow` and `widen` under any other ET are
illegal instructions. -/
def Obligations.VectorConversions : Prop :=
  (∀ s c g i f, Starts s c g i → otherFloat (modeOf g c) i = some f → FloatLanes s c g i f.d (f.result g c)) ∧
  (∀ s c g k d a, Num.narrowable ((modeOf g c).toNat / 8 % 64) = false →
    (Starts s c g (.narrow k d a) → TrapsWhole s c g (.narrow k d a) 0x01 ((encode (.narrow k d a)).setWidth 64)) ∧
    (Starts s c g (.widen k d a) → TrapsWhole s c g (.widen k d a) 0x01 ((encode (.widen k d a)).setWidth 64)))

/-- R50, R144: `fcmp` and its predicate; a write to p0 is discarded. -/
def Sys2Proof.Claims.VectorFloatCompare : Prop :=
  ∀ s c g (k : BitVec 4) (d : BitVec 3) (a b : BitVec 6), k.toNat ≤ 7 → Starts s c g (.fcmp k d a b) →
    let r (l : Nat) := compareFloat k.toNat (modeOf g c) (g.vreg a.toNat l) (g.vreg b.toNat l)
    LanesOrTrap s c g (.fcmp k d a b) (fun l => (r l).2) fun fp =>
      ∃ t h, exec (.fcmp k d a b) s = .next t ∧ OnlyGang s t c h ∧ Past g h c ∧
        Left g h g.sreg g.vreg (fun n l => if n = d.toNat ∧ d ≠ 0 ∧ l ∈ lanes g c then (r l).1 else g.pred n l) g.remOf fp g.pend

/-- R137, R50, R144: `icmp` writes its comparison to the predicate in each active lane; a write to p0 is discarded; `fcmp` and its
predicate; a write to p0 is discarded. -/
def Obligations.VectorCompares : Prop := Sys2Proof.Claims.VectorCompare ∧ Sys2Proof.Claims.VectorFloatCompare

/-- R70: rounding `mag * 2^e` at the spacing `2^ue`, `e < ue`, for a number of sign `neg`: RZ, RD and RU give the neighbour toward
zero, below or above; RNE and RNA a nearest one, ties to even or away from zero; inexact exactly where the number changed. -/
def Sys2Proof.Claims.RoundingIsExact : Prop :=
  ∀ (rm : Num.Rm) (neg : Bool) (mag : Nat) (e ue : Int),
    let r := Num.roundAt rm neg mag e ue
    (ue ≤ e → r.1 * 2 ^ ue.toNat * 2 ^ (-e).toNat = mag * 2 ^ e.toNat * 2 ^ (-ue).toNat ∧ r.2 = false) ∧
    (e < ue →
      let u := 2 ^ (ue - e).toNat
      (r.2 = true ↔ r.1 * u ≠ mag) ∧ r.1 * u < mag + u ∧ mag < r.1 * u + u ∧
      (rm = .rz ∨ (rm = .rd ∧ neg = false) ∨ (rm = .ru ∧ neg = true) → r.1 * u ≤ mag) ∧
      ((rm = .rd ∧ neg = true) ∨ (rm = .ru ∧ neg = false) → mag ≤ r.1 * u) ∧
      (rm = .rne ∨ rm = .rna → 2 * (r.1 * u) ≤ 2 * mag + u ∧ 2 * mag ≤ 2 * (r.1 * u) + u) ∧
      (rm = .rne → 2 * (r.1 * u) = 2 * mag + u ∨ 2 * mag = 2 * (r.1 * u) + u → r.1 % 2 = 0) ∧
      (rm = .rna → 2 * mag ≠ 2 * (r.1 * u) + u))

namespace Sys2Proof.Claims

/-- The magnitude of an FP32 pattern without its sign, in units of 2^-149; 0x7F800000 stands for 2^128. -/
def units (m : Nat) : Nat := if m / 2 ^ 23 = 0 then m else (2 ^ 23 + m % 2 ^ 23) * 2 ^ (m / 2 ^ 23 - 1)

/-- The pattern without its sign, and the number in units of 2^-149. -/
def magnitude (w : Word) : Nat := w.toNat % 2 ^ 31
def number (w : Word) : Int := if w.msb then -(units (magnitude w) : Int) else units (magnitude w)

def isNan (w : Word) : Bool := decide (0x7F800000 < magnitude w)
def isInf (w : Word) : Bool := decide (magnitude w = 0x7F800000)
def isFinite (w : Word) : Bool := decide (magnitude w < 0x7F800000)

/-- R70: `r` is the pattern without sign to which a positive `x`, in units of 2^-(149+k), rounds for a number of sign `neg`. -/
def Rounded (rm : Num.Rm) (neg : Bool) (k x r : Nat) : Prop :=
  let u (m : Nat) := units m * 2 ^ k
  let away := (rm = .rd ∧ neg = true) ∨ (rm = .ru ∧ neg = false)
  let near := rm = .rne ∨ rm = .rna
  (u 0x7F800000 ≤ x → r = if near ∨ away then 0x7F800000 else 0x7F7FFFFF) ∧
  ∀ m, m < 0x7F800000 → u m ≤ x → x < u (m + 1) →
    (x = u m → r = m) ∧
    (x ≠ u m → ¬near → r = if away then m + 1 else m) ∧
    (x ≠ u m → near →
      (2 * x < u m + u (m + 1) → r = m) ∧ (u m + u (m + 1) < 2 * x → r = m + 1) ∧
      (2 * x = u m + u (m + 1) → r = if rm = .rne ∧ m % 2 = 0 then m else m + 1))

/-- R70, R142: `w` is the one rounding of an exact `x` in units of 2^-(149+k). A zero has the sign `zneg`. -/
def RoundsTo (rm : Num.Rm) (k : Nat) (x : Int) (zneg : Bool) (w : Word) : Prop :=
  (x = 0 → magnitude w = 0 ∧ w.msb = zneg) ∧
  (x ≠ 0 → w.msb = decide (x < 0) ∧ Rounded rm (decide (x < 0)) k x.natAbs (magnitude w))

/-- R142: the sign of an exact zero sum of addends whose signs are `a` and `b`; `zeros` says that both are zeros. -/
def zeroSign (rm : Num.Rm) (zeros a b : Bool) : Bool := if zeros && a == b then a else decide (rm = .rd)

end Sys2Proof.Claims

/-- R69, R70, R142: the word of a sum, a product and a fused sum of FP32 words, FTZ clear: of finite operands the one rounding of the
exact result, with the sign of an exact zero; a NaN operand, an infinity less itself and zero times infinity give the canonical NaN;
else an infinity of the sign of the infinite addend or of the product. -/
def Sys2Proof.Claims.FloatValues : Prop :=
  ∀ (rm : Num.Rm) (sat : Bool) (a b d : Word),
    let v (w : Word) := Num.operand false w
    let env : Num.Env := ⟨rm, false, sat⟩
    let sum := (Num.addV env (v a) (v b)).w
    let prod := (Num.mulV env (v a) (v b)).w
    let fused := (Num.fmaV env false false (v a) (v b) (v d)).w
    let ps := a.msb != b.msb
    (isFinite a = true → isFinite b = true →
      RoundsTo rm 0 (number a + number b) (zeroSign rm (decide (magnitude a = 0 ∧ magnitude b = 0)) a.msb b.msb) sum ∧
      RoundsTo rm 149 (number a * number b) ps prod ∧
      (isFinite d = true → RoundsTo rm 149 (number a * number b + number d * 2 ^ 149)
        (zeroSign rm (decide ((magnitude a = 0 ∨ magnitude b = 0) ∧ magnitude d = 0)) ps d.msb) fused)) ∧
    (isNan a = true ∨ isNan b = true → sum = 0x7FC00000 ∧ prod = 0x7FC00000 ∧ fused = 0x7FC00000) ∧
    (isNan d = true → fused = 0x7FC00000) ∧
    (isInf a = true → (isInf b = true ∧ a.msb ≠ b.msb → sum = 0x7FC00000) ∧ (isFinite b = true ∨ b = a → sum = a)) ∧
    (isInf b = true → isFinite a = true → sum = b) ∧
    ((isInf a = true ∧ magnitude b = 0) ∨ (magnitude a = 0 ∧ isInf b = true) → prod = 0x7FC00000 ∧ fused = 0x7FC00000) ∧
    ((isInf a = true ∧ isNan b = false ∧ magnitude b ≠ 0) ∨ (isInf b = true ∧ isNan a = false ∧ magnitude a ≠ 0) →
      magnitude prod = 0x7F800000 ∧ prod.msb = ps ∧
      (isFinite d = true ∨ (isInf d = true ∧ d.msb = ps) → magnitude fused = 0x7F800000 ∧ fused.msb = ps) ∧
      (isInf d = true → d.msb ≠ ps → fused = 0x7FC00000)) ∧
    (isFinite a = true → isFinite b = true → isInf d = true → fused = d)

/-- R70, R69, R142: rounding `mag * 2^e` at the spacing `2^ue`, `e < ue`, for a number of sign `neg`: RZ, RD and RU give the neighbour
toward zero, below or above; RNE and RNA a nearest one, ties to even or away from zero; inexact exactly where the number changed; the word
of a sum, a product and a fused sum of FP32 words, FTZ clear: of finite operands the one rounding of the exact result, with the sign of an
exact zero; a NaN operand, an infinity less itself and zero times infinity give the canonical NaN; else an infinity of the sign of the
infinite addend or of the product. -/
def Obligations.FloatValuesAreExact : Prop := Sys2Proof.Claims.RoundingIsExact ∧ Sys2Proof.Claims.FloatValues

/-! ## Links (spec/02_execution.md R25-R32) -/

namespace Sys2Proof.Claims

/-- R25: the carry in front of a lane position, `none` where it is cut: `op` gives a lane's result from the operand that takes the
replaced one's place. -/
def carry (g : Gang) (c : Cur) (incoming : Option Word) (seed : Nat → Word) (op : Nat → Word → Word) : Nat → Option Word
  | 0 => incoming
  | l + 1 =>
    if l ∈ lanes g c then some (op l ((carry g c incoming seed op l).getD (seed l)))
    else if (l / 4 ∈ g.group c.slice ∨ (g.slice (l / 4)).live = false) ∧ (modeOf g c).getLsbD 15 = false then
      carry g c incoming seed op l
    else none

/-- The linkable operations of Table 2.2 but the reversible ones. -/
def linkForm (i : Instr) : Option FloatForm :=
  match intForm i with
  | some f => some ⟨f.d, f.a, f.b, f.link, fun g m l a b d => ⟨f.f g m l a b d, 0⟩⟩
  | none => floatForm i

/-- Table 2.1: the seed that a link names. -/
def FloatForm.seed (f : FloatForm) (g : Gang) (l : Nat) : Word := if f.link = 1 then g.vreg f.a l else g.opB f.b l

/-- The lane's result with `x` in the replaced place. -/
def FloatForm.linked (f : FloatForm) (g : Gang) (c : Cur) (l : Nat) (x : Word) : Num.Res :=
  if f.link = 1 then f.f g (modeOf g c) l x (g.opB f.b l) (g.vreg f.d l)
  else f.f g (modeOf g c) l (g.vreg f.a l) x (g.vreg f.d l)

/-- The carry and the result of a lane of a linked instruction. -/
def FloatForm.carry (f : FloatForm) (g : Gang) (c : Cur) (incoming : Option Word) (l : Nat) : Option Word :=
  Claims.carry g c incoming (f.seed g) (fun l x => (f.linked g c l x).w) l
def FloatForm.chained (f : FloatForm) (g : Gang) (c : Cur) (incoming : Option Word) (l : Nat) : Num.Res :=
  f.linked g c l ((f.carry g c incoming l).getD (f.seed g l))

/-- `c` names the lowest slice of its group. -/
abbrev Leads (g : Gang) (c : Cur) : Prop := (g.group c.slice).head? = some c.slice

/-- R31: the gang's hand-on instruction has been released: the predecessor that it waited for is gone. -/
def cutOff (g : Gang) : Bool := g.slices.any fun x => x.live && x.cut

/-- What a hand-on instruction leaves of its own gang: the lanes' results and remainder stacks, its entry taken unless it had been
released, HOUT. -/
def HandedOn (s t : State) (c : Cur) (g h : Gang) (d : Nat) (r : Nat → Word) (rm : Nat → List Rem) (fp : BitVec 6) (hout : Word) :
    Prop :=
  t.gang? c.tile c.slot = some h ∧ Past g h c ∧ h.fifo = (if cutOff g then g.fifo else g.fifo.tail) ∧ h.hout = hout ∧
    { h.core with fifo := g.fifo, hout := g.hout } = g.core ∧ h.pend = g.pend ∧ h.fpst = fp ∧
    (∀ n, h.sreg n = g.sreg n) ∧ (∀ n l, l < 32 → h.vreg n l = g.vregWith (lanes g c) d r n l) ∧
    (∀ n l, l < 32 → h.pred n l = g.pred n l) ∧ (∀ l, h.remOf l = rm l) ∧ { t with gangs := s.gangs } = s

/-- R29, R31: a hand-on instruction has what it takes: an entry, or a cut where no predecessor will send one. -/
def mayTake (s : State) (g : Gang) : Prop := cutOff g = true ∨ g.fifo ≠ [] ∨ s.predecessor g = none

/-- R29, R31: what it takes, `none` for a cut. -/
def taken (g : Gang) : Option Word := if cutOff g then none else g.fifo.headD none

/-- R26-R31: a hand-on instruction `i` of a gang: it traps where the gang is parted; waits for an entry of its FIFO, or for room in its
successor's; else its lanes, which `commits` under the instruction's own traps, and its hand-out to the successor's FIFO or to HOUT. -/
def HandsOn (s : State) (c : Cur) (g : Gang) (i : Instr) (d : Nat) (r : Nat → Word) (rm : Nat → List Rem) (out : Option Word)
    (seed : Word) (commits : (BitVec 6 → Prop) → Prop) : Prop :=
  let room := match s.successor g with | some h => h.fifo.length < 4 | none => True
  (g.parted = true → TrapsWhole s c g i 0x09 ((encode i).setWidth 64)) ∧
  (g.parted = false → ¬mayTake s g → Waits s c g i .handon) ∧
  (g.parted = false → mayTake s g → ¬room → Waits s c g i .issue) ∧
  (g.parted = false → mayTake s g → s.successor g = none →
    commits fun fp => ∃ t h, exec i s = .next t ∧ HandedOn s t c g h d r rm fp (out.getD seed) ∧
      ∀ tile slot, gkey tile slot ≠ gkey c.tile c.slot → t.gang? tile slot = s.gang? tile slot) ∧
  (∀ x, g.parted = false → mayTake s g → s.successor g = some x → x.fifo.length < 4 → s.gang? x.tile x.slot = some x →
    gkey x.tile x.slot ≠ gkey c.tile c.slot →
    commits fun fp => ∃ t h, exec i s = .next t ∧ HandedOn s t c g h d r rm fp g.hout ∧
      t.gang? x.tile x.slot = some { x with fifo := x.fifo ++ [out] } ∧
      ∀ tile slot, gkey tile slot ≠ gkey c.tile c.slot → gkey tile slot ≠ gkey x.tile x.slot →
        t.gang? tile slot = s.gang? tile slot)

end Sys2Proof.Claims

/-- R21, R23, R25, R26: a linked instruction without hand-on: the chain through the lanes from a cut at lane 0, over masked lanes
and lanes of exited slices or reseeded there under LP, and cut at lanes of other groups. -/
def Sys2Proof.Claims.LinkedChain : Prop :=
  ∀ s c g i f, Instr.wellFormed i = true → Starts s c g i → Leads g c → linkForm i = some f → f.link = 1 ∨ f.link = 2 →
    FloatLanes s c g i f.d (f.chained g c none)

/-- R26, R28, R29, R30, R31: a hand-on instruction: it traps where the gang is parted; waits for an entry of its FIFO while a
predecessor lives, or while its successor's FIFO is full; else takes its entry, or a cut where its predecessors are gone, chains its
lanes from it and hands on, to its successor's FIFO or to HOUT, the seed of its last lane where the chain is cut. -/
def Sys2Proof.Claims.HandOn : Prop :=
  ∀ s c g i f, Instr.wellFormed i = true → Starts s c g i → Leads g c → linkForm i = some f → f.link = 3 →
    let r := f.chained g c (taken g)
    HandsOn s c g i f.d (fun l => (r l).w) g.remOf (f.carry g c (taken g) (4 * g.slices.length))
      (f.seed g (4 * g.slices.length - 1)) (LanesOrTrap s c g i fun l => (r l).fl)

/-- R21, R23, R25, R26, R28, R29, R30, R31: a linked instruction without hand-on: the chain through the lanes from a cut at lane 0, over
masked lanes and lanes of exited slices or reseeded there under LP, and cut at lanes of other groups; a hand-on instruction: it traps where
the gang is parted; waits for an entry of its FIFO while a predecessor lives, or while its successor's FIFO is full; else takes its entry,
or a cut where its predecessors are gone, chains its lanes from it and hands on, to its successor's FIFO or to HOUT, the seed of its last
lane where the chain is cut. That a successor's FIFO is full at four entries, whichever gang appended them, is the model's choice (log entry
56). -/
def Obligations.LinksAndHandOn : Prop := Sys2Proof.Claims.LinkedChain ∧ Sys2Proof.Claims.HandOn

/-! ## Long-latency results (spec/05_encoding.md R98-R101, spec/07_isa_vector.md) -/

namespace Sys2Proof.Claims

/-- R98: what an instruction that opens a window of `n` instructions leaves: the values awaited, one by one, under a number of its own,
nothing yet written; without a value, nothing awaited. -/
def Opens (s : State) (c : Cur) (g : Gang) (i : Instr) (n : Nat) (vals : List (Dest × Word)) (fp : BitVec 6) : Prop :=
  ∃ t h pd, exec i s = .next t ∧ OnlyGang s t c h ∧ Past g h c ∧ Left g h g.sreg g.vreg g.pred g.remOf fp pd ∧
    (vals = [] → pd = g.pend) ∧ (vals ≠ [] → ∃ p, pd = g.pend ++ [p] ∧ Opened g c n p (vals.map Prod.fst) vals none)

/-- A destination holds a word. -/
def reads (h : Gang) (d : Dest) (w : Word) : Prop :=
  match d with
  | .vreg k => h.vreg (k / 32) (k % 32) = w
  | .sreg k => h.sreg k = w
  | .adv => h.adv = w

/-- Table 7.6: the special functions: lookahead, destination, operand, function of RM, FTZ and the operand. -/
def special : Instr → Option (Nat × Nat × Nat × (Num.Env → Num.Fv → Num.Res))
  | .frcp n d a => some (n.toNat, d.toNat, a.toNat, fun e x => Num.divV e (.fin false 1 0) x)
  | .frsq n d a => some (n.toNat, d.toNat, a.toNat, fun e x => Num.rsqrtV e.ftz x)
  | .fsqrt n d a => some (n.toNat, d.toNat, a.toNat, fun e x => Num.sqrtV e x)
  | .fexp2 n d a => some (n.toNat, d.toNat, a.toNat, fun e x => Num.exp2V e.ftz x)
  | .flog2 n d a => some (n.toNat, d.toNat, a.toNat, fun e x => Num.logV true e.ftz x)
  | .fexp n d a => some (n.toNat, d.toNat, a.toNat, fun e x => Num.expV e.ftz x)
  | .flog n d a => some (n.toNat, d.toNat, a.toNat, fun e x => Num.logV false e.ftz x)
  | .fsinpi n d a => some (n.toNat, d.toNat, a.toNat, fun e x => Num.sinpiV e.ftz x)
  | .fcospi n d a => some (n.toNat, d.toNat, a.toNat, fun e x => Num.cospiV e.ftz x)
  | _ => none

/-- R149: one round of the generator on counter and key. -/
def mixRound (x : (Word × Word × Word × Word) × (Word × Word)) : (Word × Word × Word × Word) × (Word × Word) :=
  let ((c0, c1, c2, c3), (k0, k1)) := x
  let p := 0xD2511F53 * c0.toNat
  let q := 0xCD9E8D57 * c2.toNat
  ((BitVec.ofNat 32 (q / 4294967296) ^^^ c1 ^^^ k0, BitVec.ofNat 32 q, BitVec.ofNat 32 (p / 4294967296) ^^^ c3 ^^^ k1,
    BitVec.ofNat 32 p), (k0 + 0x9E3779B9, k1 + 0xBB67AE85))

/-- R149: ten rounds. -/
def generated (x : (Word × Word × Word × Word) × (Word × Word)) : Word × Word × Word × Word :=
  (mixRound (mixRound (mixRound (mixRound (mixRound (mixRound (mixRound (mixRound (mixRound (mixRound x)))))))))).1

/-- R151, R152: lane `j` of `va` where lane `j` is active, else the lane's own. -/
def gathered (g : Gang) (c : Cur) (a j l : Nat) : Word := if j ∈ lanes g c then g.vreg a j else g.vreg a l

/-- R155: equal keys: bit patterns, under FP32 zeros equal and no NaN equal to another. -/
def sameKey (et : Nat) (x y : Word) : Bool :=
  let nan (w : Word) := decide (0x7F800000 < (w &&& 0x7FFFFFFF).toNat)
  if et = 2 then !nan x && !nan y && (decide (x = y) || decide (x &&& 0x7FFFFFFF = 0 ∧ y &&& 0x7FFFFFFF = 0)) else decide (x = y)

/-- A word with exactly the lanes of `ls` that satisfy `p`. -/
def maskWhere (ls : List Nat) (p : Nat → Bool) (w : Word) : Prop := ∀ k, k < 32 → w.getLsbD k = (decide (k ∈ ls) && p k)

end Sys2Proof.Claims

/-- R72, R73, R98, R145, R149: the special functions, `fdiv` and `rng`: their flags are taken up or trap, and the active lanes'
results are awaited under the lookahead. -/
def Sys2Proof.Claims.LongLatencyOpens : Prop :=
  (∀ s c g i n d a f, Starts s c g i → special i = some (n, d, a, f) →
    let r (l : Nat) := f (modeEnv (modeOf g c)) (arg (modeOf g c) (g.vreg a l))
    LanesOrTrap s c g i (fun l => (r l).fl) fun fp =>
      Opens s c g i n ((lanes g c).map fun l => (Dest.vreg (d * 32 + l), (r l).w)) fp) ∧
  (∀ s c g (n : BitVec 4) (d a b : BitVec 6), Starts s c g (.fdiv n d a b) →
    let r (l : Nat) :=
      Num.divV (modeEnv (modeOf g c)) (arg (modeOf g c) (g.vreg a.toNat l)) (arg (modeOf g c) (g.vreg b.toNat l))
    LanesOrTrap s c g (.fdiv n d a b) (fun l => (r l).fl) fun fp =>
      Opens s c g (.fdiv n d a b) n.toNat ((lanes g c).map fun l => (Dest.vreg (d.toNat * 32 + l), (r l).w)) fp) ∧
  (∀ s c g (n : BitVec 4) (d a b : BitVec 6), Starts s c g (.rng n d a b) →
    let r (l : Nat) := generated
      ((g.vreg a.toNat l, g.vreg (a.toNat + 1) l, g.sreg (b.toNat + 2), g.sreg (b.toNat + 3)), (g.sreg b.toNat, g.sreg (b.toNat + 1)))
    let key (k l : Nat) : Dest := .vreg ((d.toNat + k) * 32 + l)
    Opens s c g (.rng n d a b) n.toNat
      ((lanes g c).flatMap fun l => [(key 0 l, (r l).1), (key 1 l, (r l).2.1), (key 2 l, (r l).2.2.1), (key 3 l, (r l).2.2.2)]) g.fpst)

/-- R150-R156: the cross-lane instructions gather from the active lanes and await their results; `vget`, `ballot` and ADV are written
even where no lane is active. -/
def Obligations.CrossLaneResults : Prop :=
  ∀ s c g (n : BitVec 4) (d a b : BitVec 6) (p : BitVec 3),
    let ls := lanes g c
    let toLanes (r : Nat → Word) : List (Dest × Word) := ls.map fun l => (Dest.vreg (d.toNat * 32 + l), r l)
    let one := (g.sreg b.toNat).toNat % 32
    (Starts s c g (.shfl n d a b) →
      Opens s c g (.shfl n d a b) n.toNat (toLanes fun l => gathered g c a.toNat ((g.vreg b.toNat l).toNat % 32) l) g.fpst) ∧
    (Starts s c g (.bcast n d a b) →
      Opens s c g (.bcast n d a b) n.toNat (toLanes fun l => gathered g c a.toNat one l) g.fpst) ∧
    (Starts s c g (.vget n d a b) →
      Opens s c g (.vget n d a b) n.toNat [(.sreg d.toNat, if one ∈ ls then g.vreg a.toNat one else 0)] g.fpst) ∧
    (Starts s c g (.ballot n d p) → ∃ w, maskWhere ls (fun k => g.pred p.toNat k) w ∧
      Opens s c g (.ballot n d p) n.toNat [(.sreg d.toNat, w)] g.fpst) ∧
    (Starts s c g (.matchv n d a) → ∃ r : Nat → Word,
      (∀ l, l ∈ ls → maskWhere ls (fun k => decide (k = l) ||
        sameKey ((modeOf g c).toNat / 8 % 64) (g.vreg a.toNat l) (g.vreg a.toNat k)) (r l)) ∧
      Opens s c g (.matchv n d a) n.toNat (toLanes r) g.fpst) ∧
    (Starts s c g (.isect n d a b) →
      let x (l : Nat) := (g.vreg a.toNat l).toNat
      let y (l : Nat) := (g.vreg b.toNat l).toNat
      ∃ (r : Nat → Word) (adv : Word),
        (∀ l, l ∈ ls → (∃ j, j ∈ ls ∧ y j = x l ∧ (∀ k, k ∈ ls → y k = x l → j ≤ k) ∧ r l = BitVec.ofNat 32 j) ∨
          ((∀ k, k ∈ ls → y k ≠ x l) ∧ r l = 0xFFFFFFFF)) ∧
        (ls = [] → adv = 0) ∧
        (∀ m, m ∈ ls → (∀ k, k ∈ ls → k ≤ m) →
          adv = BitVec.ofNat 32 ((ls.filter fun j => decide (y j ≤ x m)).length * 65536 +
            (ls.filter fun j => decide (x j ≤ y m)).length)) ∧
        Opens s c g (.isect n d a b) n.toNat (toLanes r ++ [(.adv, adv)]) g.fpst)

/-- R13, R98, R101, R116: the result of a long-latency instruction returns; the results whose window has ended are written, each under
the last window write that has waited for it, and only to registers that a result in flight names. A result that waits alone with its windows ended is written whole. While the tile switches
its gear nothing is written. -/
def Sys2Proof.Claims.LongLatencyReturns : Prop :=
  ∀ s g p, s.gang? s.subject.unit s.subject.slot = some g → g.pend.find? (fun p => p.id == s.subject.part) = some p →
    p.load = none → p.returned = false → (∀ d, d ∈ p.dests → ∃ v, v ∈ p.vals ∧ v.1 = d) →
    ∃ t h, exec .longLatencyResultReturn s = .next t ∧ OnlyGang s t ⟨s.subject.unit, s.subject.slot, 0⟩ h ∧
      ((s.tile s.subject.unit).switching ≠ none →
        h = { g with pend := g.pend.map fun q => if q.id = p.id then { q with returned := true } else q }) ∧
      ((s.tile s.subject.unit).switching = none →
      h.slices = g.slices ∧ (∀ n l, h.pred n l = g.pred n l) ∧ (∀ l, h.remOf l = g.remOf l) ∧ h.fpst = g.fpst ∧
      (∀ n, (∀ q, q ∈ g.pend → Dest.sreg n ∉ q.dests) → h.sreg n = g.sreg n) ∧
      (∀ n l, l < 32 → (∀ q, q ∈ g.pend → Dest.vreg (n * 32 + l) ∉ q.dests) → h.vreg n l = g.vreg n l) ∧
      { h.core with adv := g.adv } = g.core ∧
      (g.pend = [p] → p.engine = false → (∀ d, d ∈ p.dests → p.due d = true) → h.pend = [] ∧
        ∀ d x, d ∈ p.dests → p.vals.find? (fun v => v.1 == d) = some x →
          reads h d (((p.after.filter fun v => v.1 == d).getLast?.map Prod.snd).getD x.2)) ∧
      (∀ d, g.pend = [p] → p.due d = false → d ∈ p.dests → ∃ q, q ∈ h.pend ∧ q.id = p.id ∧ q.returned = true ∧ d ∈ q.dests))

/-- R72, R73, R98, R145, R149, R13, R101, R116: the special functions, `fdiv` and `rng`: their flags are taken up or trap, and the active
lanes' results are awaited under the lookahead; the result of a long-latency instruction returns; the results whose window has ended are
written, each under the last window write that has waited for it, and only to registers that a result in flight names. A result that waits
alone with its windows ended is written whole. While the tile switches its gear nothing is written. The special functions are computed to
448 fractional bits, the model's choice (log entry 14). -/
def Obligations.LongLatencyResults : Prop := Sys2Proof.Claims.LongLatencyOpens ∧ Sys2Proof.Claims.LongLatencyReturns

/-! ## Reversible instructions (spec/08_isa_reversible.md) -/

namespace Sys2Proof.Claims

/-- R33, R35: lanes that may fault: the whole instruction where none does, else the trap of the lowest that does, with the lanes
that share its cause. -/
def LanesCommit (s : State) (c : Cur) (g : Gang) (i : Instr) (fault : Nat → Option (Nat × Dword)) (commit : Prop) : Prop :=
  ((∀ l, l ∈ lanes g c → fault l = none) → commit) ∧
  (∀ l cause val, l ∈ lanes g c → fault l = some (cause, val) → (∀ k, k ∈ lanes g c → k < l → fault k = none) →
    TrapsWith s c g i cause val (l / 4) fun k => decide (k ∈ lanes g c) && decide ((fault k).map Prod.fst = some cause))

/-- R169, R170: TVAL of a remainder trap: the word, the class expected, the tag found. -/
def remainderVal (w : Word) (cls tag : Nat) : Dword := (w.setWidth 64 <<< 32) ||| BitVec.ofNat 64 (256 * cls + tag)

/-- A forward instruction: destination, `va`, second operand, link, class, and a lane's word, flags and entry. -/
structure ForwardForm where
  d : Nat
  a : Nat
  b : OpB
  link : Nat
  cls : Nat
  f : Word → Word → Word → Word → LaneRes

/-- R173: an integer pair's word and entry. -/
def whole (cls : Nat) (y e : Word) : LaneRes := { val := y, fl := 0, push := some ⟨⟨e, cls⟩, cls⟩ }

/-- Tables 8.6 and 8.7. -/
def forward (m : Word) : Instr → Option ForwardForm
  | .rfadd d a b l => some ⟨d.toNat, a.toNat, .v b.toNat, l.toNat, 1, fun m a b _ => rfaddRes m a b⟩
  | .rfmul d a b l => some ⟨d.toNat, a.toNat, .v b.toNat, l.toNat, 2, fun m a b _ => rfmulRes m a b⟩
  | .rfma d a b l => some ⟨d.toNat, a.toNat, .v b.toNat, l.toNat, 3, fun m a b d => rfmaRes m a b d⟩
  | .rnarrow d a =>
    if Num.narrowable (m.toNat / 8 % 64) then some ⟨d.toNat, a.toNat, .v a.toNat, 0, 4, fun m a _ _ => rnarrowRes m a⟩ else none
  | .rshr d a b =>
    some ⟨d.toNat, a.toNat, .v b.toNat, 0, 5, fun _ a b _ =>
      let n := b.toNat % 32
      whole 5 (BitVec.ofNat 32 (a.toNat / 2 ^ n)) (BitVec.ofNat 32 (a.toNat % 2 ^ n))⟩
  | .rimul d a b l => some ⟨d.toNat, a.toNat, .s b.toNat, l.toNat, 6, fun _ a b _ => whole 6 (a * b) 0⟩
  | .riadd d a b l => some ⟨d.toNat, a.toNat, .v b.toNat, l.toNat, 7, fun _ a b _ => whole 7 (a + b) 0⟩
  | .rmax0 d a =>
    some ⟨d.toNat, a.toNat, .v a.toNat, 0, 8, fun m a _ _ =>
      let et := m.toNat / 8 % 64
      if et = 2 then
        { val := if decide (0x7F800000 < (a &&& 0x7FFFFFFF).toNat) || a.msb || (m.getLsbD 13 && decide (a.toNat < 0x800000)) then 0 else a
          fl := if (Num.val a).isSignalling then 1 else 0, push := some ⟨⟨a, 8⟩, 8⟩ }
      else if [1, 6, 8, 10].contains et then whole 8 a a
      else whole 8 (if a.toInt < 0 then 0 else a) a⟩
  | _ => none

/-- R169: the fault of a lane of a forward instruction: an enabled exception before the lossy trap of MODE.ERL. -/
def forwardFault (m : Word) (cls : Nat) (r : LaneRes) : Option (Nat × Dword) :=
  if enabled m r.fl then some (0x0A, r.fl.setWidth 64)
  else match r.push with
    | some p => if p.entry.tag = 0x1F ∧ m.getLsbD 29 = true then some (0x07, remainderVal p.entry.word cls 0x1F) else none
    | none => none

/-- Table 2.1: the seed of a forward form's link, the lane's result with a word in the replaced place, and the carry before a lane. -/
def ForwardForm.seed (f : ForwardForm) (g : Gang) (l : Nat) : Word := if f.link = 1 then g.vreg f.a l else g.opB f.b l
def ForwardForm.linked (f : ForwardForm) (g : Gang) (c : Cur) (l : Nat) (x : Word) : LaneRes :=
  if f.link = 1 then f.f (modeOf g c) x (g.opB f.b l) (g.vreg f.d l) else f.f (modeOf g c) (g.vreg f.a l) x (g.vreg f.d l)
def ForwardForm.carry (f : ForwardForm) (g : Gang) (c : Cur) (incoming : Option Word) (l : Nat) : Option Word :=
  Claims.carry g c incoming (f.seed g) (fun l x => (f.linked g c l x).val) l

/-- The lane results of a forward form: from its operands, or along the chain of R25 from what has come in. -/
def ForwardForm.result (f : ForwardForm) (g : Gang) (c : Cur) (incoming : Option Word) (l : Nat) : LaneRes :=
  if f.link = 0 then f.f (modeOf g c) (g.vreg f.a l) (g.opB f.b l) (g.vreg f.d l)
  else f.linked g c l ((f.carry g c incoming l).getD (f.seed g l))

/-- The remainder stacks after a forward instruction's lanes. -/
def pushed (g : Gang) (c : Cur) (r : Nat → LaneRes) (l : Nat) : List Rem :=
  if l ∈ lanes g c then (match (r l).push with | some p => p.entry :: g.remOf l | none => g.remOf l) else g.remOf l

/-- A forward instruction's lanes: words and entries. -/
def Pushes (s : State) (c : Cur) (g : Gang) (i : Instr) (d : Nat) (r : Nat → LaneRes) (fp : BitVec 6) : Prop :=
  ∃ t h, exec i s = .next t ∧ OnlyGang s t c h ∧ Past g h c ∧
    Left g h g.sreg (g.vregWith (lanes g c) d fun l => (r l).val) g.pred (pushed g c r) fp g.pend

/-- An undo: the register it writes, its class, and the word of a lane from MODE, the lane and the popped word. -/
structure UndoForm where
  d : Nat
  cls : Nat
  f : Gang → Word → Nat → Word → Word

/-- Tables 8.6 and 8.7, and `unmark`. -/
def undo (m : Word) : Instr → Option UndoForm
  | .unfadd d a b => some ⟨d.toNat, 1, fun g _ l e => unfaddWord e (g.vreg a.toNat l) (g.vreg b.toNat l)⟩
  | .unfmul d a b => some ⟨d.toNat, 2, fun g _ l e => unfmulWord e (g.vreg a.toNat l) (g.vreg b.toNat l)⟩
  | .unfma d a b => some ⟨d.toNat, 3, fun g _ l e => unfmaWord e (g.vreg a.toNat l) (g.vreg b.toNat l) (g.vreg d.toNat l)⟩
  | .unnarrow d a =>
    if Num.narrowable (m.toNat / 8 % 64) then some ⟨d.toNat, 4, fun g m l e => unnarrowWord m e (g.vreg a.toNat l)⟩ else none
  | .unshr d a b =>
    some ⟨d.toNat, 5, fun g _ l e =>
      let n := (g.vreg b.toNat l).toNat % 32
      (g.vreg a.toNat l <<< n) ||| BitVec.ofNat 32 (e.toNat % 2 ^ n)⟩
  | .unniadd d a b => some ⟨d.toNat, 7, fun g _ l _ => g.vreg a.toNat l - g.vreg b.toNat l⟩
  | .unmax0 d _ => some ⟨d.toNat, 8, fun _ _ _ e => e⟩
  | _ => none

/-- R170: the fault of a lane's top entry; `word` is the word that `unmark` expects. -/
def popFault (cls : Nat) (word : Option Word) (st : List Rem) : Option (Nat × Dword) :=
  match st with
  | [] => some (0x06, remainderVal 0 cls 0)
  | e :: _ =>
    if e.tag = 0x1F then some (0x07, remainderVal e.word cls 0x1F)
    else if e.tag ≠ cls then some (0x06, remainderVal e.word cls e.tag)
    else match word with
      | some w => if e.word = w then none else some (0x06, remainderVal e.word cls e.tag)
      | none => none

/-- R162: no lane needs a refill: nothing lies in spill blocks, or every active lane has an entry on chip. -/
def onHand (g : Gang) (c : Cur) : Prop := g.rsdepth = 0 ∨ ∀ l, l ∈ lanes g c → g.remOf l ≠ []

/-- R161: no active lane would hold 33 entries. -/
def hasRoom (g : Gang) (c : Cur) : Prop := ∀ l, l ∈ lanes g c → (g.remOf l).length < 32

/-- An undo's lanes: one entry popped of each, the word written where the form writes one. -/
def Pops (s : State) (c : Cur) (g : Gang) (i : Instr) (d : Option Nat) (r : Nat → Word) : Prop :=
  ∃ t h, exec i s = .next t ∧ OnlyGang s t c h ∧ Past g h c ∧
    Left g h g.sreg (match d with | some d => g.vregWith (lanes g c) d r | none => g.vreg) g.pred
      (fun l => if l ∈ lanes g c then (g.remOf l).tail else g.remOf l) g.fpst g.pend

/-- The word on top of a lane's stack. -/
def top (g : Gang) (l : Nat) : Word := ((g.remOf l).headD ⟨0, 0⟩).word

abbrev num (n : Nat) : Dword := BitVec.ofNat 64 n

/-- R60, Table 8.2: block `n` of the spill area, and in it the word and the tag of entry `e` of a lane. -/
def blockAt (g : Gang) (n : Nat) : Dword := g.rsb + num ((n - 1) * 2560)
def wordAt (g : Gang) (n e l k : Nat) : Dword := blockAt g n + num (e * 128 + l * 4) + num k
def tagPlace (g : Gang) (n e l : Nat) : Dword := blockAt g n + num (0x800 + e * 32 + l)

/-- R162: entry `e` of a lane in block `n`, none where its tag is EMPTY; `byte` is what the area holds. -/
def slotEntry (g : Gang) (byte : Dword → Byte) (l n e : Nat) : Option (Nat × Rem) :=
  let tag := (byte (tagPlace g n e l)).toNat % 32
  let b (k : Nat) := byte (wordAt g n e l k)
  if tag = 0 then none else some (e, ⟨b 3 ++ b 2 ++ b 1 ++ b 0, tag⟩)

/-- R165: every byte of the spill area can be read now. -/
def Readable (s : State) (g : Gang) (c : Cur) (byte : Dword → Byte) : Prop :=
  ∀ o, o < g.rsdepth * 2560 → s.areaByte g c.slice (g.rsb + num o) = .ok (byte (g.rsb + num o))

/-- Every byte of the spill area that is read and written stands at one place of its own. -/
def Apart (s : State) (g : Gang) (c : Cur) (at_ : Dword → Nat) : Prop :=
  ∀ o, o < g.rsdepth * 2560 → (∃ sc, s.placeOf g c.slice 1 1 (g.rsb + num o) = .at_ (at_ (g.rsb + num o)) sc) ∧
    ∀ p, p < g.rsdepth * 2560 → at_ (g.rsb + num o) = at_ (g.rsb + num p) → o = p

/-- R163: RSDEPTH after the entries whose tags are `gone` have been consumed: the highest block that still holds an entry. -/
def Released (g : Gang) (byte : Dword → Byte) (gone : Dword → Prop) (n : Nat) : Prop :=
  let left (n l e : Nat) : Prop := (byte (tagPlace g n e l)).toNat % 32 ≠ 0 ∧ ¬gone (tagPlace g n e l)
  n ≤ g.rsdepth ∧ (∀ m l e, n < m → m ≤ g.rsdepth → l < 32 → e < 16 → ¬left m l e) ∧
    (n = 0 ∨ ∃ l e, l < 32 ∧ e < 16 ∧ left n l e)

/-- Entry `k` of a lane's slot in block `m` lies no deeper than entry `e` in block `n`. -/
def upFrom (g : Gang) (n e m k : Nat) : Prop := m ≤ g.rsdepth ∧ k < 16 ∧ (n < m ∨ (n = m ∧ e ≤ k))

/-- R175: where a lane's nearest mark stands in its slots: entry `e` of block `n`. -/
def MarkedAt (g : Gang) (byte : Dword → Byte) (mark : Rem) (l n e : Nat) : Prop :=
  0 < n ∧ n ≤ g.rsdepth ∧ e < 16 ∧ slotEntry g byte l n e = some (e, mark) ∧
    ∀ m k, upFrom g n e m k → slotEntry g byte l m k = some (k, mark) → m = n ∧ k = e

end Sys2Proof.Claims

/-- R25, R26, R28, R29, R30, R31, R168, R169, R172, R173: a forward instruction with room for its entries: each active lane's word and
entry, its flags taken up; an enabled exception, or a lossy lane under MODE.ERL, traps and pushes nothing; an even scalar factor is illegal.
With a hand-on link it takes its gang's entry and hands on the last lane's word. That a successor's FIFO is full at four entries, whichever
gang appended them, is the model's choice (log entry 56). -/
def Obligations.ReversibleForward : Prop :=
  (∀ s c g i f, Instr.wellFormed i = true → Starts s c g i → Leads g c → forward (modeOf g c) i = some f → hasRoom g c →
    (∀ d a b l, i = .rimul d a b l → (g.sreg b.toNat).getLsbD 0 = true) →
    (f.link ≠ 3 → LanesCommit s c g i (fun l => forwardFault (modeOf g c) f.cls (f.result g c none l))
      (∃ fp, joined g c (fun l => (f.result g c none l).fl) fp ∧ Pushes s c g i f.d (f.result g c none) fp)) ∧
    (f.link = 3 →
      let r := f.result g c (taken g)
      HandsOn s c g i f.d (fun l => (r l).val) (pushed g c r) (f.carry g c (taken g) (4 * g.slices.length))
        (f.seed g (4 * g.slices.length - 1)) fun commit =>
          LanesCommit s c g i (fun l => forwardFault (modeOf g c) f.cls (r l))
            (∃ fp, joined g c (fun l => (r l).fl) fp ∧ commit fp))) ∧
  (∀ s c g (d a b : BitVec 6) (l : BitVec 2), (g.sreg b.toNat).getLsbD 0 = false →
    (Starts s c g (.rimul d a b l) → TrapsWhole s c g (.rimul d a b l) 0x01 ((g.sreg b.toNat).setWidth 64)) ∧
    (Starts s c g (.unimul d a b) → TrapsWhole s c g (.unimul d a b) 0x01 ((g.sreg b.toNat).setWidth 64)))

/-- R162, R170, R171, R173, R174: an undo with its entries on chip: each active lane's top entry is checked, popped and used; a lane
whose stack is empty or whose top entry is of another class or lossy traps, and nothing is popped. -/
def Obligations.ReversibleUndo : Prop :=
  (∀ s c g i f, Starts s c g i → undo (modeOf g c) i = some f → onHand g c →
    LanesCommit s c g i (fun l => popFault f.cls none (g.remOf l))
      (Pops s c g i (some f.d) fun l => f.f g (modeOf g c) l (top g l))) ∧
  (∀ s c g (d a b : BitVec 6), Starts s c g (.unimul d a b) → (g.sreg b.toNat).getLsbD 0 = true → onHand g c →
    ∃ r : Nat → Word, (∀ l, r l * g.sreg b.toNat = g.vreg a.toNat l) ∧
      LanesCommit s c g (.unimul d a b) (fun l => popFault 6 none (g.remOf l)) (Pops s c g (.unimul d a b) (some d.toNat) r)) ∧
  (∀ s c g (a : BitVec 9), Starts s c g (.unmark a) → onHand g c →
    LanesCommit s c g (.unmark a) (fun l => popFault 0x1E (some (g.sreg a.toNat &&& 0x07FFFFFF)) (g.remOf l))
      (Pops s c g (.unmark a) none fun _ => 0))

/-- R168, R171, R173: an integer pair undone under the mask it was made under gives every active lane its source word back and leaves
every remainder stack as it was. -/
def Sys2Proof.Claims.IntegerPairsRestore : Prop :=
  ∀ s c g (d a b x : BitVec 6) fwd back,
    (fwd, back) ∈ [(Instr.riadd d a b 0, Instr.unniadd x d b), (.rshr d a b, .unshr x d b), (.rmax0 d a, .unmax0 x d),
      (.rimul d a b 0, .unimul x d b)] →
    (fwd = .riadd d a b 0 ∨ fwd = .rshr d a b → d ≠ b) → (fwd = .rimul d a b 0 → (g.sreg b.toNat).getLsbD 0 = true) →
    (fwd = .rmax0 d a → (modeOf g c).toNat / 8 % 64 = 2 → (modeOf g c).getLsbD 24 = false) →
    Starts s c g fwd → x.toNat < g.nv → hasRoom g c →
    (∀ n l, n ∈ (Instr.regs back).rv → l ∈ lanes g c → n * 32 + l ∉ g.markV) →
    ∃ t k u h, exec fwd s = .next t ∧ t.gang? c.tile c.slot = some k ∧ exec back t = .next u ∧ u.gang? c.tile c.slot = some h ∧
      (∀ l, l ∈ lanes g c → h.vreg x.toNat l = g.vreg a.toNat l) ∧ (∀ l, h.remOf l = g.remOf l) ∧
      (∀ n l, l < 32 → l ∉ lanes g c → h.vreg n l = g.vreg n l)

/-- R171, R172: the undos of the four floating-point pairs give the source back, bit for bit, wherever the entry is not lossy, in every
rounding mode; but of `rfma` a zero source whose entry is no zero comes back as a zero of the entry's sign (assumption 5). -/
def Sys2Proof.Claims.FloatPairsRestore : Prop :=
  ∀ m a b d e,
    ((rfaddRes m a b).push = some ⟨⟨e, 1⟩, 1⟩ → unfaddWord e (rfaddRes m a b).val b = a) ∧
    ((rfmulRes m a b).push = some ⟨⟨e, 2⟩, 2⟩ → unfmulWord e (rfmulRes m a b).val b = a) ∧
    ((rfmaRes m a b d).push = some ⟨⟨e, 3⟩, 3⟩ → (magnitude d ≠ 0 ∨ magnitude e = 0 → unfmaWord e a b (rfmaRes m a b d).val = d) ∧
      (magnitude d = 0 → magnitude e ≠ 0 → unfmaWord e a b (rfmaRes m a b d).val = if e.msb then 0x80000000 else 0)) ∧
    ((rnarrowRes m a).push = some ⟨⟨e, 4⟩, 4⟩ → unnarrowWord m e (rnarrowRes m a).val = a)

/-- R168, R171, R173, R172: an integer pair undone under the mask it was made under gives every active lane its source word back and leaves
every remainder stack as it was; the undos of the four floating-point pairs give the source back, bit for bit, wherever the entry is not
lossy, in every rounding mode; but of `rfma` a zero source whose entry is no zero comes back as a zero of the entry's sign (assumption 5). -/
def Obligations.UndoRestores : Prop := Sys2Proof.Claims.IntegerPairsRestore ∧ Sys2Proof.Claims.FloatPairsRestore

/-- R163, R174, R175, R176: `rsmark` pushes its mark on every active lane; `rsdrop` frees every entry down to and including the nearest such
mark, on chip and in spill blocks, rewrites the tags of those in blocks EMPTY and releases the top blocks that hold no entry any more, or
traps and frees none where an active lane has no such mark; `rsdep` gives the greatest depth over live slices. That a `rsdrop` which
rewrites more than 64 lines goes through the store queue once it is empty is the model's choice (log entry 61). -/
def Obligations.RemainderMarks : Prop :=
  ∀ s c g,
    (∀ a, Starts s c g (.rsmark a) → hasRoom g c →
      ∃ t h, exec (.rsmark a) s = .next t ∧ OnlyGang s t c h ∧ Past g h c ∧
        Left g h g.sreg g.vreg g.pred
          (fun l => if l ∈ lanes g c then ⟨g.sreg a.toNat &&& 0x07FFFFFF, 0x1E⟩ :: g.remOf l else g.remOf l) g.fpst g.pend) ∧
    (∀ a byte, Starts s c g (.rsdrop a) → Readable s g c byte → (∀ e, e ∈ (s.tile g.tile).sq → e.seq < (s.tile g.tile).nextSeq) →
      let mark : Rem := ⟨g.sreg a.toNat &&& 0x07FFFFFF, 0x1E⟩
      (∀ (pre rest : Nat → List Rem) (at_ : Dword → Nat) (lines : List Nat) (slot : Nat → Option (Nat × Nat)),
        (∀ l, l ∈ lanes g c → match slot l with
          | none => g.remOf l = pre l ++ mark :: rest l ∧ mark ∉ pre l
          | some (n, e) => mark ∉ g.remOf l ∧ MarkedAt g byte mark l n e) →
        let gone (x : Dword) : Prop := ∃ l n e m k, l ∈ lanes g c ∧ slot l = some (n, e) ∧ upFrom g n e m k ∧
          slotEntry g byte l m k ≠ none ∧ x = tagPlace g m k l
        (∀ x, gone x → at_ x / 64 ∈ lines ∧ ∃ sc, s.placeOf g c.slice 1 2 x = .at_ (at_ x) sc) →
        (s.tile g.tile).sqUsed + min lines.length 64 ≤ 64 →
        ∃ t h, exec (.rsdrop a) s = .next t ∧ t.gang? c.tile c.slot = some h ∧ Past g h c ∧
          Left { g with domStored := h.domStored, rsdepth := h.rsdepth } h g.sreg g.vreg g.pred
            (fun l => if l ∈ lanes g c then match slot l with | none => rest l | some _ => [] else g.remOf l) g.fpst g.pend ∧
          ((∀ l, l ∈ lanes g c → slot l = none) → g.rsdepth = 0 → OnlyGang s t c h) ∧
          (Apart s g c at_ → Released g byte gone h.rsdepth) ∧ (∀ x, gone x → (t.tile g.tile).sqByte (at_ x) = some (some 0)) ∧
          (∀ b, (∀ x, gone x → b ≠ at_ x) → (t.tile g.tile).sqByte b = (s.tile g.tile).sqByte b) ∧
          ∀ now a, t.homeByte now a = s.homeByte now a) ∧
      (∀ has : Nat → Bool,
        (∀ l, has l = true ↔ mark ∈ g.remOf l ∨ ∃ n e, 0 < n ∧ n ≤ g.rsdepth ∧ e < 16 ∧ slotEntry g byte l n e = some (e, mark)) →
        ∀ l, l ∈ lanes g c → has l = false → (∀ k, k ∈ lanes g c → k < l → has k = true) →
          TrapsWith s c g (.rsdrop a) 0x06 (remainderVal 0 0x1E 0) (l / 4) fun k => decide (k ∈ lanes g c) && !has k)) ∧
    (∀ d, Starts s c g (.rsdep d) → ∃ m,
      (∀ l, l / 4 ∈ g.liveSlices → s.depth g l ≤ m) ∧ (m = 0 ∨ ∃ l, l / 4 ∈ g.liveSlices ∧ s.depth g l = m) ∧
      ∃ t h, exec (.rsdep d) s = .next t ∧ OnlyGang s t c h ∧ Past g h c ∧
        Left g h (g.sregWith d.toNat (BitVec.ofNat 32 m)) g.vreg g.pred g.remOf g.fpst g.pend)

/-! ## Memory instructions (spec/09_isa_memory.md) -/

namespace Sys2Proof.Claims

/-- R177: the lane addresses of a vector access, and the address of a scalar one, whose lane is written 32. -/
def lanesAt (a b : Nat) (g : Gang) (c : Cur) : List (Nat × Dword) :=
  (lanes g c).map fun l => (l, (g.sreg (b + 1) ++ g.sreg b) + (g.vreg a l).signExtend 64)
def scalarAt (a b : Nat) (g : Gang) (_ : Cur) : List (Nat × Dword) := [(32, (g.sreg (b + 1) ++ g.sreg b) + (g.sreg a).signExtend 64)]

/-- A load or store: lookahead, first register, width, sign extension, acquire or release, scratchpad, addresses. -/
structure MemForm where
  n : Nat
  reg : Nat
  width : Nat
  signed : Bool
  ordered : Bool
  scratch : Bool
  addrs : Gang → Cur → List (Nat × Dword)

def vecForm (n d a b : Nat) (h : BitVec 2) (width : Nat) (signed : Bool) : Option MemForm :=
  some ⟨n, d, width, signed, false, h == 3, lanesAt a b⟩

/-- Table 9.1: the loads; the word form with H = 1 is one outside a handler (R185). -/
def loadForm (sup : Bool) : Instr → Option MemForm
  | .ldB n d a b h => vecForm n.toNat d.toNat a.toNat b.toNat h 1 false
  | .ldBs n d a b h => vecForm n.toNat d.toNat a.toNat b.toNat h 1 true
  | .ldH n d a b h => vecForm n.toNat d.toNat a.toNat b.toNat h 2 false
  | .ldHs n d a b h => vecForm n.toNat d.toNat a.toNat b.toNat h 2 true
  | .ldW n d a b h => vecForm n.toNat d.toNat a.toNat b.toNat h 4 false
  | .ldD n d a b h => vecForm n.toNat d.toNat a.toNat b.toNat h 8 false
  | .ldQ n d a b h => vecForm n.toNat d.toNat a.toNat b.toNat h 16 false
  | .ldAcqW n d a b => some ⟨n.toNat, d.toNat, 4, false, true, false, lanesAt a.toNat b.toNat⟩
  | .sldW n d a b _ => some ⟨n.toNat, d.toNat, 4, false, false, false, scalarAt a.toNat b.toNat⟩
  | .sldD n d a b _ => some ⟨n.toNat, d.toNat, 8, false, false, false, scalarAt a.toNat b.toNat⟩
  | .sldAcq n d a b => some ⟨n.toNat, d.toNat, 4, false, true, false, scalarAt a.toNat b.toNat⟩
  | .sldWPhys n d a b => if sup then none else some ⟨n.toNat, d.toNat, 4, false, false, false, scalarAt a.toNat b.toNat⟩
  | _ => none

/-- Table 9.1: the stores. -/
def storeForm (sup : Bool) : Instr → Option MemForm
  | .stB d a b h => vecForm 0 d.toNat a.toNat b.toNat h 1 false
  | .stH d a b h => vecForm 0 d.toNat a.toNat b.toNat h 2 false
  | .stW d a b h => vecForm 0 d.toNat a.toNat b.toNat h 4 false
  | .stD d a b h => vecForm 0 d.toNat a.toNat b.toNat h 8 false
  | .stQ d a b h => vecForm 0 d.toNat a.toNat b.toNat h 16 false
  | .stRelW d a b => some ⟨0, d.toNat, 4, false, true, false, lanesAt a.toNat b.toNat⟩
  | .sstW d a b _ => some ⟨0, d.toNat, 4, false, false, false, scalarAt a.toNat b.toNat⟩
  | .sstD d a b _ => some ⟨0, d.toNat, 8, false, false, false, scalarAt a.toNat b.toNat⟩
  | .sstRel d a b => some ⟨0, d.toNat, 4, false, true, false, scalarAt a.toNat b.toNat⟩
  | .sstWPhys d a b => if sup then none else some ⟨0, d.toNat, 4, false, false, false, scalarAt a.toNat b.toNat⟩
  | _ => none

/-- Register `k` of the access of a lane, and byte `k` of what it stores. -/
def regOf (g : Gang) (l n : Nat) : Word := if l = 32 then g.sreg n else g.vreg n l
def storedByte (g : Gang) (reg l k : Nat) : Byte := (regOf g l (reg + k / 4)).extractLsb' (8 * (k % 4)) 8

/-- The registers that a load writes. -/
def loadKeys (reg width : Nat) (xs : List (Nat × Dword)) : List Dest :=
  xs.flatMap fun x => (List.range (max 1 (width / 4))).map fun r =>
    if x.1 = 32 then .sreg (reg + r) else .vreg ((reg + r) * 32 + x.1)

/-- From `s` to `t` the executing gang stands as `h`, and beside it only TLBs, L1 copies, the requesters that homes saw last, and what `q`
allows of the gang's tile have changed. Every byte at home reads as before. -/
structure Accessed (s t : State) (c : Cur) (g h : Gang) (q : Tile → Tile → Tile) : Prop where
  gang : t.gang? c.tile c.slot = some h
  others : ∀ tile slot, gkey tile slot ≠ gkey c.tile c.slot → t.gang? tile slot = s.gang? tile slot
  rest : { t with gangs := s.gangs, tiles := s.tiles, clusters := s.clusters, homes := s.homes, hostStores := s.hostStores } = s
  homes : ∀ l, { t.home l with at_ := (s.home l).at_, who := (s.home l).who } = s.home l
  tile : { q (s.tile g.tile) (t.tile g.tile) with tlb := (s.tile g.tile).tlb, l1 := (s.tile g.tile).l1 } = s.tile g.tile
  tiles : ∀ n, n ≠ g.tile → t.tile n = s.tile n
  clusters : ∀ n, { t.cluster n with tlb := (s.cluster n).tlb } = s.cluster n
  bytes : ∀ now a, t.homeByte now a = s.homeByte now a

def same (_ t : Tile) : Tile := t
def queued (s t : Tile) : Tile := { t with sq := s.sq, nextSeq := s.nextSeq }

/-- R35, R177: where a lane's access faults and none waits for a walk: the trap of the lowest such lane, its address in TVAL; of a
scalar access the active lanes of the group. -/
def AccessTraps (s : State) (c : Cur) (g : Gang) (i : Instr) (xs : List (Nat × Dword)) (place : Dword → Place) : Prop :=
  ∀ pre l a post cause, xs = pre ++ (l, a) :: post → place a = .fault cause →
    (∀ x, x ∈ pre → ∀ k, place x.2 ≠ .fault k) → (∀ x, x ∈ xs → ∀ va cl, place x.2 ≠ .miss va cl) →
    TrapsWith s c g i cause a (if l = 32 then c.slice else l / 4)
      fun k => if l = 32 then decide (k ∈ lanes g c) else xs.any fun x => decide (x.1 = k ∧ place x.2 = .fault cause)

/-- R308: where an access lacks a translation, its group waits for a walk of that page. -/
def AccessWalks (s : State) (c : Cur) (g : Gang) (i : Instr) (xs : List (Nat × Dword)) (place : Dword → Place) : Prop :=
  (∃ x va cl, x ∈ xs ∧ place x.2 = .miss va cl) → ∃ t h, exec i s = .next t ∧ t.gang? c.tile c.slot = some h ∧
    (∀ j, h.slice j = if j ∈ g.group c.slice then { g.slice j with wait := .walk } else g.slice j) ∧
    Left g h g.sreg g.vreg g.pred g.remOf g.fpst g.pend ∧ (∀ now a, t.homeByte now a = s.homeByte now a) ∧
    { t with gangs := s.gangs, tiles := s.tiles, clusters := s.clusters, walks := s.walks } = s ∧
    ∀ x va cl, x ∈ xs → place x.2 = .miss va cl →
      ∃ w, w ∈ t.walks ∧ w.ctx = g.ctx ∧ w.va / 65536 = va / 65536 ∧ (cl = true → w.clear = true) ∧ c ∈ w.waiters

/-- R182: the place of a scratchpad access. -/
def inScratch (g : Gang) (width : Nat) (a : Dword) : Place :=
  if a.toNat % width ≠ 0 then .fault 3 else if a.toNat + width ≤ g.scratch then .at_ ((g.spgen.toNat / 65536 % 64) * 4096 + a.toNat) false
  else .fault 5

/-- R339: nothing is recorded, so no instruction waits for log room. -/
def unlogged (s : State) (g : Gang) : Prop := (s.ctx g.ctx).loglim = 0

/-- The bytes that a store's lanes write at the places `at_`, the later lane over the earlier: what reads `byte` after and `old` before. -/
def Writes (g : Gang) (reg width : Nat) (xs : List (Nat × Dword)) (at_ : Nat → Nat) (byte old : Nat → Option (Option Byte)) : Prop :=
  (∀ pre l a post k, xs = pre ++ (l, a) :: post → k < width →
    (∀ x, x ∈ post → ¬(at_ x.1 ≤ at_ l + k ∧ at_ l + k < at_ x.1 + width)) →
    byte (at_ l + k) = some (some (storedByte g reg l k))) ∧
  (∀ b, (∀ x, x ∈ xs → ¬(at_ x.1 ≤ b ∧ b < at_ x.1 + width)) → byte b = old b)

/-- Lines of the places of an access. -/
def lineCount (xs : List (Nat × Dword)) (at_ : Nat → Nat) : Nat := (distinct (xs.map fun x => at_ x.1 / 64)).length

/-- Table 9.5: the scope of a release store's fence: system where a lane reaches the host, domain where one has a domain address, else
device. -/
def widest (xs : List (Nat × Dword)) (at_ : Nat → Nat) : Nat :=
  if xs.any (fun x => isHost (at_ x.1)) then 4 else if xs.any (fun x => decide (2 ^ 51 ≤ x.2.toNat)) then 3 else 2

/-- An access that finds its places and still has to wait at issue: its group stands in a wait that `p` names, and nothing else but TLBs
has changed. -/
def Holds (s : State) (c : Cur) (g : Gang) (i : Instr) (p : Wait → Prop) : Prop :=
  ∃ t h w, exec i s = .next t ∧ Accessed s t c g h same ∧ p w ∧
    (∀ j, h.slice j = if j ∈ g.group c.slice then { g.slice j with wait := w } else g.slice j) ∧
    Left g h g.sreg g.vreg g.pred g.remOf g.fpst g.pend

/-- R188: a fence's wait: with it the place in the tile's order and the number among the gang's results that part what is earlier. -/
def fenceSlice (s : State) (g : Gang) (j scope : Nat) (acquire : Bool) : Slice :=
  { g.slice j with wait := .fence scope acquire, mark := ((s.tile g.tile).nextSeq, g.nextId) }

/-- F1 of R241: an earlier load of the gang has still to read a line of the access at home. -/
def behindLoad (g : Gang) (width : Nat) (at_ : Nat → Option Nat) (xs : List (Nat × Dword)) : Prop :=
  ∃ x loc k, x ∈ xs ∧ at_ x.1 = some loc ∧ k < width ∧ ∃ p part, p ∈ g.pend ∧ p.dests ≠ [] ∧ p.load = some part ∧ (loc + k) / 64 ∈ part.need

/-- R183, R239: the tile's queue still holds a store or atomic to a byte of the access. -/
def behindOwn (s : State) (g : Gang) (width : Nat) (at_ : Nat → Option Nat) (xs : List (Nat × Dword)) : Prop :=
  ∃ x loc k e, x ∈ xs ∧ at_ x.1 = some loc ∧ k < width ∧ e ∈ (s.tile g.tile).sq ∧ e.line = (loc + k) / 64 ∧ match e.req with
      | .store bytes _ => (Sparse.find? bytes ((loc + k) % 64)).isSome = true
      | .atomic _ _ _ _ _ _ => True
      | .wake => False

/-- What an instruction that finds its places leaves with its group past it and no register changed. -/
def Passes (s : State) (c : Cur) (g : Gang) (i : Instr) : Prop :=
  ∃ t h, exec i s = .next t ∧ OnlyGang s t c h ∧ Past g h c ∧ Left g h g.sreg g.vreg g.pred g.remOf g.fpst g.pend

end Sys2Proof.Claims

/-- R177, R178, R179, R182, R183, R185, R189, R239: the loads. A global load whose lanes find their places awaits its registers under its
lookahead, with what it has still to read; a page that reads as zeros has no place. One waits unissued for the gang's earlier loads of
its lines, and an acquire load for the stores to its bytes in its tile's queue. A scratchpad load takes its bytes at once. -/
def Obligations.LoadsIssue : Prop :=
  ∀ s c g i f, Starts s c g i → loadForm g.sup i = some f →
    let xs := f.addrs g c
    (f.scratch = false → (f.ordered = true → unlogged s g) → ∀ at_ : Nat → Option Nat,
      (∀ x, x ∈ xs → (∃ loc sc, s.placeOf g c.slice f.width 1 x.2 = .at_ loc sc ∧ at_ x.1 = some loc) ∨
        (s.placeOf g c.slice f.width 1 x.2 = .zero ∧ at_ x.1 = none)) →
      (behindLoad g f.width at_ xs → Holds s c g i fun w => ∃ ls, w = .lines ls ∧ ls ≠ []) ∧
      (¬behindLoad g f.width at_ xs → f.ordered = true → behindOwn s g f.width at_ xs → Holds s c g i fun w => ∃ es, w = .own es ∧ es ≠ []) ∧
      (¬behindLoad g f.width at_ xs → (f.ordered = true → ¬behindOwn s g f.width at_ xs) →
       ∃ t h pd, exec i s = .next t ∧ Accessed s t c g h same ∧ Past g h c ∧
         Left g h g.sreg g.vreg g.pred g.remOf g.fpst pd ∧ (xs = [] → pd = g.pend) ∧
         (xs ≠ [] → ∃ p part, pd = g.pend ++ [p] ∧ Opened g c f.n p (loadKeys f.reg f.width xs) [] (some part) ∧
           part.lanes = xs.map (fun x => ⟨x.1, at_ x.1, x.2⟩) ∧ part.reg = f.reg ∧ part.width = f.width ∧ part.signed = f.signed ∧
          part.acquire = f.ordered ∧ (f.ordered = true → part.got = [])))) ∧
    (f.scratch = true → ∀ at_ : Nat → Nat, (∀ x, x ∈ xs → inScratch g f.width x.2 = .at_ (at_ x.1) false) →
      ∃ t h pd, exec i s = .next t ∧ OnlyGang s t c h ∧ Past g h c ∧
        Left g h g.sreg g.vreg g.pred g.remOf g.fpst pd ∧ (xs = [] → pd = g.pend) ∧
        (xs ≠ [] → ∃ p part, pd = g.pend ++ [p] ∧ Opened g c f.n p (loadKeys f.reg f.width xs) [] (some part) ∧
          part.lanes = xs.map (fun x => ⟨x.1, some (at_ x.1), x.2⟩) ∧ part.need = [] ∧ part.signed = f.signed ∧
          ∀ x k, x ∈ xs → k < f.width →
            Sparse.find? part.got (at_ x.1 + k) = some ((s.tile g.tile).scratchByte (at_ x.1 + k))))

/-- R177, R178, R181, R182, R184, R185: the stores. The bytes of the active lanes, a higher lane's over a lower's, stand in the store queue
and nowhere else; every other byte reads as before; with too few lines free the store waits at issue. A release store waits for its fence
first. A scratchpad store writes the grove's allocation, but for bytes that the other lane row has stored at the same time (R244). The
model's choices: each line written takes a line of the queue (log entry 61), a release store with no active lane has a fence of device scope
(log entry 62), and the two lane rows' stores of one tick commit together (log entry 65). -/
def Obligations.StoresIssue : Prop :=
  ∀ s c g i f, Starts s c g i → Placed g c → storeForm g.sup i = some f →
    let xs := f.addrs g c
    let before := s.tile g.tile
    (f.scratch = false → ∀ at_ : Nat → Nat,
      (∀ x, x ∈ xs → at_ x.1 % f.width = 0 ∧ ∃ sc, s.placeOf g c.slice f.width 2 x.2 = .at_ (at_ x.1) sc) →
      (f.ordered = true → (g.slice c.slice).phase = 0 → ∃ t h, exec i s = .next t ∧ Accessed s t c g h same ∧
        (∀ j, h.slice j = if j ∈ g.group c.slice then fenceSlice s g j (widest xs at_) false else g.slice j) ∧
        Left g h g.sreg g.vreg g.pred g.remOf g.fpst g.pend) ∧
      ((f.ordered = true → (g.slice c.slice).phase ≠ 0) →
        (64 < before.sqUsed + lineCount xs at_ → Holds s c g i fun w => w = .room (lineCount xs at_)) ∧
        (before.sqUsed + lineCount xs at_ ≤ 64 → ∃ t h, exec i s = .next t ∧ Accessed s t c g h queued ∧ Past g h c ∧
          Left { g with domStored := h.domStored } h g.sreg g.vreg g.pred g.remOf g.fpst g.pend ∧
          Writes g f.reg f.width xs at_ (t.tile g.tile).sqByte before.sqByte))) ∧
    (f.scratch = true → ∀ at_ : Nat → Nat, (∀ x, x ∈ xs → inScratch g f.width x.2 = .at_ (at_ x.1) false) →
      ∃ t h, exec i s = .next t ∧ t.gang? c.tile c.slot = some h ∧ Past g h c ∧
        Left g h g.sreg g.vreg g.pred g.remOf g.fpst g.pend ∧ (∀ n, n ≠ g.tile → t.tile n = s.tile n) ∧
        { t with gangs := s.gangs, tiles := s.tiles } = s ∧
        (∀ tile slot, gkey tile slot ≠ gkey c.tile c.slot → t.gang? tile slot = s.gang? tile slot) ∧
        { t.tile g.tile with scratch := before.scratch, rowOne := before.rowOne } = before ∧
        (∀ now a, t.homeByte now a = s.homeByte now a) ∧
        (g.pos.getD 0 < 4 → before.rowOne.1 = s.gtc → ∀ b, b ∈ before.rowOne.2 →
          (t.tile g.tile).scratchByte b = before.scratchByte b) ∧
        (4 ≤ g.pos.getD 0 ∨ before.rowOne.1 ≠ s.gtc →
          Writes g f.reg f.width xs at_ (fun b => some (some ((t.tile g.tile).scratchByte b))) fun b => some (some (before.scratchByte b))))

/-- R35, R177, R179, R181, R308: a load or store whose lanes fault traps with memory as it was, and one that lacks a translation waits for
the walk; scratchpad accesses need none. -/
def Sys2Proof.Claims.AccessFaults : Prop :=
  ∀ s c g i f, Starts s c g i → (f.ordered = true → unlogged s g) →
    (loadForm g.sup i = some f →
      (f.scratch = false → AccessTraps s c g i (f.addrs g c) (s.placeOf g c.slice f.width 1) ∧
        AccessWalks s c g i (f.addrs g c) (s.placeOf g c.slice f.width 1)) ∧
      (f.scratch = true → AccessTraps s c g i (f.addrs g c) (inScratch g f.width))) ∧
    (storeForm g.sup i = some f →
      (f.scratch = false → AccessTraps s c g i (f.addrs g c) (s.placeOf g c.slice f.width 2) ∧
        AccessWalks s c g i (f.addrs g c) (s.placeOf g c.slice f.width 2)) ∧
      (f.scratch = true → AccessTraps s c g i (f.addrs g c) (inScratch g f.width)))

namespace Sys2Proof.Claims

/-- Table 1.6: the tile and offset that a tile-window address names. -/
def windowUnit (x : Dword) : Nat × Nat := ((x.toNat % 2 ^ 48 - 0xF00000000000) / 0x100000, x.toNat % 2 ^ 48 % 0x100000)

/-- Table 1.6, R11, R13: what a word read through a tile window gives: a register of an occupied slot or a word of a live allocation,
under the generation that stands there; else zero. -/
def windowWord (s : State) (x : Dword) : Word :=
  let (tile, off) := windowUnit x
  let gen := x.extractLsb' 48 16
  let t := s.tile tile
  if off < 0x40000 then
    match s.gang? tile (off / 0x2000) with
    | some g => if gen = Sparse.get 0 t.slotGen (off / 0x2000) ∧ off % 0x2000 / 128 < g.nv ∧ off % 128 / 4 < 4 * g.nsl then
        g.vreg (off % 0x2000 / 128) (off % 128 / 4) else 0
    | none => 0
  else if off < 0x50000 then
    match s.gang? tile ((off - 0x40000) / 0x800) with
    | some g => if gen = Sparse.get 0 t.slotGen ((off - 0x40000) / 0x800) ∧ (off - 0x40000) % 0x800 / 4 < g.ns then
        g.sreg ((off - 0x40000) % 0x800 / 4) else 0
    | none => 0
  else if 0x80000 ≤ off ∧ off < 0xC0000 then
    let b := off - 0x80000
    if gen = Sparse.get 0 t.granule (b / 4096) ∧ t.allocs.any (fun a => decide (a.base ≤ b ∧ b < a.base + a.bytes)) then
      t.scratchByte (b + 3) ++ t.scratchByte (b + 2) ++ t.scratchByte (b + 1) ++ t.scratchByte b
    else 0
  else 0

/-- The register of a slot that a tile-window address names. -/
def windowReg (x : Dword) : Option (Nat × Dest) :=
  let off := (windowUnit x).2
  if off < 0x40000 then some (off / 0x2000, .vreg (off % 0x2000 / 128 * 32 + off % 128 / 4))
  else if off < 0x50000 then some ((off - 0x40000) / 0x800, .sreg ((off - 0x40000) % 0x800 / 4))
  else none

/-- R13: a result to the register named is in flight whose window has ended at the next instruction boundary, before which the slices
`js` issue one instruction more. -/
def inFlight (q : Gang) (js : List Nat) (d : Dest) : Prop :=
  let past (p : Pend) (j : Nat) : Prop := p.left.getD j 0 = 0 ∨ (j ∈ js ∧ p.left.getD j 0 = 1)
  ∃ p, p ∈ q.pend ∧ d ∈ p.dests ∧ match d with
    | .vreg k => past p (k % 32 / 4)
    | _ => ∀ j, j ∈ p.slices → past p j

/-- R13: a write at a window address, made as the group `c` issues, has such a result before it. -/
def windowWaits (s : State) (c : Cur) (g : Gang) (x : Dword) : Prop :=
  ∃ slot d q, windowReg x = some (slot, d) ∧ s.gang? (windowUnit x).1 slot = some q ∧
    inFlight q (if (windowUnit x).1 = c.tile ∧ slot = c.slot then g.group c.slice else []) d

/-- R13: a write of `w` at a window address waits for the result before it. -/
def leftWaiting (t : State) (x : Dword) (w : Word) : Prop :=
  ∃ slot d q p, windowReg x = some (slot, d) ∧ t.gang? (windowUnit x).1 slot = some q ∧ p ∈ q.pend ∧ p.after.getLast? = some (d, w)

/-- R11: whether a word written there is kept. -/
def windowKept (s : State) (x : Dword) : Bool := s.windowOk (windowUnit x).1 (x.extractLsb' 48 16) (windowPart (windowUnit x).2)

/-- Table 1.6: an offset that names something. -/
def windowNamed (x : Dword) : Prop :=
  let off := (windowUnit x).2
  off < 0x50000 ∨ (0x80000 ≤ off ∧ off < 0xC0000)

/-- Table 1.5: the region of a physical word address gives it no meaning: generation bits on HBM, a reserved part of a window, no region. -/
def noRegion (x : Dword) : Prop :=
  let p := x.toNat % 2 ^ 48
  if p < hbmSize then x.toNat / 2 ^ 48 ≠ 0
  else if isTileWindow p then ¬windowNamed x
  else isHost p = false ∧ isAccWindow p = false

end Sys2Proof.Claims

/-- R11, R12, R13, R62, R185: the physical word forms in a handler. In HBM, in tile windows and in accumulator windows a load awaits the
word and a store writes it; a window read waits for a result whose lookahead has ended, and a window write is made after it; a window write that finds
no register or byte counts in DROP, and one to a tile that holds writes back is held. A misaligned address and one of no region end the grove. -/
def Sys2Proof.Claims.PhysicalAccess : Prop :=
  ∀ s c g (n : BitVec 4) (d a b : BitVec 6), g.sup = true → Placed g c →
    let x := (g.sreg (b.toNat + 1) ++ g.sreg b.toNat) + (g.sreg a.toNat).signExtend 64
    let p := x.toNat % 2 ^ 48
    let load := Instr.sldWPhys n d a b
    let store := Instr.sstWPhys d a b
    let Awaits (o : State → State → Cur → Gang → Gang → Prop) (q : LoadPart → Prop) :=
      ∃ t h w part, exec load s = .next t ∧ o s t c g h ∧ Past g h c ∧ Left g h g.sreg g.vreg g.pred g.remOf g.fpst (g.pend ++ [w]) ∧
        Opened g c n.toNat w [.sreg d.toNat] [] (some part) ∧ part.width = 4 ∧ part.reg = d.toNat ∧ q part
    let Known (w : Word) := Awaits (fun s t c _ h => OnlyGang s t c h) fun part =>
      part.lanes = [⟨32, some 0, x⟩] ∧ part.need = [] ∧ ∀ k, k < 4 → Sparse.find? part.got k = some (w.extractLsb' (8 * k) 8)
    (Starts s c g load → p % 4 = 0 → x.toNat < hbmSize → ¬behindLoad g 4 (fun _ => some p) [(32, x)] →
      Awaits (fun s t c g h => Accessed s t c g h same) fun part => part.lanes = [⟨32, some p, x⟩]) ∧
    (Starts s c g load → p % 4 = 0 → isAccWindow p = true →
      Known ((s.cluster ((p - 0xF00100000000) / 0x20000)).accWord ((p - 0xF00100000000) % 0x20000 / 4))) ∧
    (Starts s c g load → p % 4 = 0 → isTileWindow p = true → windowNamed x →
      (s.windowPending x = true → Waits s c g load (.window x)) ∧ (s.windowPending x = false → Known (windowWord s x))) ∧
    (Starts s c g store → p % 4 = 0 → x.toNat < hbmSize → (s.tile g.tile).sqUsed < 64 →
      ∃ t h, exec store s = .next t ∧ Accessed s t c g h queued ∧ Past g h c ∧
        Left g h g.sreg g.vreg g.pred g.remOf g.fpst g.pend ∧
        Writes g d.toNat 4 [(32, x)] (fun _ => p) (t.tile g.tile).sqByte (s.tile g.tile).sqByte) ∧
    (Starts s c g store → p % 4 = 0 → isAccWindow p = true →
      let k := (p - 0xF00100000000) / 0x20000
      let e := (p - 0xF00100000000) % 0x20000 / 4
      ∃ t h, exec store s = .next t ∧ t.gang? c.tile c.slot = some h ∧ Past g h c ∧
        Left g h g.sreg g.vreg g.pred g.remOf g.fpst g.pend ∧ (∀ now a, t.homeByte now a = s.homeByte now a) ∧
        (∀ i, (t.cluster k).accWord i = if i = e then g.sreg d.toNat else (s.cluster k).accWord i) ∧
        (∀ n, n ≠ k → t.cluster n = s.cluster n) ∧ { t.cluster k with acc := (s.cluster k).acc } = s.cluster k) ∧
    (Starts s c g store → p % 4 = 0 → isTileWindow p = true → windowNamed x →
      let u := (windowUnit x).1
      let drop := (s.tile u).drop
      ∃ t h, exec store s = .next t ∧ t.gang? c.tile c.slot = some h ∧ Past g h c ∧ (∀ now a, t.homeByte now a = s.homeByte now a) ∧
        (s.holds u = true → (t.tile u).held = (s.tile u).held ++ [.write ⟨x, bytesOfNat 4 (g.sreg d.toNat).toNat, none⟩] ∧
          (t.tile u).drop = drop ∧ ∀ y, windowWord t y = windowWord s y) ∧
        (s.holds u = false → (t.tile u).held = (s.tile u).held ∧
          (t.tile u).drop = (if windowKept s x ∨ drop = 0xFFFFFFFF then drop else drop + 1) ∧
          (windowKept s x = true → ¬windowWaits s c g x → windowWord t x = g.sreg d.toNat) ∧
          (windowKept s x = true → windowWaits s c g x → windowWord t x = windowWord s x ∧ leftWaiting t x (g.sreg d.toNat)) ∧
          ∀ y, y ≠ x → y.toNat % 4 = 0 → isTileWindow (y.toNat % 2 ^ 48) = true → windowWord t y = windowWord s y)) ∧
    ∀ i, i = load ∨ i = store → Starts s c g i → g.ended = false →
      (p % 4 ≠ 0 → KillsWith s c g i 0x03 x) ∧ (p % 4 = 0 → noRegion x → KillsWith s c g i 0x05 x)

/-- R35, R177, R179, R181, R308, R11, R12, R13, R62, R185: a load or store whose lanes fault traps with memory as it was, and one that lacks
a translation waits for the walk; scratchpad accesses need none; the physical word forms in a handler. In HBM, in tile windows and in
accumulator windows a load awaits the word and a store writes it; a window read waits for a result whose lookahead has ended, and a window
write is made after it; a window write that finds no register or byte counts in DROP, and one to a tile that holds writes back is held. A
misaligned address and one of no region end the grove. A window word that straddles the end of an allocation is checked at its first byte,
the model's choice (log entry 55). -/
def Obligations.AccessFaultsAndPhysical : Prop := Sys2Proof.Claims.AccessFaults ∧ Sys2Proof.Claims.PhysicalAccess

namespace Sys2Proof.Claims

/-- Table 9.3: whether a scope covers an address at a place. -/
def covers (h : Nat) (a : Dword) (loc : Nat) : Prop :=
  if isHost loc then h = 3 else if 2 ^ 51 ≤ a.toNat then 2 ≤ h else True

/-- An atomic: lookahead, data register, operation, scope, whether it returns, addresses. -/
structure AtomForm where
  n : Nat
  reg : Nat
  op : Nat
  scope : Nat
  ret : Bool
  addrs : Gang → Cur → List (Nat × Dword)

def atomForm : Instr → Option AtomForm
  | .atom n d a r o h =>
    some ⟨n.toNat, d.toNat, o.toNat, h.toNat, r == 1, fun g c => (lanes g c).map fun l => (l, g.vreg (a.toNat + 1) l ++ g.vreg a.toNat l)⟩
  | .satom n d r o b h =>
    some ⟨n.toNat, d.toNat, o.toNat, h.toNat, r == 1, fun g _ => [(32, g.sreg (b.toNat + 1) ++ g.sreg b.toNat)]⟩
  | _ => none

/-- R330: an atomic without `.ret` of a gang in DET mode is held on its tile, but for one to the host. -/
def holds (g : Gang) (f : AtomForm) (loc : Nat) : Bool := g.det && !f.ret && !isHost loc

end Sys2Proof.Claims

/-- R186, R330: atomics whose lanes find their places in scope: each lane's operation and operands travel to its home, or in DET mode are
held on the tile; `.ret` awaits the old words; no byte has changed yet. -/
def Sys2Proof.Claims.AtomicsIssue : Prop :=
  ∀ s c g i f, Starts s c g i → Placed g c → atomForm i = some f →
    let xs := f.addrs g c
    ∀ at_ : Nat → Nat, (∀ x, x ∈ xs → covers f.scope x.2 (at_ x.1) ∧ ∃ sc, s.placeOf g c.slice 4 3 x.2 = .at_ (at_ x.1) sc) →
      let later := xs.filter fun x => holds g f (at_ x.1)
      let now := xs.filter fun x => !holds g f (at_ x.1)
      let key (l : Nat) : Dest := if l = 32 then .sreg f.reg else .vreg (f.reg * 32 + l)
      (s.tile g.tile).det.length + later.length ≤ 4096 → (f.ret = true → unlogged s g) →
      ∃ t h pd, exec i s = .next t ∧ Accessed s t c g h (fun a b => { queued a b with det := a.det }) ∧ Past g h c ∧
        Left { g with atomSeq := g.atomSeq + 1, domStored := h.domStored } h g.sreg g.vreg g.pred g.remOf g.fpst pd ∧
        ((f.ret = false ∨ xs = []) → pd = g.pend) ∧
        (f.ret = true → xs ≠ [] → ∃ p, pd = g.pend ++ [p] ∧ Opened g c f.n p (xs.map fun x => key x.1) [] none) ∧
        (t.tile g.tile).sq.map (fun e => (e.slot, e.gen, e.line, e.req)) =
          (s.tile g.tile).sq.map (fun e => (e.slot, e.gen, e.line, e.req)) ++ now.map (fun x =>
            (g.slot, g.gen, at_ x.1 / 64, Req.atomic f.op (regOf g x.1 f.reg) (regOf g x.1 (f.reg + 1)) (at_ x.1 % 64)
              (if f.ret then some g.nextId else none) (if f.ret then some (key x.1) else none))) ∧
        (t.tile g.tile).det.map (fun e => (e.lane, e.loc, e.op, e.x, e.y, e.seq)) =
          (s.tile g.tile).det.map (fun e => (e.lane, e.loc, e.op, e.x, e.y, e.seq)) ++ later.map fun x =>
            (x.1, at_ x.1, f.op, regOf g x.1 f.reg, regOf g x.1 (f.reg + 1), g.atomSeq)

/-- R187, Table 9.4: the word that an atomic leaves, by its operation's code. -/
def Sys2Proof.Claims.AtomicWords : Prop :=
  ∀ old x y : Word,
    atomicWord 0 old x y = BitVec.ofNat 32 (old.toNat + x.toNat) ∧
    (atomicWord 1 old x y).toInt = min old.toInt x.toInt ∧ (atomicWord 2 old x y).toInt = max old.toInt x.toInt ∧
    (atomicWord 3 old x y).toNat = min old.toNat x.toNat ∧ (atomicWord 4 old x y).toNat = max old.toNat x.toNat ∧
    (∀ k, (atomicWord 5 old x y).getLsbD k = (old.getLsbD k && x.getLsbD k)) ∧
    (∀ k, (atomicWord 6 old x y).getLsbD k = (old.getLsbD k || x.getLsbD k)) ∧
    (∀ k, (atomicWord 7 old x y).getLsbD k = (old.getLsbD k != x.getLsbD k)) ∧
    atomicWord 8 old x y = x ∧ (old = x → atomicWord 9 old x y = y) ∧ (old ≠ x → atomicWord 9 old x y = old) ∧
    atomicWord 10 old x y = (Num.addV ⟨.rne, false, false⟩ (Num.val old) (Num.val x)).w

/-- R186, R330, R187, Table 9.4: atomics whose lanes find their places in scope: each lane's operation and operands travel to its home, or
in DET mode are held on the tile; `.ret` awaits the old words; no byte has changed yet; the word that an atomic leaves, by its operation's
code. How a tile's own accesses follow its atomics is the model's reading (log entry 17). -/
def Obligations.Atomics : Prop := Sys2Proof.Claims.AtomicsIssue ∧ Sys2Proof.Claims.AtomicWords

/-- R190: when a watch at a line whose read took the value of a time ends, by what its home has serialised already: at the first W after
it. -/
def Sys2Proof.Claims.EndsAt (s : State) (line now : Nat) (f : Option Nat) : Prop :=
  (f = none → ∀ p, p ∈ (s.home line).pending → p.1 ≤ now) ∧
  ∀ w, f = some w → now < w ∧ (∃ p, p ∈ (s.home line).pending ∧ p.1 = w) ∧
    ∀ p, p ∈ (s.home line).pending → now < p.1 → w ≤ p.1

/-- R190, R233: the time whose value a `wata` reads: where a write that the home took before it in this tick is in force at the next, that
one (the order within a tick is assumption 63). -/
def Sys2Proof.Claims.seen (s : State) (line : Nat) : Nat :=
  if (s.home line).wrote = s.gtc ∧ (s.home line).lastW = s.gtc + 1 then s.gtc + 1 else s.gtc

/-- R188, R190, R192, R193, R194, R306, R391: a fence waits for what its scope names, and once the wait is over its group passes; `wata`
passes where the word differs already, its kept budget has run out or the watch table is full, and else parks with a watch; `wake` travels
to its line's home, of a page that reads as zeros too; `zfill` stores 64 zero bytes to the line of each active lane; prefetches complete at
issue, whatever their translations, and change no byte and no register. The model's readings: a `wata` on a page of zeros passes (log entry
18), and how a tile's own accesses follow its atomics (log entry 17). -/
def Obligations.OrderingAndHints : Prop :=
  ∀ s c g,
    (∀ i scope acq, (∃ k : BitVec 3, (i = .fenceRel k ∧ scope = k.toNat ∧ acq = false) ∨
        (i = .fenceAcq k ∧ scope = min k.toNat 1 ∧ acq = decide (2 ≤ k.toNat)) ∨
        (i = .fenceAr k ∧ scope = k.toNat ∧ acq = decide (2 ≤ k.toNat))) → Starts s c g i →
      ((g.slice c.slice).phase = 0 → ∃ t h, exec i s = .next t ∧ OnlyGang s t c h ∧
        (∀ j, h.slice j = if j ∈ g.group c.slice then fenceSlice s g j scope acq else g.slice j) ∧
        Left g h g.sreg g.vreg g.pred g.remOf g.fpst g.pend) ∧ ((g.slice c.slice).phase ≠ 0 → Passes s c g i)) ∧
    (∀ (d a b : BitVec 6) loc sc, Starts s c g (.wata d a b) → isHost loc = false →
      s.placeOf g c.slice 4 1 (g.sreg (b.toNat + 1) ++ g.sreg b.toNat) = .at_ loc sc →
      let here := g.slice c.slice
      let kept := (here.budget.find? fun b => b.1 == here.pc).map Prod.snd
      let past := ∃ e, kept = some e ∧ e ≤ s.gtc
      let limit := match kept with
        | some e => some e
        | none => if g.sreg d.toNat = 0 then none else some (s.gtc + (g.sreg d.toNat).toNat)
      let word := s.homeWord (seen s (loc / 64)) loc
      (s.readable g.tile loc 1 = false → Holds s c g (.wata d a b) fun w => w = .home loc 1) ∧
      (s.readable g.tile loc 1 = true → word ≠ g.sreg a.toNat ∨ past ∨ s.watchFull loc = true →
        ∃ t h, exec (.wata d a b) s = .next t ∧ Accessed s t c g h same ∧ Past g h c ∧
        Left g h g.sreg g.vreg g.pred g.remOf g.fpst g.pend) ∧
      (s.readable g.tile loc 1 = true → word = g.sreg a.toNat → ¬past → s.watchFull loc = false → unlogged s g →
        ∃ t h, exec (.wata d a b) s = .next t ∧ t.gang? c.tile c.slot = some h ∧
          (∀ j, h.slice j = if j ∈ g.group c.slice then
              { g.slice j with
                wait := .wata
                budget := ((g.slice j).budget.filter fun b => b.1 != (g.slice j).pc) ++ match limit with
                  | some e => [((g.slice j).pc, e)]
                  | none => [] }
            else g.slice j) ∧ Left g h g.sreg g.vreg g.pred g.remOf g.fpst g.pend ∧
          (∃ f, EndsAt s (loc / 64) (seen s (loc / 64)) f ∧ t.watches = s.watches ++
            [{ line := loc / 64, since := seen s (loc / 64), tile := g.tile, slot := g.slot, slice := c.slice, fired := f }]) ∧
          ∀ now a, t.homeByte now a = s.homeByte now a)) ∧
    (∀ (b : BitVec 6) loc sc, Starts s c g (.wake b) → s.placeOf g c.slice 1 1 (g.sreg (b.toNat + 1) ++ g.sreg b.toNat) = .at_ loc sc →
      ∃ t h, exec (.wake b) s = .next t ∧ Accessed s t c g h queued ∧ Past g h c ∧
        Left g h g.sreg g.vreg g.pred g.remOf g.fpst g.pend ∧
        (t.tile g.tile).sq.map (fun e => (e.slot, e.line, e.req)) =
          (s.tile g.tile).sq.map (fun e => (e.slot, e.line, e.req)) ++ [(g.slot, loc / 64, Req.wake)]) ∧
    (∀ (b : BitVec 6) loc, Starts s c g (.wake b) → s.placeOf g c.slice 1 1 (g.sreg (b.toNat + 1) ++ g.sreg b.toNat) = .zero →
      s.framePlace g c.slice (g.sreg (b.toNat + 1) ++ g.sreg b.toNat) = some loc →
      ∃ t h, exec (.wake b) s = .next t ∧ Accessed s t c g h queued ∧ Past g h c ∧
        (t.tile g.tile).sq.map (fun e => (e.slot, e.line, e.req)) =
          (s.tile g.tile).sq.map (fun e => (e.slot, e.line, e.req)) ++ [(g.slot, loc / 64, Req.wake)]) ∧
    (∀ (a b : BitVec 6) (at_ : Nat → Nat), Starts s c g (.zfill a b) → Placed g c →
      let xs := lanesAt a.toNat b.toNat g c
      (∀ x, x ∈ xs → ∃ sc, s.placeOf g c.slice 1 2 x.2 = .at_ (at_ x.1) sc) → (s.tile g.tile).sqUsed + lineCount xs at_ ≤ 64 →
      ∃ t h, exec (.zfill a b) s = .next t ∧ Accessed s t c g h queued ∧ Past g h c ∧
        Left { g with domStored := h.domStored } h g.sreg g.vreg g.pred g.remOf g.fpst g.pend ∧
        ∀ p, (t.tile g.tile).sqByte p = if p / 64 ∈ xs.map (fun x => at_ x.1 / 64) then some (some 0) else (s.tile g.tile).sqByte p) ∧
    (∀ i (a b : BitVec 6), i = .pf a b ∨ i = .pfL2 a b → Starts s c g i → Placed g c →
      ∃ t h pd, exec i s = .next t ∧ t.gang? c.tile c.slot = some h ∧ Past g h c ∧
        Left g h g.sreg g.vreg g.pred g.remOf g.fpst pd ∧ (∀ now a, t.homeByte now a = s.homeByte now a) ∧
        (∀ q, q.id ≠ g.nextId → (q ∈ pd ↔ q ∈ g.pend)) ∧
        (∀ q, q ∈ pd → q.dests = [] ∨ ∃ r, r ∈ g.pend ∧ r.id = q.id ∧ r.dests = q.dests) ∧
        { t with gangs := s.gangs, tiles := s.tiles, clusters := s.clusters, walks := s.walks } = s)

/-! ## What the memory system does (spec/09_isa_memory.md, spec/11_memory_model.md) -/

namespace Sys2Proof.Claims

/-- R181 step 2: the completion time of a write to a line. -/
def nextW (s : State) (line : Nat) : Nat := max s.gtc (max (s.home line).lease (s.home line).lastW) + 1

/-- A line's home after one write of `bytes`; every other home, and every byte at an earlier time, as before. -/
def Written (s t : State) (line : Nat) (bytes : Sparse Byte) : Prop :=
  let w := nextW s line
  (t.home line).lastW = w ∧ (t.home line).pending = (s.home line).pending ++ [(w, bytes)] ∧ (t.home line).lease = (s.home line).lease ∧
  (∀ l, l ≠ line → t.home l = s.home l) ∧ t.mem = s.mem ∧ (∀ now a, now < w → t.homeByte now a = s.homeByte now a) ∧
  (∀ now k b, w ≤ now → k < 64 → Sparse.find? bytes k = some b → t.homeByte now (line * 64 + k) = b) ∧
  (∀ now a, (a / 64 ≠ line ∨ Sparse.find? bytes (a % 64) = none) → t.homeByte now a = s.homeByte now a) ∧
  ∀ x, x ∈ s.watches → x.line = line → x.since < w → ∃ y, y ∈ t.watches ∧ y.line = line ∧ y.tile = x.tile ∧ y.slot = x.slot ∧
    y.slice = x.slice ∧ y.fired ≠ none

/-- R178: register `r` of a lane of a load, from the bytes it has taken. -/
def loadedWord (l : LoadPart) (x : LaneAt) (r : Nat) : Word :=
  let byte (k : Nat) : Byte := match x.loc with
    | some p => (Sparse.find? l.got (p + k)).getD 0
    | none => 0
  if l.width = 1 then (if l.signed then (byte 0).signExtend 32 else (byte 0).setWidth 32)
  else if l.width = 2 then (if l.signed then (byte 1 ++ byte 0 : BitVec 16).signExtend 32 else (byte 1 ++ byte 0 : BitVec 16).setWidth 32)
  else byte (4 * r + 3) ++ byte (4 * r + 2) ++ byte (4 * r + 1) ++ byte (4 * r)

/-- Table 9.5: the wait of a scope is over for what came before `mark`, a place in the order of the tile's requests and the gang's number
of its next result: loads have returned; at device scope and wider the gang's stores have left the queue and GTC has reached HORIZON,
with 8 ticks more at domain scope and wider; at system scope the host has acknowledged. -/
def waitOver (s : State) (g : Gang) (scope : Nat) (mark : Nat × Nat) : Prop :=
  (∀ p, p ∈ g.pend → p.id < mark.2 → p.returned = true ∨ p.load = none ∨ p.dests = []) ∧
  (2 ≤ scope → (∀ e, e ∈ (s.tile g.tile).sq → e.slot = g.slot → e.gen = g.gen → e.seq < mark.1 → e.req = .wake) ∧
    g.horizon + (if 3 ≤ scope then 8 else 0) ≤ s.gtc) ∧
  (scope = 4 → ∀ h, h ∈ s.hostStores → h.seq < mark.1 → ¬(h.tile = g.tile ∧ h.slot = g.slot ∧ h.gen = g.gen))

/-- R233, R234: the expiry of a lease given now: LEASE ticks on, or before the first write still to come. -/
def Leased (s : State) (line lease e : Nat) : Prop :=
  e ≤ s.gtc + lease ∧ (∀ p, p ∈ (s.home line).pending → s.gtc < p.1 → e < p.1) ∧
  (e = s.gtc + lease ∨ ∃ p, p ∈ (s.home line).pending ∧ s.gtc < p.1 ∧ p.1 = e + 1)

/-- The last window write that waits for a result, else the result (R13). -/
def under (p : Pend) (d : Dest) (x : Word) : Word := ((p.after.filter fun v => v.1 == d).getLast?.map Prod.snd).getD x

/-- R302, R303: an entry of the table at a physical address, with its parts. -/
def entryOf (s : State) (table i : Nat) : Nat := (s.homeDword s.gtc (table + 8 * i)).toNat
def bit (e k : Nat) : Bool := decide (e / 2 ^ k % 2 = 1)
def frameOf (e : Nat) : Nat := e / 4096 % 2 ^ 36 * 4096
def sizeOf (e : Nat) : Nat := if e / 128 % 4 = 0 then 16 else if e / 128 % 4 = 1 then 21 else 30

/-- R303, R304: a valid entry of a table at a level is malformed. -/
def badEntry (s : State) (table i level : Nat) : Bool :=
  let e := entryOf s table i
  let f := frameOf e
  let n := 2 ^ sizeOf e
  let sz := e / 128 % 4
  let host (a : Nat) : Prop := 0xE00000000000 ≤ a ∧ a < 0xF00000000000
  decide (e / 2 ^ 9 % 8 ≠ 0 ∨ e / 2 ^ 48 ≠ 0 ∨ sz = 3) ||
  (if bit e 1 then
    decide (2 ≤ level ∨ (level = 0 ∧ sz = 2) ∨ (level = 1 ∧ sz ≠ 2)) || !decide (f + n ≤ 576000000000 ∨ (host f ∧ host (f + n - 1))) ||
      decide (f % n ≠ 0) || (bit e 5 && decide (sz ≠ 0 ∨ (host f ∧ host (f + n - 1)))) ||
      (decide (sz ≠ 0) && (List.range 32).any fun k => decide (entryOf s table (i / 32 * 32 + k) ≠ e))
  else decide (level = 0 ∨ 576000000000 < f + 4096))

/-- Tables 17.1 and 17.2, R301, R303, R304, R310: the walk of `n` levels from a table. -/
def walkFrom (s : State) (ctx va : Nat) : Nat → Nat → WalkResult
  | 0, _ => .fault 0x05
  | n + 1, table =>
    let i := va / 2 ^ (16 + 9 * n) % 512
    let e := entryOf s table i
    if (table + 8 * i) / 64 ∈ s.bad then .fault 0x0F
    else if bit e 0 = false then .fault 0x04
    else if bit e 1 && decide (e / 128 % 4 ≠ 0) && (List.range 4).any fun k => decide ((table + 256 * (i / 32)) / 64 + k ∈ s.bad) then
      .fault 0x0F
    else if badEntry s table i n then .fault 0x05
    else if bit e 1 then
      .ok { ctx := ctx, va := va / 2 ^ sizeOf e * 2 ^ sizeOf e, pa := frameOf e, size := sizeOf e, r := bit e 2, w := bit e 3, x := bit e 4,
            sc := bit e 6, zh := bit e 5 }
    else walkFrom s ctx va n (frameOf e)

/-- The gang in a slot changed by an event, everything of it but its slices, walk results and awaited results as before. -/
def Nudged (s t : State) (g h : Gang) : Prop :=
  t.gang? s.subject.unit s.subject.slot = some h ∧ Left g h g.sreg g.vreg g.pred g.remOf g.fpst g.pend ∧
  ∀ now a, t.homeByte now a = s.homeByte now a

end Sys2Proof.Claims

/-- R181, R186, R187, R192: requests of a tile reach their homes: a store takes the time after now, after every lease and after the line's
last write; an atomic does too, and the word it leaves is its operation's on the word before; a wake ends the watches of its line. How a
tile's own accesses follow its atomics is the model's reading (log entry 17). -/
def Obligations.HomeActions : Prop :=
  ∀ s e, (s.tile s.subject.unit).entry? s.subject.slot = some e → s.canArrive s.subject.unit e = true →
    (∀ bytes z, e.req = .store bytes z → ∃ t, exec .storeHomeArrival s = .next t ∧ Written s t e.line bytes ∧
      { e with w := some (nextW s e.line) } ∈ (t.tile s.subject.unit).sq ∧ t.gangs = s.gangs ∧ t.launches = s.launches) ∧
    (e.req = .wake → ∃ t, exec .storeHomeArrival s = .next t ∧ (∀ now a, t.homeByte now a = s.homeByte now a) ∧ t.gangs = s.gangs ∧
      (∀ l, (t.home l).pending = (s.home l).pending ∧ (t.home l).lastW = (s.home l).lastW ∧ (t.home l).lease = (s.home l).lease) ∧
      (∀ x, x ∈ t.watches → x.line = e.line → ∃ v, x.fired = some v ∧ v ≤ s.gtc) ∧
      (t.tile s.subject.unit).sq = (s.tile s.subject.unit).sq.filter fun x => x.seq != e.seq) ∧
    (∀ op x y k pend d, e.req = .atomic op x y k pend d → k % 4 = 0 → k < 64 →
      let old := s.homeWord (max s.gtc (s.home e.line).lastW) (e.line * 64 + k)
      let new := atomicWord op old x y
      ∃ t, exec .atomicHome s = .next t ∧
        Written s t e.line [(k, new.extractLsb' 0 8), (k + 1, new.extractLsb' 8 8), (k + 2, new.extractLsb' 16 8),
          (k + 3, new.extractLsb' 24 8)] ∧
        { e with w := some (nextW s e.line), old := old } ∈ (t.tile s.subject.unit).sq ∧ t.gangs = s.gangs)

/-- R181 step 3, R236: applying the writes whose time has come moves no value that is read now or later, and leaves pending only those
still to come; the time a line's last write completes is kept. -/
def Sys2Proof.Claims.StoreApplyKeepsValues : Prop :=
  ∀ s, (s.home s.subject.unit).pending.Pairwise (fun a b => a.1 ≤ b.1) →
    (∀ p, p ∈ (s.home s.subject.unit).pending → ∀ b, b ∈ p.2 → b.1 < 64) →
    (∀ p, p ∈ (s.home s.subject.unit).pending → (p.2.map Prod.fst).Nodup) →
    ∃ t, exec .storeApply s = .next t ∧ (∀ now a, s.gtc ≤ now → t.homeByte now a = s.homeByte now a) ∧
      (t.home s.subject.unit).pending = (s.home s.subject.unit).pending.filter (fun p => decide (s.gtc < p.1)) ∧
      (t.home s.subject.unit).lastW = (s.home s.subject.unit).lastW ∧ (t.home s.subject.unit).lease = (s.home s.subject.unit).lease ∧
      (∀ l, l ≠ s.subject.unit → t.home l = s.home l) ∧ t.gangs = s.gangs ∧ t.tiles = s.tiles ∧ t.watches = s.watches

/-- R181, R235, R57: a completion time returns: the entry leaves the queue, the tile lists the line until that time, HORIZON rises to it,
and the commands that wait for the store know it; an entry of the list expires once its time has come. -/
def Sys2Proof.Claims.CompletionReturns : Prop :=
  (∀ s e w bytes z, (s.tile s.subject.unit).entry? s.subject.slot = some e → e.w = some w → e.req = .store bytes z →
    (∀ x, x ∈ (s.tile s.subject.unit).sq → x.line = e.line → e.seq ≤ x.seq) →
    ∃ t, exec .storeCompletionReturn s = .next t ∧
      (t.tile s.subject.unit).sq = (s.tile s.subject.unit).sq.filter (fun x => x.seq != e.seq) ∧
      (∃ v, w ≤ v ∧ (e.line, v) ∈ (t.tile s.subject.unit).clist) ∧
      (∀ g, s.gang? s.subject.unit e.slot = some g → g.gen = e.gen → g.slot = e.slot → g.ended = false →
        ∃ h, t.gang? s.subject.unit e.slot = some h ∧ h.horizon = max g.horizon w ∧
          { h with horizon := g.horizon, recent := g.recent, queues := g.queues } = g ∧
          Sparse.get 0 h.recent e.line = max w (Sparse.get 0 g.recent e.line) ∧
          h.queues.map (fun q => q.map fun c => { c with seen := [] }) = g.queues.map (fun q => q.map fun c => { c with seen := [] }) ∧
          ∀ q c, q ∈ h.queues → c ∈ q → e.seq ∈ c.waits → w ≤ Sparse.get 0 c.seen e.line) ∧
      (∀ l x, e.launch = some l → s.launch? l = some x → t.launch? l = some { x with horizon := max x.horizon w }) ∧
      ∀ now a, t.homeByte now a = s.homeByte now a) ∧
  (∀ s, ∃ t, exec .completionListExpiry s = .next t ∧
    (∀ x, x ∈ (t.tile s.subject.unit).clist ↔
      x ∈ (s.tile s.subject.unit).clist ∧ ¬(x.1 = s.subject.slot ∧ x.2 ≤ s.gtc)) ∧
    (∀ n, n ≠ s.subject.unit → t.tile n = s.tile n) ∧ { t with tiles := s.tiles } = s)

/-- R181 step 3, R236, R181, R235, R57: applying the writes whose time has come moves no value that is read now or later, and leaves pending
only those still to come; the time a line's last write completes is kept; a completion time returns: the entry leaves the queue, the tile
lists the line until that time, HORIZON rises to it, and the commands that wait for the store know it; an entry of the list expires once its
time has come. -/
def Obligations.StoresComplete : Prop := Sys2Proof.Claims.StoreApplyKeepsValues ∧ Sys2Proof.Claims.CompletionReturns

/-- R13, R116, R178, R179, R183, R233, R234: a load reads a line at home now, and where it keeps the line L1 holds a copy under the lease
that the home gives and records; with every line read it returns, its words put together little-endian and extended, and they are written
where their windows have ended, but not while the tile switches. -/
def Obligations.LoadsComplete : Prop :=
  (∀ s g p l, s.gang? s.subject.unit s.subject.slot = some g → g.pend.find? (fun p => p.id == s.subject.part) = some p →
    p.load = some l → s.subject.item ∈ l.need → g.tile = s.subject.unit → g.slot = s.subject.slot →
    (s.tile s.subject.unit).mayReadAt s.gtc s.subject.item l.since = true → g.earlierLoad p.id s.subject.item = false →
    s.carries (s.subject.item * 64) = true → s.inTurn s.subject.item s.subject.unit = true →
    ∃ t h part, exec .loadHomeRead s = .next t ∧ t.gang? s.subject.unit s.subject.slot = some h ∧ h.pend =
        g.pend.map (fun q => if q.id = p.id then { q with load := some part } else q) ∧
      (∀ x, x ∈ part.need ↔ x ∈ l.need ∧ x ≠ s.subject.item) ∧
      (∀ b v, Sparse.find? l.got b = some v → Sparse.find? part.got b = some v) ∧
      (∀ x b k, x ∈ l.lanes → x.loc = some b → k < l.width → (b + k) / 64 = s.subject.item → Sparse.find? l.got (b + k) = none →
        Sparse.find? part.got (b + k) = some (s.homeByte s.gtc (b + k))) ∧
      part.lanes = l.lanes ∧ part.width = l.width ∧ part.signed = l.signed ∧ part.reg = l.reg ∧ part.time = max l.time s.gtc ∧
      (s.subject.item ∉ l.keep → (t.home s.subject.item).lease = (s.home s.subject.item).lease) ∧
      (s.subject.item ∈ l.keep → ∃ e, Leased s s.subject.item (s.ctx g.ctx).lease e ∧
        (t.home s.subject.item).lease = max (s.home s.subject.item).lease e ∧
        ((∀ x, x ∈ (s.tile s.subject.unit).l1 → x.line = s.subject.item → x.grant ≤ s.gtc) →
          ∃ x, x ∈ (t.tile s.subject.unit).l1 ∧ x.line = s.subject.item ∧ x.grant = s.gtc ∧
            x.expiry = (if 2 ^ 48 ≤ s.subject.item * 64 then e - 8 else e) ∧
            ((∀ q, q ∈ (s.tile s.subject.unit).sq → q.line ≠ s.subject.item) →
              x.bytes = s.homeBytes s.gtc (s.subject.item * 64) 64))) ∧
      ∀ now a, t.homeByte now a = s.homeByte now a) ∧
  (∀ s g p l, s.gang? s.subject.unit s.subject.slot = some g → g.pend.find? (fun p => p.id == s.subject.part) = some p →
    p.load = some l → p.returned = false → l.need = [] → p.dests ≠ [] → g.ended = false →
    ∃ t h, exec .loadReturn s = .next t ∧ t.gang? s.subject.unit s.subject.slot = some h ∧ h.slices = g.slices ∧
      ((s.tile s.subject.unit).switching ≠ none → (∀ n, h.sreg n = g.sreg n) ∧ ∀ n l, l < 32 → h.vreg n l = g.vreg n l) ∧
      (∀ n l, h.pred n l = g.pred n l) ∧ (∀ l, h.remOf l = g.remOf l) ∧ h.fpst = g.fpst ∧
      (∀ n, (∀ q, q ∈ g.pend → Dest.sreg n ∉ q.dests) → h.sreg n = g.sreg n) ∧
      (∀ n l, l < 32 → (∀ q, q ∈ g.pend → Dest.vreg (n * 32 + l) ∉ q.dests) → h.vreg n l = g.vreg n l) ∧
      (∀ now a, t.homeByte now a = s.homeByte now a) ∧
      (l.acquire = true → ∀ x, x ∈ (t.tile s.subject.unit).l1 → l.time ≤ x.grant) ∧
      ((s.tile s.subject.unit).switching = none → g.pend = [p] → p.engine = false → p.dests = loadKeys l.reg l.width (l.lanes.map fun x => (x.lane, x.addr)) →
        (l.lanes.map LaneAt.lane).Nodup → (∀ x, x ∈ l.lanes → x.lane ≤ 32) → (∀ d, d ∈ p.dests → p.due d = true) → h.pend = [] ∧
        ∀ x r, x ∈ l.lanes → r < max 1 (l.width / 4) → l.width ∈ [1, 2, 4, 8, 16] →
          reads h (if x.lane = 32 then .sreg (l.reg + r) else .vreg ((l.reg + r) * 32 + x.lane))
            (under p (if x.lane = 32 then .sreg (l.reg + r) else .vreg ((l.reg + r) * 32 + x.lane)) (loadedWord l x r))))

/-- R233, R234, R390: a copy in L1 goes once its lease has expired; a missing instruction line is read at home under the lease that the
home gives and records. -/
def Sys2Proof.Claims.CopiesAndInstructionLines : Prop :=
  (∀ s, ∃ t, exec .l1LeaseExpiry s = .next t ∧
    (∀ x, x ∈ (t.tile s.subject.unit).l1 ↔ x ∈ (s.tile s.subject.unit).l1 ∧ ¬(x.line = s.subject.slot ∧ x.expiry < s.gtc)) ∧
    (∀ n, n ≠ s.subject.unit → t.tile n = s.tile n) ∧ { t with tiles := s.tiles } = s) ∧
  (∀ s g loc sc, s.gang? s.subject.unit s.subject.slot = some g →
    let c : Cur := ⟨s.subject.unit, s.subject.slot, s.subject.part⟩
    Leads g c → s.fetches g c.slice = true ∨ s.fetchesBody g c.slice = true →
    s.place c.tile (g.walked.filter fun w => w.slice == c.slice) g.ctx (s.fetchAddr g c.slice) 4 = .at_ loc sc → isHost loc = false →
    cacheHit (s.cluster (c.tile / 4)).icache (loc / 64) s.gtc = none → s.carries loc = true → s.inTurn (loc / 64) c.tile = true →
    ∃ t x, exec .ifetchMissFill s = .next t ∧ x ∈ (t.cluster (c.tile / 4)).icache ∧ x.line = loc / 64 ∧
      x.bytes = s.homeBytes s.gtc (loc / 64 * 64) 64 ∧ x.grant = s.gtc ∧
      (∃ e, Leased s (loc / 64) (s.ctx g.ctx).lease e ∧ (t.home (loc / 64)).lease = max (s.home (loc / 64)).lease e ∧
        x.expiry = if 2 ^ 48 ≤ loc / 64 * 64 then e - 8 else e) ∧
      (∀ y, y ∈ (t.cluster (c.tile / 4)).icache → y ≠ x → y ∈ (s.cluster (c.tile / 4)).icache ∧ s.gtc ≤ y.expiry) ∧
      t.gangs = s.gangs ∧ ∀ now a, t.homeByte now a = s.homeByte now a)

/-- R301, R302, R303, R304, R306, R308, R310, Tables 17.1 and 17.2: a walk reads the context's table level by level and ends with the leaf
of the address, with page not present, with access violation at a malformed entry, or with a machine check at a line that cannot be read;
its outcome reaches every group that waits on it; the clearing of a page's zero hint first writes the frame's
lines as zeros, once they are in force clears the hint in the entry, if that still stands, and once this is in force takes the
page's translations out of every TLB, so that the accesses that wait walk again. -/
def Sys2Proof.Claims.WalksAndClearing : Prop :=
  (∀ s ctx va, s.walkTable ctx va = Sys2Proof.Claims.walkFrom s ctx va 4 (s.ctx ctx).root) ∧
  ∀ s w, s.walks[s.subject.unit]? = some w → s.walkRuns s.subject.unit = true →
    (w.clear = false → ∃ t, exec .pageWalk s = .next t ∧ t.walks = s.walks.eraseIdx s.subject.unit ∧
      (∀ now a, t.homeByte now a = s.homeByte now a) ∧
      ∀ c g, c ∈ w.waiters → s.gang? c.tile c.slot = some g → ∃ h x, t.gang? c.tile c.slot = some h ∧ x ∈ h.walked ∧
        x.slice = c.slice ∧ x.va = w.va ∧ x.result = s.walkTable w.ctx w.va) ∧
    (∀ x entry, w.clear = true → w.from_ = none → s.walkTable w.ctx w.va = .ok x → s.leafAt w.va 4 (s.ctx w.ctx).root = some entry →
      x.zh = true → ∃ t v, exec .zeroPageClear s = .next t ∧ s.gtc < v ∧
        t.walks[s.subject.unit]? = some { w with from_ := some v, entry := some (entry, s.homeDword s.gtc entry) } ∧
        ∀ k, k < 65536 → x.pa % 64 = 0 → t.homeByte v (x.pa + k) = 0) ∧
    (∀ v entry old, w.clear = true → w.from_ = some v → v ≤ s.gtc → w.entry = some (entry, old) →
      ∃ t u, exec .zeroPageClear s = .next t ∧ t.walks[s.subject.unit]? = some { w with from_ := some u, entry := none } ∧
        (∀ now a, a ≠ entry → t.homeByte now a = s.homeByte now a) ∧
        (s.homeDword (max s.gtc (s.home (entry / 64)).lastW) entry = old → s.gtc < u ∧
          t.homeByte u entry = s.homeByte (max s.gtc (s.home (entry / 64)).lastW) entry &&& 0xDF) ∧
        (s.homeDword (max s.gtc (s.home (entry / 64)).lastW) entry ≠ old → t.homeByte u entry = s.homeByte u entry)) ∧
    (∀ v, w.clear = true → w.from_ = some v → v ≤ s.gtc → w.entry = none → ∃ t, exec .zeroPageClear s = .next t ∧
      t.walks = s.walks.eraseIdx s.subject.unit ∧ (∀ now a, t.homeByte now a = s.homeByte now a) ∧
      (∀ n x, x ∈ (t.tile n).tlb ∨ x ∈ (t.cluster n).tlb → x.ctx = w.ctx → x.va / 2 ^ x.size ≠ w.va / 2 ^ x.size) ∧
      ∀ c g, c ∈ w.waiters → s.gang? c.tile c.slot = some g → ∃ h, t.gang? c.tile c.slot = some h ∧
        ∀ x, x ∈ h.walked → x.slice = c.slice → x.va / 65536 ≠ w.va / 65536)

/-- R233, R234, R390, R301, R302, R303, R304, R306, R308, R310, Tables 17.1 and 17.2: a copy in L1 goes once its lease has expired; a
missing instruction line is read at home under the lease that the home gives and records; a walk reads the context's table level by level
and ends with the leaf of the address, with page not present, with access violation at a malformed entry, or with a machine check at a line
that cannot be read; its outcome reaches every group that waits on it; the clearing of a page's zero hint first writes the frame's lines as
zeros, once they are in force clears the hint in the entry, if that still stands, and once this is in force takes the page's translations
out of every TLB, so that the accesses that wait walk again. -/
def Obligations.CopiesLinesAndWalks : Prop := Sys2Proof.Claims.CopiesAndInstructionLines ∧ Sys2Proof.Claims.WalksAndClearing

/-- R29, R188, R190, R191, R342, Table 9.5: the ends of waits: a fence when its scope's wait is over, with the acquire action where it has
one; a `wata` of a tile that is awake when its watch has fired or its budget is spent; a hand-on wait when an entry has come or the chain is cut. -/
def Sys2Proof.Claims.WaitsEnd : Prop :=
  ∀ s g, s.gang? s.subject.unit s.subject.slot = some g →
    let j := s.subject.part
    let js := g.group j
    (∀ scope acq, (g.slice j).wait = .fence scope acq → g.pos ≠ none → s.runs g = true → waitOver s g scope (g.slice j).mark →
      ∃ t h, exec .fenceWaitComplete s = .next t ∧
      Nudged s t g h ∧
      (∀ k, h.slice k = if k ∈ js then { g.slice k with wait := .run, phase := (g.slice k).phase + 1 } else g.slice k) ∧
      (acq = true → ∀ x, x ∈ (t.tile s.subject.unit).l1 ∨ x ∈ (t.cluster (s.subject.unit / 4)).icache → s.gtc ≤ x.grant) ∧
      (acq = false → t.tiles = s.tiles ∧ t.clusters = s.clusters)) ∧
    ((g.slice j).wait = .wata → (s.tile s.subject.unit).dorm ≠ .dormant → (s.tile s.subject.unit).dorm ≠ .waking →
      (∃ w t, w ∈ s.watches ∧ w.launch = none ∧ w.tile = s.subject.unit ∧ w.slot = s.subject.slot ∧ w.slice = j ∧
        w.fired = some t ∧ t ≤ s.gtc) →
      ∃ t h, exec .wataUnpark s = .next t ∧ Nudged s t g h ∧
        (∀ k, h.slice k = if k ∈ js then (g.slice k).advance else g.slice k) ∧
        ∀ w, w ∈ t.watches → w.launch = none → w.tile = s.subject.unit → w.slot = s.subject.slot → w.slice ≠ j) ∧
    (∀ e, (g.slice j).wait = .wata → (s.tile s.subject.unit).dorm ≠ .dormant → (s.tile s.subject.unit).dorm ≠ .waking →
      (g.slice j).budget.find? (fun b => b.1 == (g.slice j).pc) = some ((g.slice j).pc, e) → e ≤ s.gtc →
      ∃ t h, exec .wataBudgetExpiry s = .next t ∧ Nudged s t g h ∧
        (∀ k, h.slice k = if k ∈ js then (g.slice k).advance else g.slice k) ∧
        ∀ w, w ∈ t.watches → w.launch = none → w.tile = s.subject.unit → w.slot = s.subject.slot → w.slice ≠ j) ∧
    ((g.slice j).wait = .handon → mayTake s g →
      ∃ t h, exec .handonWaitResume s = .next t ∧ Nudged s t g h ∧ t.tiles = s.tiles ∧
        ∀ k, h.slice k = if k ∈ js then { g.slice k with wait := .run } else g.slice k)

/-- R11, R13, R14, R319, R342: a word that arrives at a tile window is written where the generation and the register exist, after a result
still to come whose window has ended, or into the scratchpad where the generation and the allocation exist; it is held where the tile
cannot take it, and else counts in DROP, and is a wake message to a tile that is not active; the oldest store to the host whose
time has come is acknowledged. -/
def Sys2Proof.Claims.WindowsAndHost : Prop :=
  (∀ s (addr : Dword) (data : Word), let p := addr.toNat % 2 ^ 48
    let tile := (p - 0xF00000000000) / 0x100000
    let part := windowPart (p % 0x100000)
    isTileWindow p = true → p % 4 = 0 → s.cur = none →
    (∃ t, exec (.windowWriteArrival addr data) s = .next t ∧ ((s.tile tile).dorm ≠ .active → (t.tile tile).latch = true)) ∧
    (s.holds tile = false →
      (s.windowOk tile (addr.extractLsb' 48 16) part = false → ∃ t, exec (.windowWriteArrival addr data) s = .next t ∧
        t.gangs = s.gangs ∧ (t.tile tile).drop = (if (s.tile tile).drop = 0xFFFFFFFF then 0xFFFFFFFF else (s.tile tile).drop + 1)) ∧
      (∀ slot reg lane g, s.windowOk tile (addr.extractLsb' 48 16) part = true → part = .vector slot reg lane →
        s.gang? tile slot = some g → ∃ t h, exec (.windowWriteArrival addr data) s = .next t ∧ t.gang? tile slot = some h ∧
          (¬inFlight g [] (.vreg (reg * 32 + lane)) →
            ∀ n l, l < 32 → h.vreg n l = if n = reg ∧ l = lane then data else g.vreg n l) ∧
          (inFlight g [] (.vreg (reg * 32 + lane)) → (∀ n l, h.vreg n l = g.vreg n l) ∧
            ∃ q, q ∈ h.pend ∧ q.after.getLast? = some (.vreg (reg * 32 + lane), data)) ∧ (∀ n, h.sreg n = g.sreg n) ∧
          (t.tile tile).drop = (s.tile tile).drop) ∧
      (∀ slot reg g, s.windowOk tile (addr.extractLsb' 48 16) part = true → part = .scalar slot reg →
        s.gang? tile slot = some g → ∃ t h, exec (.windowWriteArrival addr data) s = .next t ∧ t.gang? tile slot = some h ∧
          (¬inFlight g [] (.sreg reg) → ∀ n, h.sreg n = if n = reg then data else g.sreg n) ∧
          (inFlight g [] (.sreg reg) → (∀ n, h.sreg n = g.sreg n) ∧ ∃ q, q ∈ h.pend ∧ q.after.getLast? = some (.sreg reg, data)) ∧
          (∀ n l, h.vreg n l = g.vreg n l) ∧
          (t.tile tile).drop = (s.tile tile).drop) ∧
      (∀ off, s.windowOk tile (addr.extractLsb' 48 16) part = true → part = .scratch off →
        ∃ t, exec (.windowWriteArrival addr data) s = .next t ∧ t.gangs = s.gangs ∧ (t.tile tile).drop = (s.tile tile).drop ∧
          (∀ k, k < 4 → (t.tile tile).scratchByte (off + k) = data.extractLsb' (8 * k) 8) ∧
          (∀ b, b < off ∨ off + 4 ≤ b → (t.tile tile).scratchByte b = (s.tile tile).scratchByte b) ∧
          ∀ n, n ≠ tile → t.tile n = s.tile n)) ∧
    (s.holds tile = true → ∃ t, exec (.windowWriteArrival addr data) s = .next t ∧ t.gangs = s.gangs ∧
      (t.tile tile).held = (s.tile tile).held ++ [.write ⟨addr, bytesOfNat 4 data.toNat, none⟩])) ∧
  (∀ s pre h post w, s.hostStores = pre ++ h :: post → h.tile = s.subject.unit → h.slot = s.subject.slot →
    (∀ x, x ∈ pre → ¬(x.tile = s.subject.unit ∧ x.slot = s.subject.slot)) → h.w = some w → w ≤ s.gtc →
    exec .hostStoreAcknowledge s = .next { s with hostStores := pre ++ post })

/-- R29, R188, R190, R191, R342, Table 9.5, R11, R13, R14, R319: the ends of waits: a fence when its scope's wait is over, with the acquire
action where it has one; a `wata` of a tile that is awake when its watch has fired or its budget is spent; a hand-on wait when an entry has
come or the chain is cut; a word that arrives at a tile window is written where the generation and the register exist, after a result still
to come whose window has ended, or into the scratchpad where the generation and the allocation exist; it is held where the tile cannot take
it, and else counts in DROP, and is a wake message to a tile that is not active; the oldest store to the host whose time has come is
acknowledged. -/
def Obligations.WaitsWindowsAndHost : Prop := Sys2Proof.Claims.WaitsEnd ∧ Sys2Proof.Claims.WindowsAndHost

/-! ## Control (spec/02_execution.md, spec/06_isa_control.md) -/

namespace Sys2Proof.Claims

/-- A slice sent elsewhere: it runs, outside any repeat. -/
def sent (x : Slice) (pc : Dword) : Slice :=
  { x with pc := pc, wait := .run, phase := 0, cut := false, repc := if x.inRep then 0 else x.repc, inRep := false }

/-- What a control instruction leaves: its group's slices sent where `pc` says and then as `f` gives them, and nothing else changed. -/
def Sends (s : State) (c : Cur) (g : Gang) (i : Instr) (pc : Slice → Dword) (f : Slice → Slice → Slice := fun _ y => y) : Prop :=
  ∃ t h, exec i s = .next t ∧ OnlyGang s t c h ∧
    (∀ j, h.slice j = if j ∈ g.group c.slice then f (g.slice j) (sent (g.slice j) (pc (g.slice j))) else g.slice j) ∧
    Left g h g.sreg g.vreg g.pred g.remOf g.fpst g.pend

/-- R89: the address `n` bytes from another, in 52 bits. -/
def away (x : Dword) (n : Int) : Dword := BitVec.ofInt 64 ((x.toNat + n) % 2 ^ 52)

/-- R39: the guard predicate has one value in all four lanes of a slice. -/
def guardAll (g : Gang) (j : Nat) (v : Bool) : Bool := (List.range 4).all fun k => g.pred ((g.slice j).mode.toNat % 8) (4 * j + k) == v

/-- R40: a branch by slices: each slice of the group goes its way, and where they disagree each is a group of its own. -/
def Branches (s : State) (c : Cur) (g : Gang) (i : Instr) (o : BitVec 20) (v : Bool) : Prop :=
  let js := g.group c.slice
  let taken (j : Nat) : Bool := guardAll g j v
  let parts : Bool := js.any taken && js.any fun j => !taken j
  ∃ t h, exec i s = .next t ∧ OnlyGang s t c h ∧
    (∀ j, h.slice j = if j ∈ js then
        (let x : Slice := if taken j then sent (g.slice j) (away (g.slice j).pc (4 * o.toInt)) else (g.slice j).advance
        { x with grp := if parts then j else (g.slice j).grp })
      else g.slice j) ∧
    Left g h g.sreg g.vreg g.pred g.remOf g.fpst g.pend

/-- R42: the slices and the register that a slice waiting in `regang` names. -/
def namedBy (g : Gang) (js : List Nat) (mask d j : Nat) : Nat × Nat :=
  if j ∈ js then (mask, d) else (((g.slice j).phase - 1) % 256, ((g.slice j).phase - 1) / 256)

/-- The gang in a slot has ended (R31, R45): nothing of it lives, its FIFO is gone, nothing is awaited but what is still to be logged
(R338). -/
def Ended (t : State) (tile slot : Nat) : Prop :=
  ∃ h, t.gang? tile slot = some h ∧ h.ended = true ∧ h.liveSlices = [] ∧ h.fifo = [] ∧ h.pos = none ∧
    ∀ p, p ∈ h.pend → p.returned = false ∧ ((t.ctx h.ctx).loglim = 0 → ∃ l, p.load = some l ∧ l.addrs ≠ [])

end Sys2Proof.Claims

/-- R51, R111, R112, Table 5.4: `nop`, conditional branches by the group's flags, calls and returns with LINK and CDEPTH, and jumps; a
call at the greatest depth and a return at depth 0 are illegal, a jump to a misaligned address or past the range traps. -/
def Sys2Proof.Claims.ControlFlow : Prop :=
  ∀ s c g,
    (Starts s c g .nop → Passes s c g .nop) ∧
    (∀ k o, k.toNat ≤ 14 → Starts s c g (.bCond k o) →
      (condition k.toNat (g.slice c.slice).fl → Sends s c g (.bCond k o) fun x => away x.pc (4 * o.toInt)) ∧
      (¬condition k.toNat (g.slice c.slice).fl → Passes s c g (.bCond k o))) ∧
    (∀ o, Starts s c g (.call o) →
      ((g.slice c.slice).cdepth = 0xFFFF → TrapsWhole s c g (.call o) 0x01 ((encode (.call o)).setWidth 64)) ∧
      ((g.slice c.slice).cdepth ≠ 0xFFFF → Sends s c g (.call o) (fun x => away x.pc (4 * o.toInt)) fun x y =>
        { y with link := away x.pc 4, cdepth := x.cdepth + 1 })) ∧
    (Starts s c g .ret →
      ((g.slice c.slice).cdepth = 0 → TrapsWhole s c g .ret 0x01 ((encode .ret).setWidth 64)) ∧
      ((g.slice c.slice).cdepth ≠ 0 →
        Sends s c g .ret (fun _ => (g.slice c.slice).link) fun x y => { y with cdepth := x.cdepth - 1 })) ∧
    (∀ a, Starts s c g (.jmp a) →
      let want : Dword := g.sreg (a.toNat + 1) ++ g.sreg a.toNat
      (want.toNat % 4 ≠ 0 → TrapsWhole s c g (.jmp a) 0x03 want) ∧
      (want.toNat % 4 = 0 → 2 ^ 52 ≤ want.toNat → TrapsWhole s c g (.jmp a) 0x05 want) ∧
      (want.toNat % 4 = 0 → want.toNat < 2 ^ 52 → Sends s c g (.jmp a) fun _ => want))

namespace Sys2Proof.Claims

/-- Table 5.1: the lowest bits and widths of the fields of a body that D, A and B of F step; in the E format A steps P. -/
def fieldPlaces (op : Nat) : (Nat × Nat) × (Nat × Nat) × (Nat × Nat) :=
  if 0xE0 ≤ op ∧ op ≤ 0xEC then ((2, 6), (8, 9), (0, 0))
  else if op = 0x3E ∨ op = 0x3F then ((18, 6), (0, 0), (0, 0))
  else if (0x20 ≤ op ∧ op ≤ 0x3D) ∨ (0xB8 ≤ op ∧ op ≤ 0xBB) ∨ 0xED ≤ op then ((15, 9), (6, 9), (0, 6))
  else ((14, 6), (8, 6), (2, 6))

/-- R104, Table 5.3: whether the D field of a body names a register or the predicate that it writes; its A field, or P, a register or the
predicate that it reads; its B field a register. -/
def namesD (op : Nat) : Prop := op ≠ 0x35 ∧ ¬(0xB8 ≤ op ∧ op ≤ 0xBA) ∧ ¬(op = 0xD2 ∨ 0xD4 ≤ op ∧ op ≤ 0xD6) ∧ op < 0xED
def namesA (op : Nat) (body : Word) : Prop :=
  ¬(0x39 ≤ op ∧ op ≤ 0x3F) ∧ ¬(op = 0x53 ∧ body.toNat / 2 ^ 20 % 16 = 5) ∧ op ≠ 0x56 ∧ op ≠ 0xBB ∧ op ≠ 0xD1 ∧ op ≠ 0xD2 ∧ op ≠ 0xD4 ∧
    op < 0xEE
def namesB (op : Nat) : Prop :=
  op ≤ 0x37 ∨ (0x40 ≤ op ∧ op ≤ 0x52) ∨ (0x54 ≤ op ∧ op ≤ 0x56) ∨ (0x60 ≤ op ∧ op ≤ 0x62) ∨ op = 0x65 ∨ (0x80 ≤ op ∧ op ≤ 0x87) ∨ op = 0x89 ∨
    op = 0x8D ∨ op = 0x94 ∨ (0xB0 ≤ op ∧ op ≤ 0xB6 ∧ op ≠ 0xB3) ∨ (0xC0 ≤ op ∧ op ≤ 0xCF) ∨ op = 0xD1 ∨ (0xD3 ≤ op ∧ op ≤ 0xD6)

/-- R103: the body of repetition `k`: each field that F names raised by `k` strides, none beyond its width. -/
def Stepped (pre body : Word) (k : Nat) (w : Word) : Prop :=
  let by_ := k * 2 ^ (pre.toNat / 2 ^ 13 % 4)
  let at_ := fieldPlaces (body.toNat / 2 ^ 24)
  let add (on : Bool) (f : Nat × Nat) : Nat := if on then by_ * 2 ^ f.1 else 0
  let fits (on : Bool) (f : Nat × Nat) : Prop := on = true → body.toNat / 2 ^ f.1 % 2 ^ f.2 + by_ < 2 ^ f.2
  fits (pre.getLsbD 17) at_.1 ∧ fits (pre.getLsbD 16) at_.2.1 ∧ fits (pre.getLsbD 15) at_.2.2 ∧
    w.toNat = body.toNat + add (pre.getLsbD 17) at_.1 + add (pre.getLsbD 16) at_.2.1 + add (pre.getLsbD 15) at_.2.2

/-- R104: a prefix and a body make a pair: the body may be repeated, F names fields that name registers, and every repetition is an
instruction whose registers exist. -/
def Pair (g : Gang) (pre body : Word) : Prop :=
  let op := body.toNat / 2 ^ 24
  0x20 ≤ op ∧ (0xE0 ≤ op → op ≤ 0xEC → body.toNat / 2 ^ 17 % 8 = 0) ∧
  (pre.getLsbD 17 = true → namesD op) ∧ (pre.getLsbD 16 = true → namesA op body) ∧ (pre.getLsbD 15 = true → namesB op) ∧
  ∀ k, k < pre.toNat / 2 ^ 18 % 64 + 1 → ∃ w i, Stepped pre body k w ∧ decode w = .ok i ∧
    (∀ n, n ∈ (Instr.regs i).rv ++ (Instr.regs i).wv → n < g.nv) ∧ ∀ n, n ∈ (Instr.regs i).rs ++ (Instr.regs i).ws → n < g.ns

end Sys2Proof.Claims

/-- R103, R104: a repeat prefix whose body's word is at hand: a pair that R103 and R104 do not allow is illegal, else the group stands at
the body with its repetitions due; where the body's line is missing the group waits for it. -/
def Sys2Proof.Claims.RepeatPrefix : Prop :=
  ∀ s c g n f p, Starts s c g (.rep n f p) →
    let at_ : Dword := away (g.slice c.slice).pc 4
    (∀ w, s.fetch g.tile g c.slice at_ = .word w →
      (¬Pair g (encode (.rep n f p)) w → TrapsWhole s c g (.rep n f p) 0x01 ((encode (.rep n f p)).setWidth 64)) ∧
      (Pair g (encode (.rep n f p)) w → ∃ t h, exec (.rep n f p) s = .next t ∧ OnlyGang s t c h ∧
        (∀ j, h.slice j = if j ∈ g.group c.slice then
            { g.slice j with pc := away (g.slice j).pc 4, repc := n.toNat + 1, inRep := true, wait := .run, phase := 0 }
          else g.slice j) ∧
        Left g h g.sreg g.vreg g.pred g.remOf g.fpst g.pend)) ∧
    (s.fetch g.tile g c.slice at_ = .missing → ∃ t h, exec (.rep n f p) s = .next t ∧ OnlyGang s t c h ∧
      (∀ j, h.slice j = if j ∈ g.group c.slice then { g.slice j with wait := .fetch, phase := 1 } else g.slice j) ∧
      Left g h g.sreg g.vreg g.pred g.remOf g.fpst g.pend) ∧
    (∀ cause, s.fetch g.tile g c.slice at_ = .fault cause → TrapsWhole s c g (.rep n f p) cause at_)

/-- R51, R111, R112, Table 5.4, R103, R104: `nop`, conditional branches by the group's flags, calls and returns with LINK and CDEPTH, and
jumps; a call at the greatest depth and a return at depth 0 are illegal, a jump to a misaligned address or past the range traps; a repeat
prefix whose body's word is at hand: a pair that R103 and R104 do not allow is illegal, else the group stands at the body with its
repetitions due; where the body's line is missing the group waits for it. The model's readings: `ret` takes LINK and CDEPTH of the lowest
live slice (log entry 20), a repeat pair that is not allowed traps at the prefix with the prefix's word (log entry 24). -/
def Obligations.ControlFlowAndRepeats : Prop := Sys2Proof.Claims.ControlFlow ∧ Sys2Proof.Claims.RepeatPrefix

/-- R39, R40, R42, R43, R44: the branches by slices, and the rendezvous: the group waits until every slice that a waiting one names has
come or lives no more; then those of the lowest one's call depth and MODE are one group with its flags, and the register of the lowest
holds their mask. In a unified gang it completes at once with the mask of the live slices. -/
def Obligations.Divergence : Prop :=
  (∀ s c g o, (Starts s c g (.bMz o) → Branches s c g (.bMz o) o false) ∧ (Starts s c g (.bMa o) → Branches s c g (.bMa o) o true)) ∧
  (∀ s c g (d a : BitVec 9), Starts s c g (.regang d a) → Leads g c →
    let js := g.group c.slice
    let x := (g.slice c.slice).pc
    let mask := (g.sreg a.toNat).toNat % 256 ||| sliceMask js
    let name := namedBy g js mask d.toNat
    let ws := g.liveSlices.filter fun j => j ∈ js ∨ ((g.slice j).wait = .regang ∧ (g.slice j).pc = x)
    let come : Prop := ∀ j k, j ∈ ws → k < 8 → (name j).1.testBit k = true → k ∈ ws ∨ (g.slice k).live = false
    (g.parted = false → ∃ t h w, exec (.regang d a) s = .next t ∧ OnlyGang s t c h ∧ Past g h c ∧
      (∀ k, k < 32 → w.getLsbD k = decide (k ∈ g.liveSlices)) ∧
      Left g h (g.sregWith d.toNat w) g.vreg g.pred g.remOf g.fpst g.pend) ∧
    (g.parted = true → (∀ j, j ∈ js → (g.slice j).pc = x) →
    (¬come → ∃ t h, exec (.regang d a) s = .next t ∧ OnlyGang s t c h ∧
      (∀ j, h.slice j = if j ∈ js then { g.slice j with wait := .regang, phase := 1 + mask + 256 * d.toNat } else g.slice j) ∧
      Left g h g.sreg g.vreg g.pred g.remOf g.fpst g.pend) ∧
    (come → ∀ m, ws.head? = some m →
      let merged := ws.filter fun j => (g.slice j).cdepth = (g.slice m).cdepth ∧ (g.slice j).mode = (g.slice m).mode
      ∃ t h w, exec (.regang d a) s = .next t ∧ OnlyGang s t c h ∧ (∀ k, k < 32 → w.getLsbD k = decide (k ∈ merged)) ∧
        (∀ j, h.slice j = if j ∈ ws then
            { (g.slice j).advance with
              grp := if j ∈ merged then m else j, fl := if j ∈ merged then (g.slice m).fl else (g.slice j).fl }
          else g.slice j) ∧
        Left g h (g.sregWith (name m).2 w) g.vreg g.pred g.remOf g.fpst g.pend)))

namespace Sys2Proof.Claims

/-- R42: the live slices outside `js` that wait in `regang` at an address, and whether all that they name have come or live no more. -/
def regangWaiters (g : Gang) (js : List Nat) (x : Dword) : List Nat :=
  g.liveSlices.filter fun j => j ∉ js ∧ (g.slice j).wait = .regang ∧ (g.slice j).pc = x
def allCome (g : Gang) (js : List Nat) (x : Dword) : Prop :=
  regangWaiters g js x ≠ [] ∧ ∀ j k, j ∈ regangWaiters g js x → k < 8 → (((g.slice j).phase - 1) % 256).testBit k = true →
    k ∈ regangWaiters g js x ∨ (g.slice k).live = false ∨ k ∈ js

/-- R43: the lowest slice of a rendezvous, the register that it names, and the slices that come together with it. -/
def lowest (g : Gang) (js : List Nat) (x : Dword) : Nat := (regangWaiters g js x).headD 0
def meetDest (g : Gang) (js : List Nat) (x : Dword) : Nat := ((g.slice (lowest g js x)).phase - 1) / 256
def joining (g : Gang) (js : List Nat) (x : Dword) : List Nat :=
  (regangWaiters g js x).filter fun j =>
    (g.slice j).cdepth = (g.slice (lowest g js x)).cdepth ∧ (g.slice j).mode = (g.slice (lowest g js x)).mode

end Sys2Proof.Claims

/-- R31, R42, R43, R45, R113, R289: `exit`: the group's slices live no more, and each rendezvous whose waiting slices name none that is
still to come is completed as R43 says; with the last of them the gang has ended, and its launch counts its
exit and takes up its HORIZON, and a successor that waits for a hand-on with an empty FIFO is released. -/
def Obligations.ExitEnds : Prop :=
  ∀ s c g, Starts s c g .exit → g.ended = false →
    let js := g.group c.slice
    ((∃ j, j ∈ g.liveSlices ∧ j ∉ js) → ∃ t h, exec .exit s = .next t ∧ OnlyGang s t c h ∧
      (∀ j, j ∈ js → h.slice j = { g.slice j with live := false, wait := .run, phase := 0 }) ∧
      (∀ j, j ∉ js → ¬(j ∈ regangWaiters g js (g.slice j).pc ∧ allCome g js (g.slice j).pc) → h.slice j = g.slice j) ∧
      (∀ j, j ∉ js → j ∈ regangWaiters g js (g.slice j).pc → allCome g js (g.slice j).pc →
        let x := (g.slice j).pc
        let m := g.slice (lowest g js x)
        h.slice j = { (g.slice j).advance with
          grp := if j ∈ joining g js x then lowest g js x else j, fl := if j ∈ joining g js x then m.fl else (g.slice j).fl }) ∧
      (∀ x, allCome g js x → (∀ y, allCome g js y → meetDest g js y = meetDest g js x → y = x) →
        ∀ k, k < 32 → (h.sreg (meetDest g js x)).getLsbD k = decide (k ∈ joining g js x)) ∧
      (∀ n, (∀ x, allCome g js x → meetDest g js x ≠ n) → h.sreg n = g.sreg n) ∧
      Left g h h.sreg g.vreg g.pred g.remOf g.fpst g.pend) ∧
    (∀ l x, (∀ j, j ∈ g.liveSlices → j ∈ js) → g.launch = some l → s.launch? l = some x →
      ∃ t y, exec .exit s = .next t ∧ Ended t c.tile c.slot ∧ t.launch? l = some y ∧ g.number ∈ y.exited ∧
        y.horizon = max x.horizon g.horizon ∧ y.dom = (x.dom || g.domStored) ∧ (∀ m, m ∈ y.members → m.gang ≠ g.number) ∧
        (∀ now a, t.homeByte now a = s.homeByte now a) ∧
        ∀ k, s.successor g = some k → k.fifo = [] → s.gang? k.tile k.slot = some k → gkey k.tile k.slot ≠ gkey c.tile c.slot →
          ∃ h, t.gang? k.tile k.slot = some h ∧ h.fifo = [] ∧ ∀ j, h.slice j =
            if (k.slice j).live = true ∧ (k.slice j).wait = .handon then { k.slice j with cut := true } else k.slice j)

namespace Sys2Proof.Claims

/-- R120: where a slice goes on, how often its body is still due, and whether it stands inside a repeat. -/
def retPc (g : Gang) (skip : Bool) (j : Nat) : Dword :=
  let nib (j : Nat) := g.slgrp.toNat / 2 ^ (4 * j) % 16
  let r := g.trap.tcause.toNat / 256 % 8
  let pc := g.trap.slicepc.getD j 0
  if skip ∧ (g.slice r).live = true ∧ nib j = nib r ∧ (g.slice j).repc ≤ 1 then away pc 4 else pc

/-- R120: a live slice after `tret` or `tret.skip`. The trapping group has MODE and the flags of the trap registers; slices of one nibble
and one PC are one group, with MODE and flags of its lowest. -/
def returnedSlice (g : Gang) (skip : Bool) (j : Nat) : Slice :=
  let nib (j : Nat) := g.slgrp.toNat / 2 ^ (4 * j) % 16
  let r := g.trap.tcause.toNat / 256 % 8
  let hit : Prop := (g.slice r).live = true ∧ nib j = nib r
  let lead := ((g.liveSlices.find? fun i => nib i = nib j ∧ retPc g skip i = retPc g skip j)).getD j
  let w := g.trap.tscc
  let x := g.slice j
  { x with
    pc := retPc g skip j, wait := .run, phase := 0, grp := lead
    budget := let kept := g.trap.budgets.getD j []
      if hit ∧ skip then kept.filter fun b => b.1 != g.trap.slicepc.getD j 0 else kept
    mode := if hit then g.trap.tmode else g.trap.modes.getD lead 0
    fl := if hit then ⟨w.getLsbD 0, w.getLsbD 1, w.getLsbD 2, w.getLsbD 3⟩ else g.trap.flags.getD lead {}
    repc := if hit ∧ skip then x.repc - 1 else x.repc
    inRep := if hit ∧ skip then decide (1 < x.repc) else decide (x.repc ≠ 0) }

end Sys2Proof.Claims

/-- R61, R62, R96, R119: `ecall`, `trap`, `brk` and a word that is no instruction: the trap, with the immediate or the word in TVAL; in a
handler the end of the grove. -/
def Sys2Proof.Claims.SoftwareTraps : Prop :=
  ∀ s c g i cause tval, Starts s c g i → g.ended = false →
    (∃ imm : BitVec 15, (i = .ecall imm ∧ cause = 0x0D ∧ tval = imm.setWidth 64) ∨
      (i = .trap imm ∧ cause = 0x0E ∧ tval = imm.setWidth 64) ∨ (i = .brk imm ∧ cause = 0x0C ∧ tval = imm.setWidth 64)) ∨
    (∃ w : Word, i = .illegalInstruction w ∧ cause = 0x01 ∧ tval = w.setWidth 64) →
    TrapsWhole s c g i cause tval ∧ KillsWith s c g i cause tval

/-- R97, R120, R121, R391: outside a handler the returns and kills are privileged; in one `tret` sends each slice back where it stood (the
trapping group past its instruction under `tret.skip`), `tkill gang` ends the gang and `tkill grove` every gang of the grove. -/
def Sys2Proof.Claims.TrapReturns : Prop :=
  ∀ s c g i, i ∈ [Instr.tret, .tretSkip, .tkillGang, .tkillGrove] → Starts s c g i →
    (g.sup = false → TrapsWhole s c g i 0x02 ((encode i).setWidth 64)) ∧
    (g.sup = true → i = .tret ∨ i = .tretSkip → ∃ t h, exec i s = .next t ∧ OnlyGang s t c h ∧
      (∀ j, h.slice j = if j ∈ g.liveSlices then returnedSlice g (i == .tretSkip) j else g.slice j) ∧
      Left { g with sup := false } h g.sreg g.vreg g.pred g.remOf g.fpst g.pend) ∧
    (g.sup = true → g.ended = false → Placed g c → ∀ l x, g.launch = some l → s.launch? l = some x →
      (i = .tkillGang → ∃ t y, exec i s = .next t ∧ Ended t c.tile c.slot ∧ t.launch? l = some y ∧ g.number ∈ y.exited ∧
        y.killed = x.killed ∧ y.faulted = x.faulted) ∧
      (i = .tkillGrove → ∃ t y, exec i s = .next t ∧ t.launch? l = some y ∧ y.killed = true ∧ y.faulted = x.faulted ∧
        ∀ k, k ∈ s.groveGangs g → s.gang? k.tile k.slot = some k → k.gidx < 16 →
          (∀ a, a ∈ s.groveGangs g → a.gidx = k.gidx → a = k) → ∃ h, t.gang? k.tile k.slot = some h ∧ h.ended = true))

/-- R61, R62, R96, R119, R97, R120, R121, R391: `ecall`, `trap`, `brk` and a word that is no instruction: the trap, with the immediate or
the word in TVAL; in a handler the end of the grove; outside a handler the returns and kills are privileged; in one `tret` sends each slice
back where it stood (the trapping group past its instruction under `tret.skip`), `tkill gang` ends the gang and `tkill grove` every gang of
the grove. That `tret.skip` goes on by REPC alone is the model's choice (log entry 59). -/
def Obligations.TrapsAndReturns : Prop := Sys2Proof.Claims.SoftwareTraps ∧ Sys2Proof.Claims.TrapReturns

/-! ## Mode, gear, waits, special registers (spec/03_state.md, spec/06_isa_control.md) -/

namespace Sys2Proof.Claims

/-- R52: the values MODE accepts. -/
def modeAccepted (m : Word) : Prop :=
  let n := m.toNat
  n / 2 ^ 30 = 0 ∧ n / 2 ^ 16 % 256 = 0 ∧ n / 2 ^ 9 % 8 ≤ 4 ∧ (n / 8 % 64 ≤ 10 ∨ (32 ≤ n / 8 % 64 ∧ n / 8 % 64 ≤ 60))

/-- R52, R114: a write of MODE: the group has the new word, or the rejected word is in TVAL and MODE as before. -/
def SetsMode (s : State) (c : Cur) (g : Gang) (i : Instr) (m : Word) : Prop :=
  (modeAccepted m → ∃ t h, exec i s = .next t ∧ OnlyGang s t c h ∧
    (∀ j, h.slice j = if j ∈ g.group c.slice then { (g.slice j).advance with mode := m } else g.slice j) ∧
    Left g h g.sreg g.vreg g.pred g.remOf g.fpst g.pend) ∧
  (¬modeAccepted m → TrapsWhole s c g i 0x01 (m.setWidth 64))

/-- The bits of a word below `lo` and from `lo + len` on, with a field put between. -/
def replaced (w : Word) (lo len v : Nat) : Word :=
  BitVec.ofNat 32 (w.toNat % 2 ^ lo + v * 2 ^ lo + w.toNat / 2 ^ (lo + len) * 2 ^ (lo + len))

/-- What a gear request leaves: its group past it, the tile as `x`, everything else as before. -/
def TileLeft (s : State) (c : Cur) (g : Gang) (i : Instr) (x : Tile) : Prop :=
  ∃ t h, exec i s = .next t ∧ t.gang? c.tile c.slot = some h ∧ Past g h c ∧ Left g h g.sreg g.vreg g.pred g.remOf g.fpst g.pend ∧
    t.tile c.tile = x ∧ (∀ n, n ≠ c.tile → t.tile n = s.tile n) ∧
    (∀ tile slot, gkey tile slot ≠ gkey c.tile c.slot → t.gang? tile slot = s.gang? tile slot) ∧
    { t with gangs := s.gangs, tiles := s.tiles } = s

/-- R297: a gang waits on a SINK banner whose phase has not completed. -/
def sinking (s : State) (g : Gang) (b : Nat) : Prop :=
  ∃ l x y, g.launch = some l ∧ s.launch? l = some x ∧ Sparse.find? x.banner b = some y ∧ y.sink = true

/-- R339: TVAL of a log-full trap: the address at which the log's next entry goes, in bit 63 whether a page of it could not be written. -/
def logFullAt (s : State) (g : Gang) : Dword :=
  BitVec.ofNat 64 (((s.ctx g.ctx).logBase + (s.ctx g.ctx).logPut) % 2 ^ 52 + if (s.tile g.tile).logFault then 2 ^ 63 else 0)

/-- R124: a command at the head of its queue, once pennants stand so. -/
def headDecided (pn : List (Option Bool)) (ended : Bool) (x : Cmd) : Cmd :=
  match x.decided with
  | some _ => x
  | none =>
    if x.pennant = 0 then { x with decided := some true }
    else match pn.getD x.pennant none with
      | some v => { x with decided := some v }
      | none => if ended then { x with decided := some false } else x

end Sys2Proof.Claims

/-- R52, R114: `setmode` and `mset` write MODE of the group, or trap with the rejected word. -/
def Sys2Proof.Claims.ModeWrites : Prop :=
  ∀ s c g,
    (∀ a, Starts s c g (.setmode a) → SetsMode s c g (.setmode a) (g.sreg a.toNat)) ∧
    (∀ v, Starts s c g (.msetGp v) → SetsMode s c g (.msetGp v) (replaced (modeOf g c) 0 3 v.toNat)) ∧
    (∀ v, Starts s c g (.msetEt v) → SetsMode s c g (.msetEt v) (replaced (modeOf g c) 3 6 v.toNat)) ∧
    (∀ v, Starts s c g (.msetRm v) → SetsMode s c g (.msetRm v) (replaced (modeOf g c) 9 3 v.toNat))

/-- R91, Table 6.1, Table 5.4, R52, R114: moves, constants and `sel` set no flag; `sel` writes its destination where the condition holds of
the group's flags; `setmode` and `mset` write MODE of the group, or trap with the rejected word. -/
def Obligations.ScalarMovesAndMode : Prop := Sys2Proof.Claims.ScalarMoves ∧ Sys2Proof.Claims.ModeWrites

/-- R115, R297, R298: `gear` waits out a switch, completes where the gear stands, records a request under a cap, and else begins the switch;
a switch whose lanes have drained ends with the new gear; a tile all of whose gangs wait on SINK banners or are parked sinks, and in a
running context a banner whose late members all stand at gear 0 lifts its members' tiles. -/
def Obligations.GearChanges : Prop :=
  (∀ s c g i (want : Bool), (i = .gear0 ∧ want = false) ∨ (i = .gear1 ∧ want = true) → Starts s c g i →
    let x := s.tile c.tile
    let capped : Bool := (s.ctx g.ctx).cap || decide ((s.ctx g.ctx).slack.k = 16)
    (x.switching ≠ none → Waits s c g i .issue) ∧
    (x.switching = none → x.gear = want →
      TileLeft s c g i { x with sunk := false, request := if want = true then x.request else none }) ∧
    (x.switching = none → x.gear ≠ want → want = true → capped = true →
      TileLeft s c g i { x with sunk := false, request := some true }) ∧
    (x.switching = none → x.gear ≠ want → ¬(want = true ∧ capped = true) →
      TileLeft s c g i { x with sunk := false, request := none, switching := some (want, 1, g.slot) })) ∧
  (∀ s want cause slot, let n := s.subject.unit
    let x := s.tile n
    x.switching = some (want, cause, slot) → (s.ctx (x.holder.getD 0)).loglim = 0 → (s.cluster (n / 4)).relock = none →
    (∀ g, g ∈ s.gangsOf n → ∀ y, y ∈ g.slices → y.wait ≠ .spill ∧ y.wait ≠ .refill) →
    ∃ t, exec .gearSwitchComplete s = .next t ∧ (t.tile n).gear = want ∧ (t.tile n).held = [] ∧
      (x.request = none → x.lift = false → x.dorm = .active → (∀ u, u ∈ x.held → ∃ w, u = .write w) →
        (s.ctx (x.holder.getD 0)).cap = false → (s.ctx (x.holder.getD 0)).slack.k ≠ 16 → (t.tile n).switching = none) ∧
      (x.held = [] → (∀ e, e ∈ s.gangs → e.2.pend = []) → ∀ tile slot, t.gang? tile slot = s.gang? tile slot) ∧
      ∀ now a, t.homeByte now a = s.homeByte now a) ∧
  (∀ s k, let n := s.subject.unit
    let x := s.tile n
    x.holder = some k → x.gear = true → x.switching = none → (s.ctx k).cap = false → (s.ctx k).slack.k ≠ 16 →
    (∀ g, g ∈ s.gangsOf n → g.ended = false → ∀ j, j ∈ g.leaders → (g.slice j).wait = .wata ∨ (g.slice j).wait = .park ∨
      ∃ b, (g.slice j).wait = .barrier b ∧ sinking s g b) →
    (∃ g j b l y m, g ∈ s.gangsOf n ∧ g.ended = false ∧ j ∈ g.leaders ∧ (g.slice j).wait = .barrier b ∧ sinking s g b ∧
      g.launch = some l ∧ s.launch? l = some y ∧ y.members.find? (fun m => m.gang == g.number && m.banner == b) = some m ∧
      m.completed = none) →
    ∃ t, exec .tileSink s = .next t ∧ t.tile n = { x with sunk := true, switching := some (false, 2, 0) } ∧
      (∀ i, i ≠ n → t.tile i = s.tile i) ∧ { t with tiles := s.tiles } = s) ∧
  (∀ s l x, s.launch? s.subject.unit = some l → Sparse.find? l.banner s.subject.slot = some x → x.lifted = false →
    (s.ctx l.ctx).st = .running →
    (∀ m, m ∈ l.members → m.banner = s.subject.slot → m.arrived = none → ∃ v, l.placed.find? (fun v => v.index == m.gang / l.ng) = some v ∧
      (s.tile v.tile).gear = false ∧ (s.tile v.tile).switching = none) →
    ∃ t y z, exec .bannerLift s = .next t ∧ t.launch? s.subject.unit = some y ∧ Sparse.find? y.banner s.subject.slot = some z ∧
      z.lifted = true ∧ t.gangs = s.gangs ∧
      ∀ v m, v ∈ l.placed → m ∈ l.members → m.banner = s.subject.slot → m.gang / l.ng = v.index → (t.tile v.tile).sunk = false ∧
        ((s.tile v.tile).sunk = true → (s.tile v.tile).switching = none → (s.tile v.tile).dorm = .active → (s.ctx l.ctx).cap = false →
          (s.ctx l.ctx).slack.k ≠ 16 → (t.tile v.tile).switching = some (true, 3, 0)))

/-- R123, R124, R127, R128: `waitc` by its class's count; pennants set and cleared, with the commands at the heads of the queues decided;
`flush` of what is held, and its wait for what a drain under way has already taken; `logw` of its marker. -/
def Sys2Proof.Claims.WaitsAndPennants : Prop :=
  ∀ s c g,
    (∀ k n, Starts s c g (.waitc k n) →
      ((g.queues.getD k.toNat []).length ≤ n.toNat → Passes s c g (.waitc k n)) ∧
      (n.toNat < (g.queues.getD k.toNat []).length → Waits s c g (.waitc k n) .issue)) ∧
    (∀ k a, Starts s c g (.pnset k a) → k.toNat < g.pnst.length → ∃ t h, exec (.pnset k a) s = .next t ∧ OnlyGang s t c h ∧ Past g h c ∧
      (∀ i, h.pnst.getD i none = if i = k.toNat then some (decide (g.sreg a.toNat ≠ 0)) else g.pnst.getD i none) ∧
      (∀ q, h.queues.getD q [] = match g.queues.getD q [] with
        | [] => []
        | x :: rest => headDecided h.pnst g.ended x :: rest) ∧
      Left { g with pnst := h.pnst, queues := h.queues } h g.sreg g.vreg g.pred g.remOf g.fpst g.pend) ∧
    (∀ k, Starts s c g (.pnclr k) → k.toNat < g.pnst.length → ∃ t h, exec (.pnclr k) s = .next t ∧ OnlyGang s t c h ∧ Past g h c ∧
      (∀ i, h.pnst.getD i none = if i = k.toNat then none else g.pnst.getD i none) ∧
      Left { g with pnst := h.pnst } h g.sreg g.vreg g.pred g.remOf g.fpst g.pend) ∧
    (Starts s c g .flush →
      let mine (e : Held) : Bool := e.slot == g.slot && e.gen == g.gen
      let before := s.tile c.tile
      let taken : Prop := ∃ d e, d ∈ s.drains ∧ e ∈ d.entries ∧ e.1 = g.tile ∧ mine e.2 = true ∧ e.2.seq < g.atomSeq
      let waits (h : Gang) : Prop := ∀ j, h.slice j =
        if j ∈ g.group c.slice then { g.slice j with wait := .drain, phase := 1, mark := (0, g.atomSeq) } else g.slice j
      (g.det = false ∨ (g.slice c.slice).phase ≠ 0 ∨ ((∀ e, e ∈ before.det → mine e = false) ∧ ¬taken) → Passes s c g .flush) ∧
      (g.det = true → (g.slice c.slice).phase = 0 → (∀ e, e ∈ before.det → mine e = false) → taken →
        ∃ t h, exec .flush s = .next t ∧ OnlyGang s t c h ∧ waits h ∧ Left g h g.sreg g.vreg g.pred g.remOf g.fpst g.pend) ∧
      (g.det = true → (g.slice c.slice).phase = 0 → (∃ e, e ∈ before.det ∧ mine e = true) →
        ∃ t h d, exec .flush s = .next t ∧ t.gang? c.tile c.slot = some h ∧
          waits h ∧ Left g h g.sreg g.vreg g.pred g.remOf g.fpst g.pend ∧ t.drains = s.drains ++ [d] ∧ d.point = 2 ∧
          d.entries = (before.det.filter mine).map (fun e => (c.tile, e)) ∧
          t.tile c.tile = { before with det := before.det.filter fun e => !mine e } ∧ ∀ now a, t.homeByte now a = s.homeByte now a)) ∧
    (∀ a, Starts s c g (.logw a) →
      ((s.ctx g.ctx).loglim = 0 → Passes s c g (.logw a)) ∧
      ((s.ctx g.ctx).loglim ≠ 0 → s.logRoom g.tile g.ctx 1 = false → TrapsWhole s c g (.logw a) 0x0B (logFullAt s g)) ∧
      ((s.ctx g.ctx).loglim ≠ 0 → s.logRoom g.tile g.ctx 1 = true → c.slice < 8 → g.tile < 768 → g.slot < 32 →
        ∃ t h e, exec (.logw a) s = .next t ∧ t.gang? c.tile c.slot = some h ∧ Past g h c ∧
          Left g h g.sreg g.vreg g.pred g.remOf g.fpst g.pend ∧ (t.tile g.tile).stage.getLast? = some e ∧
          e.toNat % 2 ^ 48 = s.gtc % 2 ^ 48 ∧ e.toNat / 2 ^ 48 % 256 = 0x0B ∧ e.toNat / 2 ^ 56 % 2 ^ 16 = g.tile * 32 + g.slot ∧
          e.toNat / 2 ^ 72 = (g.sreg a.toNat).toNat + c.slice * 2 ^ 32))

/-- R97, R129: `tlbinv` is privileged; no TLB then holds a translation of the page, and every other translation stays. -/
def Sys2Proof.Claims.TranslationsGo : Prop :=
  ∀ s c g a, Starts s c g (.tlbinv a) →
    let va : Dword := g.sreg (a.toNat + 1) ++ g.sreg a.toNat
    let goes (x : Xlat) : Prop := x.ctx = g.ctx ∧ (va.toNat = 2 ^ 64 - 1 ∨ va.toNat % 2 ^ 52 / 2 ^ x.size = x.va / 2 ^ x.size)
    (g.sup = false → TrapsWhole s c g (.tlbinv a) 0x02 ((encode (.tlbinv a)).setWidth 64)) ∧
    (g.sup = true → ∃ t h, exec (.tlbinv a) s = .next t ∧ t.gang? c.tile c.slot = some h ∧ Past g h c ∧
      Left g h g.sreg g.vreg g.pred g.remOf g.fpst g.pend ∧
      (∀ n x, x ∈ (t.tile n).tlb ↔ x ∈ (s.tile n).tlb ∧ ¬goes x) ∧
      (∀ n x, x ∈ (t.cluster n).tlb ↔ x ∈ (s.cluster n).tlb ∧ ¬goes x) ∧
      (∀ n, { t.tile n with tlb := (s.tile n).tlb } = s.tile n) ∧
      (∀ n, { t.cluster n with tlb := (s.cluster n).tlb } = s.cluster n) ∧
      { t with gangs := s.gangs, tiles := s.tiles, clusters := s.clusters } = s)

/-- R123, R124, R127, R128, R97, R129: `waitc` by its class's count; pennants set and cleared, with the commands at the heads of the queues
decided; `flush` of what is held, and its wait for what a drain under way has already taken; `logw` of its marker; `tlbinv` is privileged;
no TLB then holds a translation of the page, and every other translation stays. -/
def Obligations.WaitsPennantsTranslations : Prop := Sys2Proof.Claims.WaitsAndPennants ∧ Sys2Proof.Claims.TranslationsGo

namespace Sys2Proof.Claims

/-- A number, and a word, as a special register of 64 bits. -/
abbrev word (w : Word) : Dword := w.setWidth 64

/-- Bits of SCC: Z, N, C, V, and MZ and MA of the group's slices (Table 3.5, R39). -/
def sccWord (g : Gang) (c : Cur) (w : Word) : Prop :=
  let f := (g.slice c.slice).fl
  w.getLsbD 0 = f.z ∧ w.getLsbD 1 = f.n ∧ w.getLsbD 2 = f.c ∧ w.getLsbD 3 = f.v ∧
    w.getLsbD 4 = (g.group c.slice).all (guardAll g · false) ∧ w.getLsbD 5 = (g.group c.slice).all (guardAll g · true) ∧
    ∀ k, 6 ≤ k → w.getLsbD k = false

/-- Table 3.7: registers by number, but SCC, PNST, SLGRP and the SLICEPC. -/
def registers (s : State) (g : Gang) (c : Cur) : List (Nat × Dword) :=
  let x := g.slice c.slice
  let t := s.tile g.tile
  let k := s.cluster (g.tile / 4)
  let y := s.ctx g.ctx
  let n (q : Nat) : Nat := (g.queues.getD q []).length
  [(0x00, word x.mode), (0x02, num x.repc), (0x03, num x.cdepth), (0x04, x.link), (0x05, x.pc), (0x10, word g.hout),
    (0x11, num g.fifo.length), (0x12, num g.horizon), (0x13, num g.fpst.toNat), (0x14, g.rsb), (0x15, g.rsl), (0x16, num g.rsdepth),
    (0x17, num ((n 0 + 2 ^ 8 * n 1 + 2 ^ 16 * n 2 + 2 ^ 24 * n 3) % 2 ^ 32)), (0x19, word g.adv), (0x1A, num g.slot),
    (0x1B, num g.gidx), (0x1C, num g.grove), (0x1D, num g.ngang), (0x1E, num g.nsl), (0x20, word g.spgen),
    (0x21, num ((if g.sup then 1 else 0) + (if g.det then 2 else 0) + min g.pri y.pri % 4 * 4 + y.share % 32 * 16)),
    (0x30, num s.gtc), (0x31, num g.tile), (0x32, num (g.tile / 4)), (0x33, num s.devnum),
    (0x34, num ((if t.gear then 1 else 0) + if t.switching.isSome then 2 else 0)), (0x35, word t.drop), (0x36, word k.cclk),
    (0x37, num k.cad), (0x38, num k.slew), (0x39, num y.lease), (0x100, g.trap.tpc), (0x101, word g.trap.tcause), (0x102, g.trap.tval),
    (0x103, word g.trap.tmask), (0x104, word g.trap.tmode), (0x105, word g.trap.tscc), (0x106, y.tbase), (0x107, y.loglim)] ++
    (List.range 8).map fun j => (0x108 + j, g.trap.slicepc.getD j 0)

/-- R118: `rdsr` of a register with the value `x`: one word, or a pair for a 64-bit register. -/
def ReadsSr (s : State) (c : Cur) (g : Gang) (d : BitVec 9) (sr : BitVec 15) (x : Dword) : Prop :=
  ∃ t h, exec (.rdsr d sr) s = .next t ∧ OnlyGang s t c h ∧ Past g h c ∧
    Left g h (fun n => if n = d.toNat then x.extractLsb' 0 32
      else if n = d.toNat + 1 ∧ srWidth sr.toNat = some 64 then x.extractLsb' 32 32 else g.sreg n) g.vreg g.pred g.remOf g.fpst g.pend

/-- What `wrsr` leaves of the group's slices, the gang and the device. -/
def WritesSr (s : State) (c : Cur) (g : Gang) (i : Instr) (f : Slice → Slice) (k : Gang) (fp : BitVec 6) (u : State) : Prop :=
  ∃ t h, exec i s = .next t ∧ t.gang? c.tile c.slot = some h ∧ { t with gangs := s.gangs } = u ∧
    (∀ tile slot, gkey tile slot ≠ gkey c.tile c.slot → t.gang? tile slot = s.gang? tile slot) ∧
    (∀ j, h.slice j = if j ∈ g.group c.slice then f (g.slice j).advance else g.slice j) ∧
    Left k h g.sreg g.vreg g.pred g.remOf fp g.pend

end Sys2Proof.Claims

/-- R39, R54, R57, R59, R61, R118, Table 3.7: `rdsr` gives each register as it stands; those marked S are privileged outside a handler. -/
def Sys2Proof.Claims.SpecialRegistersRead : Prop :=
  ∀ s c g (d : BitVec 9) (sr : BitVec 15), Starts s c g (.rdsr d sr) →
    (0x100 ≤ sr.toNat → sr.toNat ≤ 0x10F → g.sup = false → TrapsWhole s c g (.rdsr d sr) 0x02 ((encode (.rdsr d sr)).setWidth 64)) ∧
    ((sr.toNat < 0x100 ∨ g.sup = true) →
      (∀ x, (sr.toNat, x) ∈ registers s g c → ReadsSr s c g d sr x) ∧
      (sr.toNat = 0x01 → ∃ w, sccWord g c w ∧ ReadsSr s c g d sr (word w)) ∧
      (sr.toNat = 0x18 → ∃ w : Word, (∀ k, 1 ≤ k → k < 8 → (w.getLsbD (2 * k) = decide (g.pnst.getD k none = some false)) ∧
          (w.getLsbD (2 * k + 1) = decide (g.pnst.getD k none = some true))) ∧
        (∀ k, (k < 2 ∨ 16 ≤ k) → w.getLsbD k = false) ∧ ReadsSr s c g d sr (word w)) ∧
      (sr.toNat = 0x1F → g.sup = true → ReadsSr s c g d sr (word g.slgrp)) ∧
      (sr.toNat = 0x1F → g.sup = false → ∃ w : Word,
        (∀ j, j < 8 → w.toNat / 2 ^ (4 * j) % 16 = if (g.slice j).live then (g.group j).headD 15 else 15) ∧
        ReadsSr s c g d sr (word w)))

/-- R52, R54, R59, R114, R118, R120, Table 3.7: `wrsr` writes what the register's row says and nothing else; a register that may not be
written is illegal, one marked S privileged outside a handler, and a value its row does not accept is in TVAL. -/
def Sys2Proof.Claims.SpecialRegistersWritten : Prop :=
  ∀ s c g (d : BitVec 9) (sr : BitVec 15), Starts s c g (.wrsr d sr) →
    let i := Instr.wrsr d sr
    let w := g.sreg d.toNat
    let x : Dword := g.sreg (d.toNat + 1) ++ w
    let n := sr.toNat
    let low (x : Dword) (k : Nat) : Dword := BitVec.ofNat 64 (x.toNat / 2 ^ k * 2 ^ k)
    let kept : Slice → Slice := fun y => y
    let whole (f : Slice → Slice) (k : Gang) (fp : BitVec 6) (u : State) := WritesSr s c g i f k fp u
    (0x100 ≤ n → n ≤ 0x10F → g.sup = false → TrapsWhole s c g i 0x02 ((encode i).setWidth 64)) ∧
    (n < 0x100 → n ∉ [0x00, 0x01, 0x04, 0x13, 0x14, 0x15] → (g.sup = true → n ∉ [0x10, 0x1F, 0x35, 0x39]) →
      TrapsWhole s c g i 0x01 ((encode i).setWidth 64) ∧ KillsWith s c g i 0x01 ((encode i).setWidth 64)) ∧
    (n = 0x00 → modeAccepted w → whole (fun y => { y with mode := w }) g g.fpst s) ∧
    (n = 0x00 → ¬modeAccepted w → TrapsWhole s c g i 0x01 (word w)) ∧
    (n = 0x01 → whole (fun y => { y with fl := ⟨w.getLsbD 0, w.getLsbD 1, w.getLsbD 2, w.getLsbD 3⟩ }) g g.fpst s) ∧
    (n = 0x13 → whole kept g (w.extractLsb' 0 6) s) ∧
    (n ∈ [0x04, 0x14, 0x15] → 2 ^ 52 ≤ x.toNat → TrapsWhole s c g i 0x01 x) ∧
    (x.toNat < 2 ^ 52 →
      (n = 0x04 → whole (fun y => { y with link := low x 2 }) g g.fpst s) ∧
      (n = 0x14 → whole kept { g with rsb := low x 6 } g.fpst s) ∧
      (n = 0x15 → whole kept { g with rsl := low x 6 } g.fpst s)) ∧
    (g.sup = true →
      let tr := g.trap
      (n = 0x10 → whole kept { g with hout := w } g.fpst s) ∧
      (n = 0x1F → (∀ j, j < 8 → (w.toNat / 2 ^ (4 * j) % 16 = 15 ↔ (g.slice j).live = false)) → whole kept { g with slgrp := w } g.fpst s) ∧
      (n = 0x35 → whole kept g g.fpst (s.setTile g.tile { s.tile g.tile with drop := w })) ∧
      (n = 0x39 → 16 ≤ w.toNat → w.toNat ≤ 4096 →
        whole kept g g.fpst (s.modCtx g.ctx fun y => { y with lease := w.toNat })) ∧
      (n = 0x100 → whole kept { g with trap := { tr with tpc := x } } g.fpst s) ∧
      (n = 0x101 → whole kept { g with trap := { tr with tcause := BitVec.ofNat 32 (w.toNat % 2 ^ 11) } } g.fpst s) ∧
      (n = 0x102 → whole kept { g with trap := { tr with tval := x } } g.fpst s) ∧
      (n = 0x103 → whole kept { g with trap := { tr with tmask := w } } g.fpst s) ∧
      (n = 0x104 → modeAccepted w → whole kept { g with trap := { tr with tmode := w } } g.fpst s) ∧
      (n = 0x105 → whole kept { g with trap := { tr with tscc := BitVec.ofNat 32 (w.toNat % 16) } } g.fpst s) ∧
      (n = 0x106 → x.toNat < 2 ^ 52 → whole kept g g.fpst (s.modCtx g.ctx fun y => { y with tbase := low x 12 })) ∧
      (n = 0x107 → whole kept g g.fpst (s.modCtx g.ctx fun y => { y with loglim := x })) ∧
      (∀ j, j < 8 → n = 0x108 + j → x.toNat < 2 ^ 52 →
        whole kept { g with trap := { tr with slicepc := tr.slicepc.set j (low x 2) } } g.fpst s))

/-- R39, R54, R57, R59, R61, R118, Table 3.7, R52, R114, R120: `rdsr` gives each register as it stands; those marked S are privileged
outside a handler; `wrsr` writes what the register's row says and nothing else; a register that may not be written is illegal, one marked S
privileged outside a handler, and a value its row does not accept is in TVAL. The model's readings: a group's number in SLGRP is its lowest
slice (log entry 9), and a register kept per slice is read at the lowest live slice (log entry 20). -/
def Obligations.SpecialRegisters : Prop := Sys2Proof.Claims.SpecialRegistersRead ∧ Sys2Proof.Claims.SpecialRegistersWritten

/-! ## Spill and refill (spec/08_isa_reversible.md R161, R162) -/

namespace Sys2Proof.Claims

/-- R161, Table 8.2: byte `o` of the block that a spill writes: the 16 oldest entries of each lane. -/
def spilledByte (g : Gang) (o : Nat) : Byte :=
  let entry (e l : Nat) : Rem := ((g.remOf l).reverse[e]?).getD ⟨0, 0⟩
  if o < 0x800 then (entry (o / 128) (o % 128 / 4)).word.extractLsb' (8 * (o % 4)) 8
  else BitVec.ofNat 8 (entry ((o - 0x800) / 32) ((o - 0x800) % 32)).tag

/-- The entries of a lane's slot in block `n`, oldest first; and of the highest of blocks `n` to 1 that has any, with its number. -/
def slotOf (g : Gang) (byte : Dword → Byte) (l n : Nat) : List (Nat × Rem) := (List.range 16).filterMap (slotEntry g byte l n)
def highest (g : Gang) (byte : Dword → Byte) (l : Nat) : Nat → Nat × List (Nat × Rem)
  | 0 => (0, [])
  | n + 1 => if slotOf g byte l (n + 1) = [] then highest g byte l n else (n + 1, slotOf g byte l (n + 1))

/-- R162: the active lanes whose on-chip part is empty. -/
def dry (g : Gang) (c : Cur) : List Nat := (lanes g c).filter fun l => g.remOf l = []

/-- The lines of the spill area. -/
def areaLines (s : State) (g : Gang) (c : Cur) : List Nat :=
  distinct ((List.range (g.rsdepth * 2560)).filterMap fun o => match s.placeOf g c.slice 1 1 (g.rsb + num o) with
    | .at_ loc _ => some (loc / 64)
    | _ => none)

/-- The tags of the entries that a refill brings back. -/
def dryTags (g : Gang) (c : Cur) (byte : Dword → Byte) : List Dword :=
  (dry g c).flatMap fun l => (highest g byte l g.rsdepth).2.map fun e => tagPlace g (highest g byte l g.rsdepth).1 e.1 l

/-- R170, R173, R174: the instructions that pop entries: the undos, `unimul` by an odd factor, and `unmark`. -/
def popsEntries (g : Gang) (c : Cur) (i : Instr) : Prop :=
  (∃ f, undo (modeOf g c) i = some f) ∨ (∃ a, i = .unmark a) ∨ ∃ d a b, i = .unimul d a b ∧ (g.sreg b.toNat).getLsbD 0 = true

/-- A gang's group of the slice `c.slice` runs again. -/
def runsAgain (g h : Gang) (c : Cur) : Prop :=
  ∀ j, h.slice j = if j ∈ g.group c.slice then { g.slice j with wait := .run } else g.slice j

end Sys2Proof.Claims

/-- R60, R161, R164: an instruction that would push a 33rd entry traps where the next block does not fit below RSL, and else waits for a
spill; the spill stores a block with the 16 oldest entries of every lane, which leave the chip, and RSDEPTH rises by one. Where another
group has made room meanwhile, or the block no longer fits, nothing moves and the instruction looks again. -/
def Sys2Proof.Claims.SpillMakesRoom : Prop :=
  (∀ s c g i, Starts s c g i → ¬hasRoom g c → (∃ a, i = .rsmark a) ∨ (∃ f, forward (modeOf g c) i = some f) →
    (∀ d a b l, i = .rimul d a b l → (g.sreg b.toNat).getLsbD 0 = true) →
    let base := blockAt g (g.rsdepth + 1)
    (g.rsl.toNat < base.toNat + 2560 → TrapsWhole s c g i 0x08 base) ∧
    (base.toNat + 2560 ≤ g.rsl.toNat → (∀ k, k < 40 → ∃ loc sc, s.placeOf g c.slice 1 2 (base + num (64 * k)) = .at_ loc sc) →
      ∃ t h, exec i s = .next t ∧ Accessed s t c g h same ∧
        (∀ j, h.slice j = if j ∈ g.group c.slice then { g.slice j with wait := .spill } else g.slice j) ∧
        Left g h g.sreg g.vreg g.pred g.remOf g.fpst g.pend)) ∧
  (∀ s g, let c : Cur := ⟨s.subject.unit, s.subject.slot, s.subject.part⟩
    s.gang? c.tile c.slot = some g → Placed g c → (g.slice c.slice).wait = .spill →
    let fits : Prop := (blockAt g (g.rsdepth + 1)).toNat + 2560 ≤ g.rsl.toNat
    (hasRoom g c ∨ ¬fits → ∃ t h, exec .remainderSpill s = .next t ∧ OnlyGang s t c h ∧ runsAgain g h c ∧
      Left g h g.sreg g.vreg g.pred g.remOf g.fpst g.pend) ∧
    (¬hasRoom g c → fits → ∀ at_ : Nat → Nat, (∀ k, k < 40 → at_ k % 64 = 0 ∧ ∃ sc, s.placeOf g c.slice 1 2 (blockAt g (g.rsdepth + 1) + num (64 * k)) = .at_ (at_ k) sc) →
    (∀ j k, j < 40 → k < 40 → at_ j = at_ k → j = k) → (s.tile g.tile).sqUsed + 40 ≤ 64 →
    ∃ t h, exec .remainderSpill s = .next t ∧ t.gang? c.tile c.slot = some h ∧ runsAgain g h c ∧
      Left { g with domStored := h.domStored, rsdepth := g.rsdepth + 1 } h g.sreg g.vreg g.pred
        (fun l => if l < 32 then (g.remOf l).take ((g.remOf l).length - 16) else g.remOf l) g.fpst g.pend ∧
      (∀ o, o < 2560 → (t.tile g.tile).sqByte (at_ (o / 64) + o % 64) = some (some (spilledByte g o))) ∧
      (∀ b, (∀ k, k < 40 → b / 64 ≠ at_ k / 64) → (t.tile g.tile).sqByte b = (s.tile g.tile).sqByte b) ∧
      ∀ now a, t.homeByte now a = s.homeByte now a))
/-- R162, R163, R164: an undo, `unimul` or `unmark` that finds a lane's on-chip part empty waits where a spill block holds entries of it,
and traps where a tag to be rewritten is in a page that may not be written; the refill brings the entries of each such lane's highest slot,
the newest on top, rewrites their tags EMPTY, and releases the top blocks that hold no entry any more. -/
def Sys2Proof.Claims.RefillBringsBack : Prop :=
  (∀ s c g i byte, Starts s c g i → popsEntries g c i → (g.slice c.slice).phase = 0 → Readable s g c byte →
    (∃ l, l ∈ dry g c ∧ (highest g byte l g.rsdepth).2 ≠ []) →
    ((∀ a, a ∈ dryTags g c byte → ∃ loc sc, s.placeOf g c.slice 1 2 a = .at_ loc sc) → Waits s c g i .refill) ∧
    ∀ pre a post cause, dryTags g c byte = pre ++ a :: post → (∀ x, x ∈ pre → ∃ loc sc, s.placeOf g c.slice 1 2 x = .at_ loc sc) →
      s.placeOf g c.slice 1 2 a = .fault cause → TrapsWhole s c g i cause a) ∧
  (∀ s g byte, let c : Cur := ⟨s.subject.unit, s.subject.slot, s.subject.part⟩
    s.gang? c.tile c.slot = some g → Placed g c → (g.slice c.slice).wait = .refill → s.walking c.tile c.slot c.slice = false →
    Readable s g c byte → (∀ e, e ∈ (s.tile g.tile).sq → e.seq < (s.tile g.tile).nextSeq) →
    (s.tile g.tile).l1.length + (areaLines s g c).length ≤ 1024 →
    let tags := dryTags g c byte
    ∀ at_ : Dword → Nat, (∀ a, a ∈ tags → ∃ sc, s.placeOf g c.slice 1 2 a = .at_ (at_ a) sc) →
    (s.tile g.tile).sqUsed + (distinct (tags.map fun a => at_ a / 64)).length ≤ 64 →
    ∃ t h, exec .remainderRefill s = .next t ∧ t.gang? c.tile c.slot = some h ∧ h.rsdepth ≤ g.rsdepth ∧
      (∀ j, j ∈ g.group c.slice → { h.slice j with phase := (g.slice j).phase } = { g.slice j with wait := .run }) ∧ (∀ j, j ∉ g.group c.slice → h.slice j = g.slice j) ∧
      Left { g with domStored := h.domStored, rsdepth := h.rsdepth } h g.sreg g.vreg g.pred
        (fun l => if l ∈ dry g c then ((highest g byte l g.rsdepth).2.map Prod.snd).reverse else g.remOf l) g.fpst g.pend ∧
      (Apart s g c at_ → Released g byte (fun x => x ∈ tags) h.rsdepth) ∧ (∀ a, a ∈ tags → (t.tile g.tile).sqByte (at_ a) = some (some 0)) ∧
      (∀ b, b ∉ tags.map at_ → (t.tile g.tile).sqByte b = (s.tile g.tile).sqByte b) ∧
      ∀ now a, t.homeByte now a = s.homeByte now a)

/-- R60, R161, R164, R162, R163: an instruction that would push a 33rd entry traps where the next block does not fit below RSL, and else
waits for a spill; the spill stores a block with the 16 oldest entries of every lane, which leave the chip, and RSDEPTH rises by one. Where
another group has made room meanwhile, or the block no longer fits, nothing moves and the instruction looks again; an undo, `unimul` or
`unmark` that finds a lane's on-chip part empty waits where a spill block holds entries of it, and traps where a tag to be rewritten is in a
page that may not be written; the refill brings the entries of each such lane's highest slot, the newest on top, rewrites their tags EMPTY,
and releases the top blocks that hold no entry any more. The model's readings and choices: the spill is checked before the check that a
linked instruction meets a parted gang (log entry 36), and RSDEPTH goes on beyond 16 bits (log entry 68). -/
def Obligations.SpillAndRefill : Prop := Sys2Proof.Claims.SpillMakesRoom ∧ Sys2Proof.Claims.RefillBringsBack

/-! ## Barriers and held atomics (spec/16_barrier.md, spec/19_determinism.md) -/

namespace Sys2Proof.Claims

/-- The gang flies the banner: its launch and its state there. -/
def Flies (s : State) (g : Gang) (b l : Nat) (x : Launch) (m : Member) : Prop :=
  g.launch = some l ∧ s.launch? l = some x ∧ x.members.find? (fun m => m.gang == g.number && m.banner == b) = some m

/-- R293: a completion observed: the group passes, what L1 and the instruction cache were granted before that time is gone, and the
member's arrival at this address is done with, its completion as `seen` leaves it. -/
def Observes (s : State) (c : Cur) (g : Gang) (i : Instr) (b l : Nat) (x : Launch) (time : Nat) (seen : Option Nat → Option Nat) : Prop :=
  ∃ t h y, exec i s = .next t ∧ t.gang? c.tile c.slot = some h ∧ Past g h c ∧ Left g h g.sreg g.vreg g.pred g.remOf g.fpst g.pend ∧
    (∀ z, z ∈ (t.tile g.tile).l1 ↔ z ∈ (s.tile g.tile).l1 ∧ time ≤ z.grant) ∧
    (∀ z, z ∈ (t.cluster (g.tile / 4)).icache ↔ z ∈ (s.cluster (g.tile / 4)).icache ∧ time ≤ z.grant) ∧ t.launch? l = some y ∧
    y.members = x.members.map (fun m => if m.gang = g.number ∧ m.banner = b then
      { m with completed := seen m.completed, sync := m.sync.filter fun x => x.1 != (g.slice c.slice).pc } else m) ∧
    ∀ now a, t.homeByte now a = s.homeByte now a

/-- R331: whether a held entry comes strictly before another. -/
def sooner (a b : Held) : Prop :=
  a.grove < b.grove ∨ (a.grove = b.grove ∧ (a.gang < b.gang ∨ (a.gang = b.gang ∧ (a.lane < b.lane ∨ (a.lane = b.lane ∧ a.seq < b.seq)))))

end Sys2Proof.Claims

/-- R126, R293, R300, R339, R391: an arrival waits out an earlier phase of its own, then for its stores, then to register; a wait passes where its
phase has completed or it has not arrived, and else parks; a `barr.sync` whose arrival has registered only waits, and passes once a later
arrival of the gang shows its phase over (the model's choice, assumption 35); one for whose entries
the log has no room traps before it arrives; a gang that is parted or does not fly the banner traps. -/
def Sys2Proof.Claims.BarrierInstructions : Prop :=
  ∀ s c g (b : BitVec 8) i, i ∈ [Instr.barrArrive b, .barrWait b, .barrSync b] → Starts s c g i →
    (g.parted = true ∨ (∀ l x m, ¬Flies s g b.toNat l x m) → TrapsWhole s c g i 0x01 ((encode i).setWidth 64)) ∧
    (g.parted = false → ∀ l x m, Flies s g b.toNat l x m →
      let n := (g.slice c.slice).phase
      let at_ := m.sync.find? fun x => x.1 == (g.slice c.slice).pc
      let again : Prop := i = .barrSync b ∧ at_ ≠ none
      let passed : Prop := ∃ x, at_ = some x ∧ x.2 ≠ m.arrivals
      let room : Prop := s.logRoom g.tile g.ctx 2 = true
      let stays (f : Slice → Slice) : Prop := ∃ t h, exec i s = .next t ∧ OnlyGang s t c h ∧
        (∀ j, h.slice j = if j ∈ g.group c.slice then f (g.slice j) else g.slice j) ∧
        Left g h g.sreg g.vreg g.pred g.remOf g.fpst g.pend
      (i ≠ .barrWait b → ¬again → i = .barrArrive b ∨ room →
        (n = 0 → m.arrived ≠ none → Waits s c g i .issue) ∧
        (n = 0 → m.arrived = none → stays fun y => { y with wait := .fence 2 false, mark := ((s.tile g.tile).nextSeq, g.nextId) }) ∧
        (n ≠ 0 → stays fun y => { y with wait := .arrive b.toNat, phase := if i = .barrSync b then 2 else 1 })) ∧
      (i = .barrSync b → ¬again → ¬room → TrapsWhole s c g i 0x0B (logFullAt s g)) ∧
      (i = .barrWait b ∨ (i = .barrSync b ∧ again) →
        (¬passed → m.completed = none → m.arrived ≠ none → ¬room → TrapsWhole s c g i 0x0B (logFullAt s g)) ∧
        (passed → Observes s c g i b.toNat l x s.gtc id) ∧
        (∀ t, ¬passed → m.completed = some t → Observes s c g i b.toNat l x t fun _ => none) ∧
        (¬passed → m.completed = none → m.arrived = none → ∃ t h, exec i s = .next t ∧ t.gang? c.tile c.slot = some h ∧ Past g h c ∧
          Left g h g.sreg g.vreg g.pred g.remOf g.fpst g.pend ∧ ∀ now a, t.homeByte now a = s.homeByte now a) ∧
        (¬passed → m.completed = none → m.arrived ≠ none → unlogged s g → ∃ t h, exec i s = .next t ∧ t.gang? c.tile c.slot = some h ∧
          (∀ j, h.slice j = if j ∈ g.group c.slice then { g.slice j with wait := .barrier b.toNat } else g.slice j) ∧
          Left g h g.sreg g.vreg g.pred g.remOf g.fpst g.pend ∧ ∀ now a, t.homeByte now a = s.homeByte now a)))

/-- R292, R293, R295, R296, R299, R332, R342: an arrival registers with its parity; the last live one completes the phase: the parity turns, the
arrivals are cleared, and every member that arrived has its completion. A registered `barr.arrive` passes; a `barr.sync` parks, or passes
with the phase, and a parked group of a tile that is awake is released. In DET mode the last arrival drains what the phase's members, and those that have exited
since they arrived, held at their arrivals. -/
def Sys2Proof.Claims.BarrierPhases : Prop :=
  ∀ s g i b l x m v, s.gang? s.subject.unit s.subject.slot = some g →
    g.tile = s.subject.unit → g.slot = s.subject.slot → Flies s g b l x m → Sparse.find? x.banner b = some v → v.draining = false →
    let last : Prop := v.arrived + 1 = v.live
    let sync : Prop := (g.slice i).phase = 2
    let own (k : Member) : Prop := k.gang = g.number ∧ k.banner = b
    let held : Prop := ∃ n e, e ∈ (s.tile n).det ∧ e.launch = l ∧ e.grove * x.ng + e.gang = g.number ∧ e.seq < g.atomSeq
    (g.leaders.findSome? (fun i => match (g.slice i).wait with | .arrive b => some (i, b) | _ => none) = some (i, b) →
      ∃ t h y w, exec .barrierArrivalRegister s = .next t ∧ t.gang? s.subject.unit s.subject.slot = some h ∧
        (¬sync ∨ (last ∧ x.flags.getLsbD 0 = false) →
          ∀ j, h.slice j = if j ∈ g.group i then (g.slice j).advance else g.slice j) ∧
        (sync → ¬last ∨ (x.flags.getLsbD 0 = true ∧ held) →
          ∀ j, h.slice j = if j ∈ g.group i then { g.slice j with wait := .barrier b } else g.slice j) ∧
        Left g h g.sreg g.vreg g.pred g.remOf g.fpst g.pend ∧ t.launch? l = some y ∧ Sparse.find? y.banner b = some w ∧
        w.count = v.count ∧ w.live = v.live ∧
        (¬last ∨ (x.flags.getLsbD 0 = true ∧ held) → w.arrived = v.arrived + 1 ∧ w.parity = v.parity ∧
          ∀ k, k ∈ y.members → own k → k.arrived = some v.parity ∧ k.seq = g.atomSeq ∧ k.completed = none ∧
            (sync → k.sync.find? (fun q => q.1 == (g.slice i).pc) = some ((g.slice i).pc, k.arrivals))) ∧
        (last → x.flags.getLsbD 0 = false → w.arrived = 0 ∧ w.parity = !v.parity ∧ w.lifted = false ∧ w.gone = [] ∧
          (∀ k, k ∈ y.members → k.banner = b → k.arrived = none) ∧
          (∀ k, k ∈ y.members → own k → k.completed = if (g.slice i).phase = 2 then none else some s.gtc) ∧
          ∀ k, k ∈ x.members → k.banner = b → ¬own k → k.arrived ≠ none → { k with arrived := none, completed := some s.gtc } ∈ y.members) ∧
        (last → x.flags.getLsbD 0 = true → held → w.draining = true ∧ ∃ d, t.drains = s.drains ++ [d] ∧ d.point = 1 ∧ d.applied = none ∧
          ∀ n e, (n, e) ∈ d.entries ↔ e ∈ (s.tile n).det ∧ e.launch = l ∧
            ((∃ k, k ∈ y.members ∧ k.banner = b ∧ k.gang = e.grove * x.ng + e.gang ∧ e.seq < k.seq) ∨
              ∃ q, q ∈ v.gone ∧ q.1 = e.grove * x.ng + e.gang ∧ e.seq < q.2))) ∧
    (∀ time, (s.tile s.subject.unit).dorm ≠ .dormant → (s.tile s.subject.unit).dorm ≠ .waking → g.leaders.findSome? (fun i => match (g.slice i).wait with | .barrier b => some (i, b) | _ => none) = some (i, b) →
      m.completed = some time → ∃ t h, exec .barrierRelease s = .next t ∧ t.gang? s.subject.unit s.subject.slot = some h ∧
        (∀ j, h.slice j = if j ∈ g.group i then (g.slice j).advance else g.slice j) ∧
        Left g h g.sreg g.vreg g.pred g.remOf g.fpst g.pend ∧ (∀ z, z ∈ (t.tile g.tile).l1 → time ≤ z.grant))

/-- R126, R293, R300, R339, R391, R292, R295, R296, R299, R332, R342: an arrival waits out an earlier phase of its own, then for its stores,
then to register; a wait passes where its phase has completed or it has not arrived, and else parks; a `barr.sync` whose arrival has
registered only waits, and passes once a later arrival of the gang shows its phase over (the model's choice, assumption 35); one for whose
entries the log has no room traps before it arrives; a gang that is parted or does not fly the banner traps; an arrival registers with its
parity; the last live one completes the phase: the parity turns, the arrivals are cleared, and every member that arrived has its completion.
A registered `barr.arrive` passes; a `barr.sync` parks, or passes with the phase, and a parked group of a tile that is awake is released. In
DET mode the last arrival drains what the phase's members, and those that have exited since they arrived, held at their arrivals. That a
`barr.sync` whose arrival is registered waits and does not arrive again is the model's reading (log entry 35). -/
def Obligations.Barriers : Prop := Sys2Proof.Claims.BarrierInstructions ∧ Sys2Proof.Claims.BarrierPhases

/-- R331, R332, R333, R334: a drain applies its entries in key order, each at its home, after the drains of its launch, and of its instant,
that come before it; a grove's or a launch's is applied when its instant is over;
once GTC has come to the greatest completion time it is over, and every `flush` for whose atomics no drain is under way any more goes on;
a full buffer of a running context on which an atomic waits is drained whole, after the flush points that meet it. -/
def Obligations.HeldAtomicsDrain : Prop :=
  (∀ s d, s.drains[s.subject.unit]? = some d → d.applied = none →
    (∀ e, e ∈ d.entries → (s.ctx ((s.tile e.1).holder.getD 0)).loglim = 0 ∧ s.inTurn (e.2.loc / 64) e.1 = true) →
    (d.point = 3 ∨ d.point = 4 → d.at_ < s.gtc) →
    (∀ x, x ∈ s.drains → x.launch = d.launch ∨ x.at_ = d.at_ → x.applied = none →
      (d.point = 3 → x.point = 3 ∨ x.point = 4) ∧ (d.point = 4 → x.point = 4)) →
    ∀ es, es.Perm d.entries → es.Pairwise (fun a b => sooner a.2 b.2) →
      ∃ t x, exec .detDrain s = .next t ∧ t.drains[s.subject.unit]? = some x ∧ x.entries = es ∧
        x.ws.length = es.length ∧ x.applied = some (x.ws.foldl max 0) ∧ t.gangs = s.gangs ∧ t.tiles = s.tiles ∧
        (let u := es.foldl (fun u e => (u.performAtomic e.1 e.2.loc e.2.op e.2.x e.2.y).1) s
        t.homes = u.homes ∧ t.mem = u.mem ∧ t.watches = u.watches)) ∧
  (∀ s d w, s.drains[s.subject.unit]? = some d → d.applied = some w → w ≤ s.gtc →
    let rest := s.drains.eraseIdx s.subject.unit
    let flushed (g : Gang) (j : Nat) : Prop := (g.slice j).wait = .drain ∧ (g.slice j).phase = 1 ∧
      ¬∃ x e, x ∈ rest ∧ e ∈ x.entries ∧ e.1 = g.tile ∧ e.2.slot = g.slot ∧ e.2.gen = g.gen ∧ e.2.seq < (g.slice j).mark.2
    ∃ t ds, exec .detDrain s = .next t ∧ t.drains = rest ++ ds ∧ (∀ x, x ∈ ds → x.point = 1 ∧ x.applied = none) ∧
      (∀ now a, t.homeByte now a = s.homeByte now a) ∧
      (d.point ≠ 5 → ∀ tile slot g, s.gang? tile slot = some g → ∃ h, t.gang? tile slot = some h ∧
        (∀ j, (flushed g j → h.slice j = { g.slice j with wait := .run, phase := 2 }) ∧ (¬flushed g j → h.slice j = g.slice j)) ∧
        g.horizon ≤ h.horizon ∧ Left { g with horizon := h.horizon } h g.sreg g.vreg g.pred g.remOf g.fpst g.pend)) ∧
  (∀ s, let n := s.subject.unit
    (∃ g j, g ∈ s.gangsOf n ∧ j ∈ g.leaders ∧ (g.slice j).wait = .drain ∧ (g.slice j).phase = 0) →
    (∃ k, (s.tile n).holder = some k ∧ (s.ctx k).st = .running) →
    (∀ d, d ∈ s.drains → ¬(d.point = 5 ∧ d.tile = n)) → (s.tile n).det ≠ [] → s.flushDue n = false →
    ∃ t d, exec .forcedDrain s = .next t ∧ t.drains = s.drains ++ [d] ∧ d.point = 5 ∧ d.tile = n ∧
      d.entries = (s.tile n).det.map (fun e => (n, e)) ∧ t.tile n = { s.tile n with det := [] } ∧ t.gangs = s.gangs ∧
      ∀ now a, t.homeByte now a = s.homeByte now a)

/-! ## Engines (spec/10_isa_engines.md) -/

namespace Sys2Proof.Claims

/-- An engine command: operation, words of its parameter block, lookahead, pennant, first scalar of the block, status register. -/
structure CmdForm where
  op : CmdOp
  len : Nat
  n : BitVec 4
  pn : BitVec 3
  p : BitVec 9
  d : BitVec 6

/-- Table 10.1. -/
def cmdForm : Instr → Option CmdForm
  | .cpy4 n k p d => some ⟨.cpy 4, 6, n, k, p, d⟩
  | .cpy8 n k p d => some ⟨.cpy 8, 6, n, k, p, d⟩
  | .cpy16 n k p d => some ⟨.cpy 16, 6, n, k, p, d⟩
  | .bcpy n k p d => some ⟨.bcpy, 9, n, k, p, d⟩
  | .wcpy n k p d => some ⟨.wcpy, 9, n, k, p, d⟩
  | .mcast n k p d => some ⟨.mcast, 5, n, k, p, d⟩
  | .gath n k p d => some ⟨.gath, 8, n, k, p, d⟩
  | .czero n k p d => some ⟨.czero, 4, n, k, p, d⟩
  | .wldS n k p d => some ⟨.wld true, 6, n, k, p, d⟩
  | .wldG n k p d => some ⟨.wld false, 6, n, k, p, d⟩
  | .mma n k p d => some ⟨.mma, 1, n, k, p, d⟩
  | .mloop n k p d => some ⟨.mloop, 14, n, k, p, d⟩
  | .mrec n k p d => some ⟨.mrec, 10, n, k, p, d⟩
  | .accrd n k p d => some ⟨.accrd, 4, n, k, p, d⟩
  | .accwr n k p d => some ⟨.accwr, 4, n, k, p, d⟩
  | .accz n k p d => some ⟨.accz, 1, n, k, p, d⟩
  | .collAr n k p d => some ⟨.coll 0, 9, n, k, p, d⟩
  | .collRs n k p d => some ⟨.coll 1, 9, n, k, p, d⟩
  | .collAg n k p d => some ⟨.coll 2, 9, n, k, p, d⟩
  | _ => none

/-- Table 10.1: COPY, GATH, MTX, COLL. -/
def CmdForm.cls (f : CmdForm) : Nat :=
  match f.op with
  | .gath => 1
  | .coll _ => 3
  | .wld _ | .mma | .mloop | .mrec | .accrd | .accwr | .accz => 2
  | .cpy _ | .bcpy | .wcpy | .mcast | .czero => 0

/-- R198: commands that report lane by lane. -/
def laneWise : CmdOp → Bool
  | .cpy _ => true
  | _ => false

/-- R196: the vector registers that a command reads at issue. -/
def CmdForm.vecs (f : CmdForm) (g : Gang) (c : Cur) : List Nat :=
  let w (k : Nat) : Nat := (g.sreg (f.p.toNat + k)).toNat
  match f.op with
  | .cpy _ => [w 4 % 64, w 4 / 256 % 64]
  | .mma =>
    let m := w 0 / 2 ^ 16 % 64 + 1
    let et := (modeOf g c).toNat / 8 % 64
    (List.range (if et = 3 ∨ et = 4 then 2 * m else m)).map (fun k => w 0 % 64 + k) ++
      (if (g.sreg f.p.toNat).getLsbD 14 then if et = 9 ∨ et = 10 then [w 0 / 256 % 64, w 0 / 256 % 64 + 1] else [w 0 / 256 % 64] else [])
  | _ => []

/-- R214: the operand formats, their bits, and the bytes of 128 elements. -/
def isOperand (et : Nat) : Bool := [3, 4, 7, 8, 9, 10].contains et || (decide (32 ≤ et) && decide (et ≤ 59))
def bitsOf (et : Nat) : Nat := if et = 3 ∨ et = 4 then 16 else if et = 9 ∨ et = 10 then 4 else 8

/-- Table 10.5: a row range beyond 128 rows. -/
abbrev rowsBad (row0 less : Nat) : Prop := 128 < row0 + less + 1

/-- R200, R217, Tables 10.4 and 10.5: the code that a command of copy or matrix ends with for its first parameter that breaks its rules, 0
for none; an `mcast` has further rules of its own. `held` says that the context holds the bank, `et` is the activation format. -/
def checkedCode (g : Gang) (et : Nat) (op : CmdOp) (w : Nat → Nat) (held : Nat → Bool) : Option Nat :=
  let rows (need : Nat) : Nat := if w 0 % 16 ≠ 0 then 0x02
    else if w 2 % 16 ≠ 0 ∨ w 2 < 512 ∨ need ≤ w 3 ∨ rowsBad (w 3 % 128) (w 3 / 256 % 128) then 0x03
    else if held (w 3 / 2 ^ 15 % 2) then 0 else 0x04
  match op with
  | .cpy _ => some (if g.nv ≤ w 4 % 64 ∨ g.nv ≤ w 4 / 256 % 64 ∨ w 4 / 64 % 4 ≠ 0 ∨ w 4 / 2 ^ 14 % 4 ≠ 0 ∨ w 4 / 2 ^ 16 % 4 = 3 ∨
      w 4 / 2 ^ 18 % 4 = 3 ∨ 2 ^ 20 ≤ w 4 ∨ w 5 = 0 ∨ 4096 < w 5 then 0x03 else 0)
  | .bcpy => some (if w 0 % 16 ≠ 0 ∨ w 2 % 16 ≠ 0 then 0x02
      else if w 4 % 16 ≠ 0 ∨ w 4 < 16 ∨ 2 ^ 20 < w 4 ∨ w 5 = 0 ∨ 2 ^ 16 < w 5 ∨ w 6 % 16 ≠ 0 ∨ w 7 % 16 ≠ 0 ∨ w 8 % 4 = 3 ∨
        w 8 / 4 % 4 = 3 ∨ 16 ≤ w 8 then 0x03 else 0)
  | .wcpy => some (if w 0 % 16 ≠ 0 ∨ w 2 % 16 ≠ 0 then 0x02
      else if w 4 % 2 ^ 16 = 0 ∨ w 4 / 2 ^ 16 % 16 ≠ 0 ∨ w 5 % 16 ≠ 0 ∨ 2 ^ 28 ≤ w 6 ∨ w 7 / 2 ^ 8 % 16 = 0 ∨ w 7 / 2 ^ 12 % 16 ≠ 0 ∨
        w 8 % 256 = 0 ∨ w 8 / 256 % 4 = 3 ∨ w 8 / 1024 % 4 = 3 ∨ 2 ^ 12 ≤ w 8 then 0x03 else 0)
  | .mcast => none
  | .gath => some (if w 0 % 16 ≠ 0 ∨ w 2 % 4 ≠ 0 ∨ w 4 % 16 ≠ 0 then 0x02
      else if w 6 = 0 ∨ 2 ^ 16 < w 6 ∨ w 7 % 256 = 0 ∨ 64 < w 7 % 256 ∨ w 7 / 256 % 4 = 3 ∨ w 7 / 1024 % 4 = 3 ∨ w 7 / 4096 % 4 = 3 ∨
        2 ^ 14 ≤ w 7 then 0x03 else 0)
  | .czero => some (if w 0 % 16 ≠ 0 then 0x02 else if w 2 % 16 ≠ 0 ∨ w 2 < 16 ∨ 2 ^ 31 < w 2 ∨ 3 ≤ w 3 then 0x03 else 0)
  | .wld _ => some (if w 0 % 64 ≠ 0 then 0x02
      else if w 2 % 64 ≠ 0 ∨ w 2 < 16 * bitsOf (w 3 % 64) ∨ isOperand (w 3 % 64) = false ∨ 128 ≤ w 3 then 0x03
      else if w 3 / 64 % 2 = 1 ∧ w 4 % 16 ≠ 0 then 0x02 else 0)
  | .mma =>
    let m := w 0 / 2 ^ 16 % 64 + 1
    some (if g.nsl < 8 ∨ 32 < m ∨ g.nv < w 0 % 64 + (if bitsOf et = 16 then 2 * m else m) ∨
        (w 0 / 2 ^ 14 % 2 = 1 ∧ g.nv ≤ w 0 / 256 % 64) ∨ 128 < w 0 / 2 ^ 24 % 128 + m ∨
        w 0 / 64 % 4 ≠ 0 ∨ w 0 / 2 ^ 15 % 2 ≠ 0 ∨ w 0 / 2 ^ 23 % 2 ≠ 0 ∨ 2 ^ 31 ≤ w 0 then 0x03
      else if held (w 0 / 2 ^ 22 % 2) then 0 else 0x04)
  | .mloop => some (if w 0 % 16 ≠ 0 then 0x02 else if w 2 % 16 ≠ 0 ∨ w 3 % 16 ≠ 0 then 0x03 else if w 4 % 64 ≠ 0 then 0x02
      else if w 6 % 64 ≠ 0 ∨ w 7 % 64 ≠ 0 ∨ w 8 = 0 ∨ 2 ^ 24 ≤ w 8 ∨ isOperand (w 9 % 64) = false ∨ isOperand (w 9 / 64 % 64) = false ∨
        2 ^ 31 ≤ w 9 ∨ rowsBad (w 9 / 2 ^ 15 % 128) (w 9 / 2 ^ 22 % 128) then 0x03
      else if w 10 % 16 ≠ 0 ∨ w 12 % 16 ≠ 0 then 0x02
      else if held (w 9 / 2 ^ 14 % 2) then 0 else 0x04)
  | .mrec => some (if w 0 % 16 ≠ 0 then 0x02 else if w 2 % 16 ≠ 0 ∨ w 3 % 16 ≠ 0 then 0x03 else if w 4 % 16 ≠ 0 then 0x02
      else if w 6 % 16 ≠ 0 ∨ w 7 % 16 ≠ 0 ∨ w 8 = 0 ∨ 2 ^ 24 ≤ w 8 ∨ isOperand (w 9 % 64) = false ∨ 2 ^ 16 ≤ w 9 then 0x03
      else if held 0 && held 1 then 0 else 0x04)
  | .accrd => some (rows (2 ^ 17))
  | .accwr => some (rows (2 ^ 17))
  | .accz => some (if 2 ^ 16 ≤ w 0 ∨ rowsBad (w 0 % 128) (w 0 / 256 % 128) then 0x03 else if held (w 0 / 2 ^ 15 % 2) then 0 else 0x04)
  | .coll _ => none

/-- The first command of each queue decided by its pennant (R124). -/
def headsDecided (g : Gang) (q : List Cmd) : List Cmd :=
  match q with
  | [] => []
  | x :: rest => headDecided g.pnst g.ended x :: rest

/-- The lines of a status word (R198): DONE, ERR with a code, COUNT. -/
def status (code count : Nat) : Word :=
  BitVec.ofNat 32 (0x80000000 + (if code = 0 then 0 else 0x40000000 + code * 0x1000000) + min count 0xFFFFFF)

/-- R8, R251: whether the engines work for a gang. -/
def engineWorks (s : State) (g : Gang) : Prop :=
  ((s.ctx g.ctx).st = .running ∨ ((s.ctx g.ctx).st = .stopping ∧ s.windowsLeft g.ctx = true)) ∧ (s.cluster (g.tile / 4)).relock = none

/-- R197, R203: whether the command at the head of a queue ends now. -/
structure Ends (s : State) (g : Gang) (cls : Nat) (x : Cmd) (rest : List Cmd) : Prop where
  gang : s.gang? s.subject.unit s.subject.slot = some g
  here : g.tile = s.subject.unit ∧ g.slot = s.subject.slot
  head : g.queues.getD cls [] = x :: rest
  works : engineWorks s g
  units : s.unitsHeld g cls = false

/-- R197, R198, R203: a command's end: the counter falls, the next is decided, and the status word `w`, of a `cpy` a lane's own, is written
once its window has ended. -/
def Reports (s : State) (g : Gang) (i : Instr) (cls : Nat) (x : Cmd) (rest : List Cmd) (w : Word) (lane : Nat → Word) : Prop :=
  ∃ t h, exec i s = .next t ∧ t.gang? s.subject.unit s.subject.slot = some h ∧
    h.queues.getD cls [] = headsDecided g rest ∧ h.slices = g.slices ∧ (∀ n l, h.pred n l = g.pred n l) ∧
    (∀ l, h.remOf l = g.remOf l) ∧ h.fpst = g.fpst ∧ (∀ n, (∀ q, q ∈ g.pend → Dest.sreg n ∉ q.dests) → h.sreg n = g.sreg n) ∧
    (∀ n l, l < 32 → (∀ q, q ∈ g.pend → Dest.vreg (n * 32 + l) ∉ q.dests) → h.vreg n l = g.vreg n l) ∧
    (∀ now a, t.homeByte now a = s.homeByte now a) ∧
    ∀ p, g.pend = [p] → p.id = x.pend → p.engine = true → p.returned = false → (∀ j, j ∈ p.slices → p.left.getD j 0 = 0) →
      (laneWise x.op = false → p.dests = [.sreg x.status] → h.sreg x.status = w ∧ h.pend = []) ∧
      (laneWise x.op = true → p.dests = x.lanes.map (fun l => Dest.vreg (x.status * 32 + l)) → x.lanes.Nodup →
        (∀ l, l ∈ x.lanes → l < 32 ∧ l / 4 ∈ p.slices) → h.pend = [] ∧ ∀ l, l ∈ x.lanes → h.vreg x.status l = lane l)

/-- R196, R198: what a command waits for before its class takes it: room for its counter, its status register, its vector operands, and
the slew limit of R282. -/
def AcceptHeld (s : State) (g : Gang) (c : Cur) (f : CmdForm) : Prop :=
  let k := (s.cluster (g.tile / 4)).rolled s.gtc
  255 ≤ (g.queues.getD f.cls []).length ∨
    (∃ r x, r ∈ g.queues ∧ x ∈ r ∧ laneWise x.op = laneWise f.op ∧ x.status = f.d.toNat) ∨
    (∃ n l q, n ∈ f.vecs g c ∧ n < g.nv ∧ l < 32 ∧ l / 4 ∈ g.liveSlices ∧ q ∈ g.pend ∧ Dest.vreg (n * 32 + l) ∈ q.dests ∧
      q.left.getD (l / 4) 0 = 0) ∨
    (f.cls = 2 ∧ k.slew ≠ 0 ∧ k.mtxPrev + k.slew ≤ k.mtxNow)

/-- R199: a vector operand of a command holds a status marked by a hard error, in a lane in which the command reads it. -/
def MarkedOperand (g : Gang) (c : Cur) (f : CmdForm) (n : Nat) : Prop :=
  n < g.nv ∧ ∃ l, l < 32 ∧ (f.op = .mma ∨ l ∈ lanes g c) ∧ n * 32 + l ∈ g.markV

/-- R196-R198, R203: a command as it is accepted at the end of its queue, its status register pending; the stores and atomics of its gang
still in the tile's queue, and the W of those that have returned, go with it. -/
def Accepts (s t : State) (c : Cur) (g h : Gang) (f : CmdForm) (x : Cmd) : Prop :=
  t.gang? c.tile c.slot = some h ∧ Past g h c ∧
    x.op = f.op ∧ x.params = (List.range f.len).map (fun j => g.sreg (f.p.toNat + j)) ∧ x.status = f.d.toNat ∧ x.pend = g.nextId ∧
    x.pennant = f.pn.toNat ∧ x.lanes = lanes g c ∧ x.decided = none ∧ x.sup = g.sup ∧ x.bytes = 0 ∧ x.pos = 0 ∧ x.stall = false ∧
    x.accepted = s.gtc ∧ x.seen = g.recent ∧ (x.code ≠ 0 → x.finished = true) ∧
    (∀ q, q ∈ x.waits ↔ ∃ e, e ∈ (s.tile g.tile).sq ∧ e.seq = q ∧ e.slot = g.slot ∧ e.gen = g.gen ∧ e.req ≠ .wake) ∧
    (∀ j, h.queues.getD j [] = headsDecided g (if j = f.cls then g.queues.getD f.cls [] ++ [x] else g.queues.getD j [])) ∧
    ∃ pd,
      (let ds := if laneWise f.op then (lanes g c).map (fun l => Dest.vreg (f.d.toNat * 32 + l)) else [.sreg f.d.toNat]
      (ds = [] → pd = g.pend) ∧
      (ds ≠ [] → ∃ p, pd = g.pend ++ [p] ∧ p.id = g.nextId ∧ p.slices = g.group c.slice ∧ p.dests = ds ∧ p.engine = true ∧
        p.returned = false ∧ p.load = none ∧ ∀ j, j < 8 → p.left.getD j 0 = if j ∈ g.group c.slice then f.n.toNat else 0)) ∧
      Left { g with queues := h.queues } h g.sreg g.vreg g.pred g.remOf g.fpst pd

/-- R327: the communicator's entry is well formed: its fields, of its words `w` at byte offsets, and its rank words, which `rank` gives
where they can be read: each names this device, its domain too. -/
def EntryOk (s : State) (w : Nat → Nat) (rank : Nat → Option Nat) : Prop :=
  w 8 / 256 % 2 = 1 ∧ w 8 % 256 < 32 ∧ w 8 / 512 = 0 ∧ w 8 % 32 ≤ 16 ∧ w 0x14 = 0 ∧ (∃ j, j ≤ 16 ∧ w 0x10 = 2 ^ j) ∧
    w 0x0C % w 0x10 = 0 ∧ w 0x0C + w 0x10 ≤ 2 ^ (w 8 % 32) ∧
    ∀ k, k < w 0x10 → ∃ x, rank (w 0x0C + k) = some x ∧ x % 2 ^ 20 = s.domain * 2 ^ 14 + s.devnum ∧ x / 2 ^ 20 = 0

/-- Table 10.9, R200: the code of a collective's block under a communicator that hosts ranks `first` to `first + count - 1`. -/
def collCode (p : Nat → Nat) (first count : Nat) : Nat :=
  if p 1 < first ∨ first + count ≤ p 1 then 0x03
  else if p 2 % 16 ≠ 0 ∨ p 4 % 16 ≠ 0 then 0x02
  else if p 6 = 0 ∨ 2 ^ 31 ≤ p 6 ∨ 5 ≤ p 7 % 64 ∨ p 7 / 64 % 4 ≠ 0 ∨ p 7 / 256 % 4 = 3 ∨ 2 ≤ p 7 / 1024 % 4 ∨ 2 ^ 12 ≤ p 7 then 0x03 else 0

end Sys2Proof.Claims

/-- R124, R196, R198, R200, R208, R212, R217, R220, R282: an engine command at issue. A marked vector operand is an engine fault; it waits
for room, for its status register, for its vector operands and for the slew limit; else its parameter block as read stands at the end of its
queue and its status register is pending. A collective then waits as an acquire, and takes its communicator's entry. `mma` under an element
type that is no operand format is illegal. The model's choices: a scale register of an `mma` is checked only where A is scaled (log entry
64); a communicator's rank words are compared on their device and domain bits, and a number above 255 is malformed (log entry 34). -/
def Obligations.EngineCommandsAccepted : Prop :=
  (∀ s c g i f, Starts s c g i → cmdForm i = some f → g.queues.length = 4 →
    (f.op = .mma → operandFormat ((modeOf g c).toNat / 8 % 64) = true) →
    let k := (s.cluster (g.tile / 4)).rolled s.gtc
    let p (j : Nat) : Nat := (g.sreg (f.p.toNat + j)).toNat
    (∀ n, (f.vecs g c).find? (fun n => decide (∃ l, l < 32 ∧ (f.op = .mma ∨ l ∈ lanes g c) ∧ n < g.nv ∧ n * 32 + l ∈ g.markV)) = some n →
      ∃ l, l < 32 ∧ n * 32 + l ∈ g.markV ∧ (∀ j, j < l → n * 32 + j ∉ g.markV) ∧
        TrapsWith s c g i 0x10 ((g.vreg n l).setWidth 64) (l / 4) fun j => decide (n * 32 + j ∈ g.markV)) ∧
    ((∀ n, n ∈ f.vecs g c → ¬MarkedOperand g c f n) →
      (AcceptHeld s g c f → Waits s c g i .issue) ∧
      (¬AcceptHeld s g c f → f.cls ≠ 3 →
        ∃ t h x, exec i s = .next t ∧ Accepts s t c g h f x ∧
          (∀ e, checkedCode g ((modeOf g c).toNat / 8 % 64) f.op p (fun b => decide ((s.cluster (g.tile / 4)).bankHolder.getD b none = some g.ctx)) = some e →
            x.code = e) ∧
          (f.op = .mma → x.code = 0 → x.et = (modeOf g c).toNat / 8 % 64 ∧
            x.data = (f.vecs g c).flatMap fun n => (List.range 32).map fun l => g.vreg n l) ∧
          (∀ w, f.op = .cpy w → x.code = 0 → x.copies = (lanes g c).map fun l =>
            let src := (g.sreg (f.p.toNat + 1) ++ g.sreg f.p.toNat : Dword) + (g.vreg (p 4 % 64) l).signExtend 64
            let dst := (g.sreg (f.p.toNat + 3) ++ g.sreg (f.p.toNat + 2) : Dword) + (g.vreg (p 4 / 256 % 64) l).signExtend 64
            let bad := src.toNat % w ≠ 0 ∨ dst.toNat % w ≠ 0
            { lane := l, src := src, dst := dst, code := if bad then 0x02 else 0, done := decide bad }) ∧
          (∀ n l, f.op = .mcast → g.launch = some n → s.launch? n = some l →
            let ms := s.memberGangs l n (p 4 % 256)
            x.code = (if p 0 % 16 ≠ 0 ∨ p 2 % 16 ≠ 0 then 0x02
              else if p 3 % 16 ≠ 0 ∨ p 3 < 16 ∨ 2 ^ 18 < p 3 ∨ p 4 / 512 % 2 ≠ 0 ∨ p 4 / 1024 % 4 = 3 ∨ 2 ^ 12 ≤ p 4 ∨
                ¬(∃ m, m ∈ l.members ∧ m.gang = g.number ∧ m.banner = p 4 % 256) ∨ 16 < (ms.map Gang.tile).eraseDups.length then 0x03
              else 0) ∧
            (x.code = 0 → p 4 / 256 % 2 = 1 → x.targets =
              ms.map fun m => { addr := windowAddr m.gen m.tile (m.slot * 0x2000 + p 2), room := 0x2000 - p 2 }) ∧
            (x.code = 0 → p 4 / 256 % 2 = 0 → ∀ y, y ∈ x.targets ↔ ∃ m a, m ∈ ms ∧
              (s.tile m.tile).allocs.find? (fun a => a.launch == n && a.grove == m.grove) = some a ∧
              y = { addr := windowAddr (BitVec.ofNat 16 a.gen) m.tile (0x80000 + a.base + p 2), room := a.bytes - p 2 })) ∧
          { t with gangs := s.gangs, clusters := s.clusters } = s ∧
          (f.cls ≠ 2 → t.clusters = s.clusters) ∧ (f.cls = 2 → t.cluster (g.tile / 4) = { k with mtxNow := k.mtxNow + 1 })) ∧
      (¬AcceptHeld s g c f → f.cls = 3 →
        ((g.slice c.slice).phase = 0 → ∃ t h, exec i s = .next t ∧ OnlyGang s t c h ∧
          (∀ j, h.slice j = if j ∈ g.group c.slice then fenceSlice s g j 1 false else g.slice j) ∧
          Left g h g.sreg g.vreg g.pred g.remOf g.fpst g.pend) ∧
        (∀ loc sc, (g.slice c.slice).phase ≠ 0 → s.placeNow g.ctx (s.commAt g.ctx (p 0)) 1 = .at_ loc sc →
          let own := s.ownEntries g ((List.range 32).map fun k => (loc + k, false))
          (own ≠ [] → Waits s c g i (.own own)) ∧ (own = [] → s.readable g.tile loc 1 = false → Waits s c g i (.home loc 1))) ∧
        (∀ a, a = s.commAt g.ctx (p 0) → (g.slice c.slice).phase ≠ 0 →
          (∀ loc sc, s.placeNow g.ctx a 1 = .at_ loc sc →
            s.ownEntries g ((List.range 32).map fun k => (loc + k, false)) = [] ∧ s.readable g.tile loc 1 = true) →
          ∃ t h x, exec i s = .next t ∧ Accepts s t c g h f x ∧
            (∀ e, e ∈ (t.tile g.tile).l1 ↔ e ∈ (s.tile g.tile).l1 ∧ s.gtc ≤ e.grant) ∧
            (∀ e, e ∈ (t.cluster (g.tile / 4)).icache ↔ e ∈ (s.cluster (g.tile / 4)).icache ∧ s.gtc ≤ e.grant) ∧
            { t with gangs := s.gangs, tiles := s.tiles, clusters := s.clusters } = s ∧
            (256 ≤ p 0 → x.code = 0x08) ∧
            (∀ bs, s.readNow g.ctx a 32 = .ok bs →
              let w (off : Nat) : Nat := natOfBytes ((bs.drop off).take 4)
              let map : Dword := num (natOfBytes ((bs.drop 0x18).take 8))
              let ok := EntryOk s w fun r => (s.rankWord g.ctx map r).map BitVec.toNat
              (p 0 < 256 → ¬ok → x.code = 0x08) ∧
              (p 0 < 256 → ok → x.code = collCode p (w 0x0C) (w 0x10) ∧
                x.data = [w 0, w 4, w 8 % 32, w 0x0C, w 0x10, w 0x18, w 0x1C].map (BitVec.ofNat 32))))))) ∧
  (∀ s c g n k p d, Starts s c g (.mma n k p d) → operandFormat ((modeOf g c).toNat / 8 % 64) = false →
    TrapsWhole s c g (.mma n k p d) 0x01 ((encode (.mma n k p d)).setWidth 64))


namespace Sys2Proof.Claims

/-- Words and address pairs of a parameter block; an address some signed bytes on. -/
def param (x : Cmd) (k : Nat) : Nat := (x.params.getD k 0).toNat
def signed (x : Cmd) (k : Nat) : Int := (x.params.getD k 0).toInt
def pair (x : Cmd) (k : Nat) : Dword := x.params.getD (k + 1) 0 ++ x.params.getD k 0
def off (a : Dword) (n : Int) : Dword := a + BitVec.ofInt 64 n

/-- One move of a copy command: where its bytes come from, none for zeros, and where they go, each a space and an address; how many. -/
structure Move where
  from_ : Option (Nat × Dword)
  space : Nat
  dst : Dword
  len : Nat

/-- R208, R209, R211, R212, Table 10.4: how many 16 B units a command has, and unit `u` of it; `ix` is the index of a `gath`'s element. -/
def unitsOf (x : Cmd) : Nat :=
  match x.op with
  | .bcpy => param x 4 / 16 * param x 5
  | .wcpy => (param x 6 / 2 ^ 16 + 1) * (param x 7 / 16 % 16 + 1) * (param x 7 % 16 + 1) * (param x 8 % 256)
  | .gath => param x 6 * (param x 7 % 256)
  | .czero => param x 2 / 16
  | _ => 0
def moveOf (x : Cmd) (ix : Word) (u : Nat) : Move :=
  match x.op with
  | .bcpy =>
    let row : Int := (u / (param x 4 / 16) : Nat)
    let col : Int := (16 * (u % (param x 4 / 16)) : Nat)
    ⟨some (param x 8 % 4, off (pair x 0) (row * signed x 6 + col)), param x 8 / 4 % 4, off (pair x 2) (row * signed x 7 + col), 16⟩
  | .wcpy =>
    let g := param x 8 % 256
    let kw := param x 7 % 16 + 1
    let kh := param x 7 / 16 % 16 + 1
    let c := u / g % kw
    let y := u / g / kw % kh
    let p := u / g / kw / kh
    let at_ : Int := ((x.params.getD 6 0).extractLsb' 0 16).toInt + ((p * (param x 7 / 256 % 16) + c : Nat) : Int)
    ⟨if 0 ≤ at_ ∧ at_ < param x 4 % 2 ^ 16 then
        some (param x 8 / 256 % 4,
          off (pair x 0) (y * signed x 5 + at_ * (param x 4 / 2 ^ 16 : Nat) + ((16 * (param x 7 / 2 ^ 16) + 16 * (u % g) : Nat) : Int)))
      else none, param x 8 / 1024 % 4, off (pair x 2) (16 * u : Nat), 16⟩
  | .gath =>
    let e := param x 7 % 256
    ⟨if ix = 0xFFFFFFFF then none else some (param x 7 / 1024 % 4, off (pair x 0) (ix.toNat * (16 * e) + 16 * (u % e) : Nat)),
      param x 7 / 4096 % 4, off (pair x 4) (16 * u : Nat), 16⟩
  | _ => ⟨none, param x 3 % 4, off (pair x 0) (16 * u : Nat), 16⟩

/-- R212: a unit that begins a whole line of global memory. -/
def wholeLine (x : Cmd) (u : Nat) : Prop :=
  x.op = .czero ∧ param x 3 % 4 = 0 ∧ (off (pair x 0) (16 * u : Nat)).toNat % 64 = 0 ∧ 16 * u + 64 ≤ param x 2

/-- R12: the window address under which an engine reaches a place of the grove's scratchpad, or of a window. -/
def windowOf (g : Gang) (space : Nat) (a : Dword) : Dword := if space = 1 then g.scratchAddr (g.scratchBase + a.toNat) else a

/-- The bytes that a move takes. -/
def Takes (s : State) (g : Gang) (x : Cmd) (m : Move) (byte : Nat → Byte) : Prop :=
  match m.from_ with
  | none => ∀ j, byte j = 0
  | some (space, a) => ∃ bs, s.engineRead g x space a m.len = .ok bs ∧ ∀ j, byte j = bs.getD j 0

/-- R201, R233: where a move puts its bytes, found now: a place at home, or none for a window, the scratchpad's among them, whose words a
tile takes. -/
def Puts (s : State) (g : Gang) (x : Cmd) (m : Move) (loc : Option Nat) : Prop :=
  match loc with
  | some l => s.enginePlace g x.sup m.space m.dst m.len 2 = .mem l ∧ ∀ b, l ≤ b → b < l + m.len → s.inTurn (b / 64) (x.number g) = true
  | none => m.dst.toNat % 4 = 0 ∧ m.len % 4 = 0 ∧
      ((m.space = 1 ∧ m.dst.toNat + m.len ≤ g.scratch) ∨ s.enginePlace g x.sup m.space m.dst m.len 2 = .window)

/-- R11: whether every word of a move to a window is kept. -/
def keeps (s : State) (g : Gang) (m : Move) : Bool := (List.range (m.len / 4)).all fun k => s.reaches (Machine.wordAt (windowOf g m.space m.dst) k)

/-- R12: the aligned 16 B unit of a window address. -/
def unitOf (a : Dword) : Dword := a &&& ~~~15

/-- No word that a move reads through a window, or from the scratchpad, is one that an earlier move of the same line writes there. -/
def Separate (ms : List Move) : Prop :=
  ms.length ≤ 1 ∨ (∀ m, m ∈ ms → m.space = 0) ∨ (∀ m, m ∈ ms → ∀ sp a, m.from_ = some (sp, a) → sp = 0) ∨
    ∀ m, m ∈ ms → m.space = 1 ∧ ∀ sp a, m.from_ = some (sp, a) → sp = 0 ∨
      (sp = 1 ∧ ∀ o, o ∈ ms → a.toNat + m.len ≤ o.dst.toNat ∨ o.dst.toNat + o.len ≤ a.toNat)

/-- R203, R11, R14: what moves leave, of the bytes they take and the places at home they have: home has the bytes from the command's greatest W on, a window's
words theirs where they may be reached, unless a later move covers them; a tile that holds writes back has them in order; nothing else
of memory changes. `drops` counts what is discarded at a tile. -/
def Moved (s t : State) (g : Gang) (w : Nat) (ms : List Move) (byte : Nat → Nat → Byte) (loc : Nat → Option Nat) (drops : Nat → Nat) :
    Prop :=
  (∀ i m l, ms[i]? = some m → loc i = some l → ∀ now j, w ≤ now → j < m.len →
    (∀ i' m' l', i < i' → ms[i']? = some m' → loc i' = some l' → l + j < l' ∨ l' + m'.len ≤ l + j) →
    t.homeByte now (l + j) = byte i j) ∧
  (∀ now b, (∀ i m l, ms[i]? = some m → loc i = some l → b < l ∨ l + m.len ≤ b) → t.homeByte now b = s.homeByte now b) ∧
  (∀ i m, ms[i]? = some m → loc i = none →
    let a := windowOf g m.space m.dst
    (s.holds (windowTile a) = false → ∀ k, k < m.len / 4 → s.reaches (Machine.wordAt a k) = true →
      (∀ i' m' k', i < i' → ms[i']? = some m' → loc i' = none → k' < m'.len / 4 →
        (Machine.wordAt (windowOf g m'.space m'.dst) k').extractLsb' 0 48 ≠ (Machine.wordAt a k).extractLsb' 0 48) →
      ∀ b, b < 4 → (t.readWindow (Machine.wordAt a k)).extractLsb' (8 * b) 8 = byte i (4 * k + b)) ∧
    (s.holds (windowTile a) = true → ∃ u, TileMsg.write u ∈ (t.tile (windowTile a)).held ∧ u.addr = a ∧ u.data = (List.range m.len).map (byte i))) ∧
  (∀ n, (t.tile n).drop.toNat = min (2 ^ 32 - 1) ((s.tile n).drop.toNat + drops n))

/-- R197: the rotation of a cluster's copy queues, as tile, slot and class: `a` comes before `b` after the queue served last. -/
def lexLt (a b : Nat × Nat × Nat) : Prop := a.1 < b.1 ∨ (a.1 = b.1 ∧ (a.2.1 < b.2.1 ∨ (a.2.1 = b.2.1 ∧ a.2.2 < b.2.2)))
def earlier (last : Option (Nat × Nat × Nat)) (a b : Nat × Nat × Nat) : Prop :=
  let later (q : Nat × Nat × Nat) : Prop := ∀ l, last = some l → lexLt l q
  (later a ∧ ¬later b) ∨ ((later a ↔ later b) ∧ lexLt a b)

/-- R197, R203: the copy engine's turn is that of the head of a gang's queue: every queue that comes earlier has nothing to start. -/
structure CopyTurn (s : State) (g : Gang) (cls : Nat) (x : Cmd) (rest : List Cmd) : Prop where
  gang : s.gang? g.tile g.slot = some g
  here : g.tile / 4 = s.subject.unit
  head : g.queues.getD cls [] = x :: rest
  isCopy : cls = 0 ∧ x.op ∈ [.bcpy, .wcpy, .mcast, .czero, .cpy 4, .cpy 8, .cpy 16] ∨ cls = 1 ∧ x.op = .gath
  sorted : s.gangs.Pairwise fun a b => a.1 < b.1
  placed : ∀ e, e ∈ s.gangs → e.1 = gkey e.2.tile e.2.slot ∧ e.2.tile < 768 ∧ e.2.slot < 2 ^ 22
  first : ∀ e k, e ∈ s.gangs → e.2.tile / 4 = s.subject.unit → k < 2 →
    earlier (s.cluster s.subject.unit).rot (e.2.tile, e.2.slot, k) (g.tile, g.slot, cls) → s.queueTurn e.2 k = none
  open_ : x.decided = some true ∧ x.finished = false ∧ x.stall = false ∧ (x.code = 0 ∨ x.code = 5)
  works : engineWorks s g
  size : g.scratch ≤ 2 ^ 18
  sources : ∀ q e, q ∈ x.waits → e ∈ (s.tile g.tile).sq → e.seq ≠ q

/-- The command after its turn at the head of its queue. -/
def TurnsTo (s : State) (g : Gang) (cls : Nat) (rest : List Cmd) (t : State) (y : Cmd) : Prop :=
  ∃ h, exec .copyLineStart s = .next t ∧ t.gang? g.tile g.slot = some h ∧ h.queues.getD cls [] = y :: rest ∧
    (t.cluster s.subject.unit).rot = some (g.tile, g.slot, cls)

/-- R211: the index of element `e` of a `gath`, kept from the turn before or read now. -/
def Indexed (s : State) (g : Gang) (x : Cmd) (e : Nat) (ix : Word) : Prop :=
  let mine : Prop := e = x.pos / (param x 7 % 256) ∧ x.index.map Prod.fst = some e
  (mine ∧ x.index = some (e, ix)) ∨
    (¬mine ∧ ∃ bs, s.engineRead g x (param x 7 / 256 % 4) (off (pair x 2) (4 * e : Nat)) 4 = .ok bs ∧ ix = BitVec.ofNat 32 (natOfBytes bs))

/-- R210: unit `u` of an `mcast`: a move to each target that is large enough. -/
def castMoves (x : Cmd) (u : Nat) : List Move :=
  (x.targets.filter fun y => decide (16 * u + 16 ≤ y.room)).map fun y =>
    ⟨some (param x 4 / 1024 % 4, off (pair x 0) (16 * u : Nat)), 2, off y.addr (16 * u : Nat), 16⟩

/-- A move that is discarded, in whole or in part (R11). -/
def isLost (s : State) (g : Gang) (loc : Option Nat) (m : Move) : Bool :=
  loc.isNone && !s.holds (windowTile (windowOf g m.space m.dst)) && !keeps s g m

/-- The moves, by their places in the list, that are discarded at a tile. -/
def lostAt (s : State) (g : Gang) (ms : List Move) (loc : Nat → Option Nat) (tile : Nat) : List Move :=
  ((List.range ms.length).filter fun i => ms[i]?.any fun m => isLost s g (loc i) m && windowTile (windowOf g m.space m.dst) == tile).filterMap
    fun i => ms[i]?

/-- R207: a lane of a `cpy` after `taken` more of its `n` elements of `w` bytes, of which `kept` were not discarded. -/
def laneOn (l : LaneCopy) (w taken kept n : Nat) : LaneCopy :=
  { l with
    pos := l.pos + taken, bytes := l.bytes + w * kept, code := if kept = taken then l.code else 5, done := decide (n ≤ l.pos + taken) }

/-- R207: how many elements a lane has in a line from its next one on, of `n` in all; `dst` says where each goes. -/
def InLine (line n : Nat) (dst : Nat → Dword) (pos taken : Nat) : Prop :=
  1 ≤ taken ∧ (∀ j, j < taken → (dst (pos + j)).toNat / 64 = line ∧ (0 < j → pos + j < n)) ∧
    (n ≤ pos + taken ∨ (dst (pos + taken)).toNat / 64 ≠ line)

end Sys2Proof.Claims

/-- R201, R203, R13, R319, R310: what an engine reads: at home the bytes in force, once the W of its gang's earlier stores to the line
has come, zeros of a page that reads so; of the grove's scratchpad its own bytes; of a window its words, once no result whose window has
ended is owed to them. A page that is missing, an access that is not allowed and memory that gives an error say so; a page-table entry
that gives one does too, with 0x0A, by log entry 69; a read over a page's end is of both parts. -/
def Sys2Proof.Claims.EngineReads : Prop :=
  ∀ (s : State) (g : Gang) (x : Cmd) (space : Nat) (a : Dword) (n : Nat), 0 < n → n ≤ 512 →
    (a.toNat % 65536 + n ≤ 65536 →
      (∀ loc sc, space = 0 → s.placeNow g.ctx a 1 = .at_ loc sc → (isHost loc && s.hostLost) = false → s.carries loc = true →
        let seen : Prop := ∀ b, loc ≤ b → b < loc + n → Sparse.get 0 x.seen (b / 64) ≤ s.gtc
        let good : Prop := ∀ b, loc ≤ b → b < loc + n → b / 64 ∉ s.bad
        (¬seen → s.engineRead g x space a n = .wait) ∧ (seen → ¬good → s.engineRead g x space a n = .bad 0x0A) ∧
        (seen → good → ∃ bs, s.engineRead g x space a n = .ok bs ∧ bs.length = n ∧
          ∀ j, j < n → bs.getD j 0 = s.homeByte s.gtc (loc + j))) ∧
      (∀ loc sc, space = 0 → s.placeNow g.ctx a 1 = .at_ loc sc →
        ((isHost loc && s.hostLost) = true → s.engineRead g x space a n = .bad 0x09) ∧
        ((isHost loc && s.hostLost) = false → s.carries loc = false → s.engineRead g x space a n = .wait)) ∧
      (space = 0 → s.placeNow g.ctx a 1 = .zero → s.engineRead g x space a n = .ok (List.replicate n 0)) ∧
      (space = 0 → s.placeNow g.ctx a 1 = .fault 0x04 → s.engineRead g x space a n = .missing a 1) ∧
      (space = 0 → s.placeNow g.ctx a 1 = .fault 0x05 → s.engineRead g x space a n = .bad 0x04) ∧
      (space = 0 → s.placeNow g.ctx a 1 = .fault 0x0F →
        s.engineRead g x space a n = .bad (if a.toNat < 2 ^ 51 ∨ a.toNat / 2 ^ 37 % 2 ^ 14 = s.devnum then 0x0A else 0x09)) ∧
      (space = 1 → g.scratch < a.toNat + n → s.engineRead g x space a n = .bad 0x04) ∧
      (space = 1 → a.toNat + n ≤ g.scratch → (∀ j, j < n → s.reaches (g.scratchAddr (g.scratchBase + a.toNat + j)) = true) →
        ∃ bs, s.engineRead g x space a n = .ok bs ∧ bs.length = n ∧
          ∀ j, j < n → bs.getD j 0 = (s.tile g.tile).scratchByte (g.scratchBase + a.toNat + j)) ∧
      (space = 2 → s.enginePlace g x.sup 2 a n 1 = .window → n % 4 = 0 →
        let owed : Prop := ∃ k, k < n / 4 ∧ s.windowPending (Machine.wordAt a k) = true
        (owed → s.engineRead g x space a n = .wait) ∧
        (¬owed → ∃ bs, s.engineRead g x space a n = .ok bs ∧ bs.length = n ∧
          ∀ k b, k < n / 4 → b < 4 → bs.getD (4 * k + b) 0 = (s.readWindow (Machine.wordAt a k)).extractLsb' (8 * b) 8))) ∧
    (65536 < a.toNat % 65536 + n → ∀ bs cs, let k := 65536 - a.toNat % 65536
      s.engineRead g x space a k = .ok bs → s.engineRead g x space (a + num k) (n - k) = .ok cs →
        s.engineRead g x space a n = .ok (bs ++ cs))

/-- R11, R12, R14, R197, R202, R203, R207-R212: a turn of the copy engine, at the first queue of the rotation with a line to start. It moves
the units of one destination line, at most four: of `bcpy` row by row, of `wcpy` with zeros beyond the image, of `gath` by the index of
each element, of `mcast` to every target, of `czero` as a zero line where it is whole, of `cpy` the elements of every lane that lie
there; they are counted, and discarded units give 0x05; a unit of a window filled by several elements counts once in DROP. A missing
page, of the source or the destination, posts its record and stalls the command; a destination page with a zero hint is asked to be
cleared; another fault ends the command with its code. -/
def Sys2Proof.Claims.CopyMoves : Prop :=
  ∀ s g cls x rest, CopyTurn s g cls x rest →
    (∀ n (ix : Nat → Word) byte loc, x.op ∈ [.bcpy, .wcpy, .gath, .czero] →
      let e := param x 7 % 256
      let ms := (List.range n).map fun i => moveOf x (ix ((x.pos + i) / e)) (x.pos + i)
      let line (u : Nat) : Nat := (moveOf x (ix (u / e)) u).dst.toNat / 64
      let kept := (List.range n).filter fun i => ms[i]?.any fun m => !isLost s g (loc i) m
      1 ≤ n → n ≤ 4 → x.pos + n ≤ unitsOf x → (∀ i, i < n → ¬wholeLine x (x.pos + i) ∧ line (x.pos + i) = line x.pos) →
      (n = 4 ∨ x.pos + n = unitsOf x ∨ line (x.pos + n) ≠ line x.pos) →
      (x.op = .gath → (n ≤ 1 ∨ param x 7 / 4096 % 4 = 0) ∧ ∀ i, i < n ∨ (i = n ∧ n < 4 ∧ x.pos + n < unitsOf x) →
        Indexed s g x ((x.pos + i) / e) (ix ((x.pos + i) / e))) →
      (∀ i m, ms[i]? = some m → Takes s g x m (byte i) ∧ Puts s g x m (loc i)) → Separate ms →
      ∃ t y, TurnsTo s g cls rest t y ∧ y.pos = x.pos + n ∧ y.bytes = x.bytes + 16 * kept.length ∧
        y.code = (if kept.length = n then x.code else 5) ∧ (y.finished = true ↔ unitsOf x = x.pos + n) ∧
        Moved s t g y.maxW ms byte loc fun tile => (lostAt s g ms loc tile).length) ∧
    (∀ a loc, wholeLine x x.pos → a = off (pair x 0) (16 * x.pos : Nat) → Puts s g x ⟨none, 0, a, 64⟩ (some loc) → loc % 64 = 0 →
      ∃ t y w, TurnsTo s g cls rest t y ∧ y.pos = x.pos + 4 ∧ y.bytes = x.bytes + 64 ∧ y.code = x.code ∧
        (y.finished = true ↔ param x 2 / 16 ≤ x.pos + 4) ∧ w ≤ y.maxW ∧ w ∈ (t.home (loc / 64)).blank ∧
        (∀ now j, w ≤ now → j < 64 → t.homeByte now (loc + j) = 0) ∧
        (∀ c, c ∈ (t.tile g.tile).l1 → c.line = loc / 64 → c.zero = true ∧ ∀ j, j < 64 → c.bytes.getD j 0 = 0) ∧
        ∀ now b, b / 64 ≠ loc / 64 → t.homeByte now b = s.homeByte now b) ∧
    (∀ n byte, x.op = .mcast →
      let ms := (List.range n).flatMap fun i => castMoves x (x.pos + i)
      let line (u : Nat) : Nat := ((castMoves x u).head?.map fun m => m.dst.toNat / 64).getD 0
      let kept := ms.filter fun m => !isLost s g none m
      1 ≤ n → n ≤ 4 → 16 * (x.pos + n) ≤ param x 3 → (∀ i, i < n → line (x.pos + i) = line x.pos) →
      (n = 4 ∨ 16 * (x.pos + n) = param x 3 ∨ line (x.pos + n) ≠ line x.pos) → param x 3 % 16 = 0 →
      (∀ i, i < n → ∃ bs, s.engineRead g x (param x 4 / 1024 % 4) (off (pair x 0) (16 * (x.pos + i) : Nat)) 16 = .ok bs) →
      (∀ i m, ms[i]? = some m → Takes s g x m (byte i) ∧ Puts s g x m none) → (n ≤ 1 ∨ param x 4 / 1024 % 4 = 0) →
      (ms.length ≤ 1 ∨ param x 4 / 1024 % 4 ≤ 1) →
      ∃ t y, TurnsTo s g cls rest t y ∧ y.pos = x.pos + n ∧ (y.finished = true ↔ 16 * (x.pos + n) = param x 3) ∧
        y.bytes = x.bytes + 16 * kept.length ∧
        y.code = (if kept.length = ms.length ∧ ∀ z, z ∈ x.targets → 16 * (x.pos + n) ≤ z.room then x.code else 5) ∧
        Moved s t g y.maxW ms byte (fun _ => none) fun tile => (lostAt s g ms (fun _ => none) tile).length +
          ((List.range n).map fun i => (x.targets.filter fun z => decide (z.room < 16 * (x.pos + i) + 16) &&
            windowTile z.addr == tile).length).sum) ∧
    (∀ w line byte loc (taken : Nat → Nat), x.op = .cpy w → (x.copies.map LaneCopy.lane).Nodup →
      let can (l : LaneCopy) : Bool := !l.done && !l.stall
      let dst (l : LaneCopy) (k : Nat) : Dword := off l.dst (w * k : Nat)
      let move (l : LaneCopy) (k : Nat) : Move :=
        ⟨some (param x 4 / 2 ^ 16 % 4, off l.src (w * k : Nat)), param x 4 / 2 ^ 18 % 4, dst l k, w⟩
      let ls := x.copies.filter fun l => can l && decide ((dst l l.pos).toNat / 64 = line)
      let of := ls.flatMap fun l => (List.range (taken l.lane)).map fun _ => l.lane
      let ms := ls.flatMap fun l => (List.range (taken l.lane)).map fun j => move l (l.pos + j)
      (x.copies.find? can).map (fun l => (dst l l.pos).toNat / 64) = some line → w ∈ [4, 8, 16] →
      (∀ l, l ∈ ls → (l.code = 0 ∨ l.code = 5) ∧ InLine line (param x 5) (dst l) l.pos (taken l.lane)) →
      (∀ i m, ms[i]? = some m → Takes s g x m (byte i) ∧ Puts s g x m (loc i)) → Separate ms →
      let lost (i : Nat) : Bool := ms[i]?.any fun m => isLost s g (loc i) m
      ∃ t y, TurnsTo s g cls rest t y ∧
        (∀ l, l ∈ x.copies → l ∉ ls → l ∈ y.copies) ∧ y.copies.map LaneCopy.lane = x.copies.map LaneCopy.lane ∧
        (∀ l, l ∈ ls → laneOn l w (taken l.lane)
          ((List.range ms.length).filter fun i => of.getD i 32 == l.lane && !lost i).length (param x 5) ∈ y.copies) ∧
        (y.finished = true ↔ ∀ l, l ∈ y.copies → l.done = true) ∧
        Moved s t g y.maxW ms byte loc fun tile =>
          ((lostAt s g ms loc tile).map fun m => unitOf (windowOf g m.space m.dst)).eraseDups.length) ∧
    (∀ sp a ix, x.op ∈ [.bcpy, .wcpy, .gath] → let m := moveOf x ix x.pos
      (x.op = .gath → x.index = some (x.pos / (param x 7 % 256), ix)) → m.from_ = some (sp, a) → x.pos < unitsOf x →
      (∀ b, s.engineRead g x sp a 16 = .missing b 1 → ∃ t y r, TurnsTo s g cls rest t y ∧ y.stall = true ∧ y.pos = x.pos ∧ y.bytes = x.bytes ∧
        (t.ctx g.ctx).posts = (s.ctx g.ctx).posts ++ [r] ∧ r.kind = 4 ∧ r.cause = 0x04 ∧ r.tile = g.tile ∧ r.slot = g.slot % 32 ∧
        r.gen = g.gen ∧ r.cls = cls ∧ r.addr = b ∧ r.step = x.pos ∧ r.need = 1) ∧
      (∀ k, s.engineRead g x sp a 16 = .bad k → ∃ t y, TurnsTo s g cls rest t y ∧ y.code = k ∧ y.finished = true ∧ y.pos = x.pos ∧
        ∀ now b, t.homeByte now b = s.homeByte now b)) ∧
    (∀ ix byte, x.op ∈ [.bcpy, .wcpy, .gath, .czero] → let m := moveOf x ix x.pos
      (x.op = .gath → x.index = some (x.pos / (param x 7 % 256), ix)) → ¬wholeLine x x.pos → x.pos < unitsOf x → Takes s g x m byte →
      (s.enginePlace g x.sup m.space m.dst 16 2 = .missing → ∃ t y r, TurnsTo s g cls rest t y ∧ y.stall = true ∧ y.pos = x.pos ∧
        y.bytes = x.bytes ∧ (t.ctx g.ctx).posts = (s.ctx g.ctx).posts ++ [r] ∧ r.kind = 4 ∧ r.cause = 0x04 ∧ r.tile = g.tile ∧
        r.slot = g.slot % 32 ∧ r.gen = g.gen ∧ r.cls = cls ∧ r.addr = m.dst ∧ r.step = x.pos ∧ r.need = 2 ∧
        ∀ now b, t.homeByte now b = s.homeByte now b) ∧
      (∀ k, s.enginePlace g x.sup m.space m.dst 16 2 = .bad k → ∃ t y, TurnsTo s g cls rest t y ∧ y.code = k ∧ y.finished = true ∧
        y.pos = x.pos ∧ ∀ now b, t.homeByte now b = s.homeByte now b) ∧
      (s.enginePlace g x.sup m.space m.dst 16 2 = .clear → ∃ t y, TurnsTo s g cls rest t y ∧ y.pos = x.pos ∧ y.stall = false ∧
        y.finished = false ∧ (∃ z, z ∈ t.walks ∧ z.clear = true ∧ z.of g.ctx (tableVa m.dst) = true) ∧
        ∀ now b, t.homeByte now b = s.homeByte now b))

/-- R201, R203, R13, R319, R310: what an engine reads: at home the bytes in force, once the W of its gang's earlier stores to the line has
come, zeros of a page that reads so; of the grove's scratchpad its own bytes; of a window its words, once no result whose window has ended
is owed to them. A page that is missing, an access that is not allowed and memory that gives an error say so; a page-table entry that gives
one does too, with 0x0A, by log entry 69; a read over a page's end is of both parts; R11, R12, R14, R197, R202, R203, R207-R212: a turn of
the copy engine, at the first queue of the rotation with a line to start. It moves the units of one destination line, at most four: of
`bcpy` row by row, of `wcpy` with zeros beyond the image, of `gath` by the index of each element, of `mcast` to every target, of `czero` as
a zero line where it is whole, of `cpy` the elements of every lane that lie there; they are counted, and discarded units give 0x05; a unit
of a window filled by several elements counts once in DROP. A missing page, of the source or the destination, posts its record and stalls
the command; a destination page with a zero hint is asked to be cleared; another fault ends the command with its code. The model's choices:
engines translate at once, without a TLB (log entry 32); lanes of one 16 B unit count one DROP (log entry 28), a unit without a gang or
register one (log entry 31), a unit that straddles an allocation's end is cut there (log entry 55); the order of the codes (log entry 69). -/
def Obligations.EngineDataMovement : Prop := Sys2Proof.Claims.EngineReads ∧ Sys2Proof.Claims.CopyMoves

/-- R197, R198, R203, R205, R222, R113, R14: a command at the head of its queue that has run, and whose writes have completed, ends with its
status, a `cpy` with that of each lane; one whose pennant is false ends with code 0x01. At a tile that holds writes back the end waits and
only wakes it; the status of a gang that has ended is discarded, and counted in DROP. The model's choices: DROP rises once for a command of
an ended gang (log entry 31), a gang that has ended counts as retired (log entry 70), and COUNT of `wld`, `accrd`, `accwr` and `accz` is 0
(log entry 33). -/
def Obligations.CommandsComplete : Prop :=
  ∀ s g x rest cls i, (i = .copyComplete ∧ cls = s.subject.part ∧ cls ≤ 1) ∨ (i = .matrixPassComplete ∧ cls = 2) ∨
      (i = .collComplete ∧ cls = 3 ∧ (x.phase ≠ 3 ∨ x.finished = true ∨ x.decided = some false)) → Ends s g cls x rest →
    let done (b : Nat) : Nat := (b + 15) / 16
    let count := if cls = 2 then min x.pos (match x.op with
      | .mma => 1
      | .mloop | .mrec => (x.params.getD 8 0).toNat
      | _ => 0) else done x.bytes
    let ready : Prop := (x.decided = some true ∧ x.finished = true ∧ x.maxW ≤ s.gtc) ∨ x.decided = some false
    let word := if x.decided = some false then status 1 0 else status x.code count
    (ready → g.ended = false → s.holds g.tile = false → Reports s g i cls x rest word fun l =>
      match x.copies.find? fun c => c.lane == l with
      | some c => if x.decided = some false then status 1 0 else status c.code (done c.bytes)
      | none => word) ∧
    (ready → s.holds g.tile = true → exec i s = .next (s.wakeTile g.tile)) ∧
    (ready → g.ended = true → s.holds g.tile = false → ∃ t, exec i s = .next t ∧
      (t.tile g.tile).drop.toNat = min (2 ^ 32 - 1) ((s.tile g.tile).drop.toNat + 1) ∧
      (∀ h, t.gang? g.tile g.slot = some h → h.queues.getD cls [] = headsDecided g rest ∧ h.pend = g.pend) ∧
      ∀ now a, t.homeByte now a = s.homeByte now a) ∧
    (¬ready → exec i s = .next s)


namespace Sys2Proof.Claims

/-- R214: an integer operand code's number. -/
def intCode (et c : Nat) : Int :=
  if et = 7 then (BitVec.ofNat 8 c).toInt else if et = 8 then ((c % 256 : Nat) : Int)
  else if et = 9 then (BitVec.ofNat 4 c).toInt else ((c % 16 : Nat) : Int)

/-- R77, R82: an SC8 scale as significand and exponent, 1 where an operand carries none; whether it is NaN. -/
def scaleOf (c : Option Nat) : Int × Int :=
  match c with
  | none => (1, 0)
  | some c => if c / 8 = 0 then ((c % 8 : Nat), -18) else ((8 + c % 8 : Nat), (c / 8 : Nat) - 19)
def scaleNan (c : Option Nat) : Prop := c = some 255

/-- R66: element `e` of packed bytes. -/
def packed (et : Nat) (bs : List Byte) (e : Nat) : Nat := natOfBytes bs / 2 ^ (bitsOf et * e) % 2 ^ bitsOf et

/-- An FP32 word of packed bytes. -/
def wordOfRow (bs : List Byte) (n : Nat) : Word := BitVec.ofNat 32 (natOfBytes bs / 2 ^ (32 * n))

/-- R214: elements of K that a step takes. -/
def stepOf (a w : Nat) : Nat := if bitsOf a = 4 ∧ bitsOf w = 4 then 256 else 128

/-- R215: the order of a round. -/
def precedes (a b : Resv) : Prop :=
  b.pri < a.pri ∨ (a.pri = b.pri ∧ (a.age < b.age ∨ (a.age = b.age ∧ (a.tile < b.tile ∨ (a.tile = b.tile ∧ a.slot < b.slot)))))

/-- R215: the next pass of a cluster's matrix engine is that of the entry `e`, of the gang `g` with head command `x`; `fresh` says that it
begins a round. -/
structure Granted (s : State) (e : Resv) (g : Gang) (x : Cmd) (rest : List Cmd) (fresh : Bool) : Prop where
  entry : e ∈ (s.cluster s.subject.unit).resv
  apart : (s.cluster s.subject.unit).resv.Pairwise fun a b => ¬(a.tile = b.tile ∧ a.slot = b.slot)
  gang : s.gang? e.tile e.slot = some g
  here : g.tile = e.tile ∧ g.slot = e.slot ∧ g.tile / 4 = s.subject.unit
  head : g.queues.getD 2 [] = x :: rest
  open_ : x.finished = false ∧ x.stall = false ∧ (x.code = 0 ∨ x.code = 5)
  works : engineWorks s g
  marked : e.granted = fresh
  first : ∀ o, o ∈ (s.cluster s.subject.unit).resv → o ≠ e → s.grantable o = true →
    (fresh = true → o.granted = true) ∧ (fresh = false → o.granted = true ∨ precedes e o) ∧ (fresh = true → precedes e o)

/-- R215: after the pass: the command `y` at the head of the gang's queue, and the table, from which an ended command is gone. -/
def PassLeaves (s t : State) (e : Resv) (rest : List Cmd) (fresh : Bool) (y : Cmd) (h : Gang) : Prop :=
  exec .matrixPassGrant s = .next t ∧ t.gang? e.tile e.slot = some h ∧ h.queues.getD 2 [] = y :: rest ∧
    ∀ r, r ∈ (t.cluster s.subject.unit).resv ↔ ∃ o, o ∈ (s.cluster s.subject.unit).resv ∧
      ((o = e ∧ y.finished = false ∧ r = { e with granted := true }) ∨
        (o ≠ e ∧ r = if fresh then { o with granted := false } else o))

/-- Table 10.8: the progress words after a pass: of the banks `bs` that the command uses its own, NAN and INF set beside where its values
called for it. -/
def Noted (s t : State) (g : Gang) (y : Cmd) (bs : List Nat) (code steps : Nat) (nan inf : Prop) : Prop :=
  (s.cluster s.subject.unit).prog.length = 2 → ∀ b, b < 2 →
    let o := (s.cluster s.subject.unit).prog.getD b 0
    let w := (t.cluster s.subject.unit).prog.getD b 0
    (b ∉ bs → w = o) ∧
    (b ∈ bs → (w.extractLsb' 60 4).toNat = code ∧ (w.getLsbD 59 = true ↔ o.getLsbD 59 = true ∨ nan) ∧
      (w.getLsbD 58 = true ↔ o.getLsbD 58 = true ∨ inf) ∧ w.getLsbD 57 = y.stall ∧ (w.extractLsb' 52 5).toNat = g.slot % 32 ∧
      (w.extractLsb' 50 2).toNat = g.tile % 4 ∧ (w.extractLsb' 48 2).toNat = 0 ∧ (w.extractLsb' 24 24).toNat = steps % 2 ^ 24 ∧
      (w.extractLsb' 0 24).toNat = min y.pos steps % 2 ^ 24)

/-- The accumulator words of a cluster after a pass: `f` in so many words from a place on, the others as before. -/
def Acc (s t : State) (base n : Nat) (f : Nat → Word) : Prop :=
  ∀ k, (t.cluster s.subject.unit).accWord k =
    if base ≤ k ∧ k < base + n then f (k - base) else (s.cluster s.subject.unit).accWord k

/-- R216: the weight tile of a gang's binding: what the latches hold of it, or else what its source has now. -/
def Weights (s : State) (g : Gang) (x : Cmd) (b : Binding) (w : Nat → Nat → Nat) (sc : Nat → Nat → Option Nat) : Prop :=
  let rows := if bitsOf b.format = 4 then 256 else 128
  let sp := if b.scratch then 1 else 0
  let mine (l : Latch) : Prop := l.ctx = g.ctx ∧ l.binding = b ∧ (b.scratch = true → l.tile = g.tile ∧ l.sbase = g.scratchBase)
  g.binding = some b ∧
  ((∃ l, (s.cluster (g.tile / 4)).latch = some l ∧ mine l ∧ (∀ j n, w j n = (l.rows.getD j []).getD n 0) ∧
      ∀ i n, sc i n = if l.scales = [] then none else some (l.scales.getD (i * 128 + n) 0)) ∨
    ((∀ l, (s.cluster (g.tile / 4)).latch = some l → ¬mine l) ∧
      (∀ j, j < rows → ∃ bs, s.engineRead g x sp (b.base + num (j * b.stride.toNat)) (16 * bitsOf b.format) = .ok bs ∧
        ∀ n, n < 128 → w j n = packed b.format bs n) ∧
      (b.scaled = false → ∀ i n, sc i n = none) ∧
      (b.scaled = true → ∀ i, i < rows / 32 → ∃ bs, s.engineRead g x sp (b.scale + num (128 * i)) 128 = .ok bs ∧
        ∀ n, n < 128 → sc i n = some (bs.getD n 0).toNat)))

/-- Table 10.6: element `e` of row `m` of the registers an `mma` took, and the scale of block `i` of the row. -/
def fragOf (x : Cmd) (m e : Nat) : Nat :=
  let word (reg lane : Nat) : Nat := (x.data.getD (reg * 32 + lane) 0).toNat
  if bitsOf x.et = 16 then word (2 * m + e / 64) (e % 64 / 2) / 2 ^ (16 * (e % 2)) % 2 ^ 16
  else if bitsOf x.et = 4 then word m (e / 8) / 2 ^ (4 * (e % 8)) % 16
  else word m (e / 4) / 2 ^ (8 * (e % 4)) % 256
def fragScale (x : Cmd) (m i : Nat) : Option Nat :=
  let regs := (if bitsOf x.et = 16 then 2 else 1) * (param x 0 / 2 ^ 16 % 64 + 1)
  if param x 0 / 2 ^ 14 % 2 = 0 then none else some ((x.data.getD ((regs + i / 4) * 32 + m) 0).toNat / 2 ^ (8 * (i % 4)) % 256)

/-- R220: a row of 512 bytes as it is written, each part with its offset in the row: whole but for a page's end, or unit by unit in the
scratchpad. -/
def rowParts (space : Nat) (a : Dword) : List (Move × Nat) :=
  if space = 1 then (List.range 32).map fun u => (⟨none, 1, a + num (16 * u), 16⟩, 16 * u)
  else
    let k := min 512 (65536 - a.toNat % 65536)
    if k = 512 then [(⟨none, space, a, 512⟩, 0)] else [(⟨none, space, a, k⟩, 0), (⟨none, space, a + num k, 512 - k⟩, k)]

/-- A byte of a row of FP32 words. -/
def rowByte (f : Nat → Word) (j : Nat) : Byte := (f (j / 4)).extractLsb' (8 * (j % 4)) 8

/-- R219, R220: rows written: row `r` at `addr r` with the words `f r`. -/
def RowsWritten (s t : State) (g : Gang) (x y : Cmd) (space n : Nat) (addr : Nat → Dword) (f : Nat → Nat → Word) (loc : Nat → Option Nat) :
    Prop :=
  let parts := (List.range n).flatMap fun r => (rowParts space (addr r)).map fun p => (p, r)
  let ms := parts.map fun p => p.1.1
  y.code = (if (List.range ms.length).all (fun i => ms[i]?.all fun m => !isLost s g (loc i) m) then x.code else 5) ∧
    Moved s t g y.maxW ms (fun i j => (parts[i]?.map fun p => rowByte (f p.2) (p.1.2 + j)).getD 0) loc
      fun tile => (lostAt s g ms loc tile).length

/-- The places that rows have. -/
def RowsPut (s : State) (g : Gang) (x : Cmd) (space n : Nat) (addr : Nat → Dword) (loc : Nat → Option Nat) : Prop :=
  let ms := (List.range n).flatMap fun r => (rowParts space (addr r)).map Prod.fst
  g.scratch ≤ 2 ^ 18 ∧ g.tile < 768 ∧ (∀ r, r < n → (addr r).toNat % 16 = 0) ∧ ∀ i m, ms[i]? = some m → Puts s g x m (loc i)

end Sys2Proof.Claims

/-- R82, R83, R84, R77: a block: of finite elements its exact sum under both scales, rounded once to nearest even; NaN and infinities as
R83 has them; the accumulator takes the blocks in order, each sum rounded once more. Integers are exact before the rounding. The
residual of a quantised value is what is left of it, and +0 where either is not finite (R219). -/
def Sys2Proof.Claims.MatrixBlocks : Prop :=
  (∀ ea eb n (a b : Nat → Nat), 7 ≤ ea → ea ≤ 10 → 7 ≤ eb → eb ≤ 10 → n ≤ 32 →
    let sum : Int := ((List.range n).map fun j => intCode ea (a j) * intCode eb (b j)).sum
    ((List.range n).foldl (fun (t : BlockSum) j => t.add (Num.element ea (a j)) (Num.element eb (b j))) {}).word none none =
      if sum = 0 then 0 else (Num.ofInt .rne sum).w) ∧
  (∀ ea eb n (a b : Nat → Nat) sa sb (k : Nat), (∀ c, sa = some c ∨ sb = some c → c < 256) →
    let x (j : Nat) := Num.element ea (a j)
    let y (j : Nat) := Num.element eb (b j)
    let t := (List.range n).foldl (fun (t : BlockSum) j => t.add (x j) (y j)) {}
    let m := (scaleOf sa).1 * (scaleOf sb).1
    let up (j : Nat) : Int := (x j).dy.e + (y j).dy.e + (scaleOf sa).2 + (scaleOf sb).2 + 149 + k
    let nan : Prop := scaleNan sa ∨ scaleNan sb ∨ ∃ j, j < n ∧ ((x j).isNan = true ∨ (y j).isNan = true ∨
      ((x j).isInf = true ∧ (y j).isZero = true) ∨ ((x j).isZero = true ∧ (y j).isInf = true))
    let inf (neg : Bool) : Prop := ∃ j, j < n ∧ ((x j).isInf = true ∨ (y j).isInf = true) ∧ ((x j).neg != (y j).neg) = neg
    (¬nan → (∀ j, j < n → (x j).isFinite = true ∧ (y j).isFinite = true ∧ 0 ≤ up j) →
      RoundsTo .rne k ((List.range n).map fun j => (x j).dy.m * (y j).dy.m * m * 2 ^ (up j).toNat).sum false (t.word sa sb)) ∧
    (nan ∨ (inf true ∧ inf false) → t.word sa sb = 0x7FC00000) ∧
    (∀ neg, ¬nan → inf neg → ¬inf (!neg) → t.word sa sb = if m = 0 then 0x7FC00000 else if neg then 0xFF800000 else 0x7F800000)) ∧
  (∀ n a b sa sb acc, dotBlocks 0 a b sa sb acc = acc ∧
    dotBlocks (32 * (n + 1)) a b sa sb acc =
      (Num.addV ⟨.rne, false, false⟩ (Num.val (dotBlocks (32 * n) a b sa sb acc))
        (Num.val (((List.range 32).foldl (fun (t : BlockSum) j => t.add (a (32 * n + j)) (b (32 * n + j))) {}).word (sa n) (sb n)))).w) ∧
  (∀ et c w (k : Nat), let v := Num.val w
    let a := Num.element et c
    ((v.isFinite && a.isFinite) = false → residual et c w = 0) ∧
    ((v.isFinite && a.isFinite) = true → 0 ≤ v.dy.e + 149 + k → 0 ≤ a.dy.e + 149 + k →
      RoundsTo .rne k (v.dy.m * 2 ^ (v.dy.e + 149 + k).toNat - a.dy.m * 2 ^ (a.dy.e + 149 + k).toNat) false (residual et c w)))

/-- R214-R221: passes of the matrix engine, granted in the order of a round. A `wld` binds and latches its tile; an `mma` adds the blocks of
its rows and the bound tile to its accumulator rows; an `mloop` does so step by step with operands from memory, up to 64 steps a
pass; an `mrec` feeds its state back through its quantised values, with the residual, and stores it where asked, or stalls at a missing page of either; `accrd`,
`accwr` and `accz` store, load and clear rows. The banks' progress words are written. -/
def Sys2Proof.Claims.MatrixPasses : Prop :=
  ∀ s e g x rest fresh, Granted s e g x rest fresh →
    (∀ scratch (row sl : Nat → List Byte), x.op = .wld scratch →
      let et := param x 3 % 64
      let rows := if bitsOf et = 4 then 256 else 128
      let scaled := (x.params.getD 3 0).getLsbD 6
      let b : Binding := ⟨scratch, pair x 0, x.params.getD 2 0, et, scaled, if scaled then pair x 4 else 0⟩
      let sp := if scratch then 1 else 0
      (∀ j, j < rows → s.engineRead g x sp (pair x 0 + num (j * param x 2)) (16 * bitsOf et) = .ok (row j)) →
      (scaled = true → ∀ i, i < rows / 32 → s.engineRead g x sp (pair x 4 + num (128 * i)) 128 = .ok (sl i)) →
      ∃ t h y l, PassLeaves s t e rest fresh y h ∧ y.finished = true ∧ y.code = x.code ∧ h.binding = some b ∧
        (t.cluster s.subject.unit).latch = some l ∧ l.ctx = g.ctx ∧ l.binding = b ∧ l.tile = g.tile ∧ l.sbase = g.scratchBase ∧
        (∀ j n, j < rows → n < 128 → (l.rows.getD j []).getD n 0 = packed et (row j) n) ∧ (scaled = false → l.scales = []) ∧
        (scaled = true → ∀ i n, i < rows / 32 → n < 128 → l.scales.getD (i * 128 + n) 0 = ((sl i).getD n 0).toNat) ∧
        Acc s t 0 0 (fun _ => 0) ∧ ∀ now a, t.homeByte now a = s.homeByte now a) ∧
    (x.op = .mma ∨ x.op = .mrec → g.binding = none → ∃ t h y, PassLeaves s t e rest fresh y h ∧ y.finished = true ∧ y.code = 0x07 ∧
      Acc s t 0 0 (fun _ => 0) ∧ ∀ now a, t.homeByte now a = s.homeByte now a) ∧
    (∀ b w sc, x.op = .mma → Weights s g x b w sc →
      let k := stepOf x.et b.format
      let bank := param x 0 / 2 ^ 22 % 2
      let base := bank * 16384 + param x 0 / 2 ^ 24 % 128 * 128
      let n := 128 * (param x 0 / 2 ^ 16 % 64 + 1)
      let f (i : Nat) : Word := dotBlocks k (fun j => Num.element x.et (fragOf x (i / 128) j)) (fun j => Num.element b.format (w j (i % 128)))
        (fragScale x (i / 128)) (fun j => sc j (i % 128)) ((s.cluster s.subject.unit).accWord (base + i))
      let short : Prop := k = 256 ∧ param x 0 / 2 ^ 14 % 2 = 1 ∧ g.nv ≤ param x 0 / 256 % 64 + 1
      (short → ∃ t h y, PassLeaves s t e rest fresh y h ∧ y.finished = true ∧ y.code = 0x03) ∧
      (¬short → ∃ t h y, PassLeaves s t e rest fresh y h ∧ y.finished = true ∧ y.code = x.code ∧ y.pos = 1 ∧ Acc s t base n f ∧
        Noted s t g y [bank] 1 1 (∃ i, i < n ∧ isNan (f i) = true) (∃ i, i < n ∧ isInf (f i) = true) ∧
        ∀ now a, t.homeByte now a = s.homeByte now a)) ∧
    (∀ (row asc wrow wsc : Nat → Nat → List Byte) (acc : Nat → Nat → Word), x.op = .mloop →
      let at_ := x.params.getD 9 0
      let aet := param x 9 % 64
      let wet := param x 9 / 64 % 64
      let k := stepOf aet wet
      let bank := param x 9 / 2 ^ 14 % 2
      let base := bank * 16384 + param x 9 / 2 ^ 15 % 128 * 128
      let m := param x 9 / 2 ^ 22 % 128 + 1
      let asp := param x 9 / 2 ^ 29 % 2
      let wsp := param x 9 / 2 ^ 30 % 2
      let steps := min 64 (param x 8 - x.pos)
      x.pos < param x 8 →
      (∀ j, j < steps → let t := x.pos + j
        (∀ i, i < m → s.engineRead g x asp (off (pair x 0) (t * signed x 2) + num (i * param x 3)) (k * bitsOf aet / 8) = .ok (row j i)) ∧
        (at_.getLsbD 12 = true → ∀ i, i < m → s.engineRead g x asp (pair x 10 + num ((t * m + i) * (k / 32))) (k / 32) = .ok (asc j i)) ∧
        (∀ i, i < k → s.engineRead g x wsp (off (pair x 4) (t * signed x 6) + num (i * param x 7)) (16 * bitsOf wet) = .ok (wrow j i)) ∧
        (at_.getLsbD 13 = true → ∀ i, i < k / 32 →
          s.engineRead g x wsp (pair x 12 + num (t * 128 * (k / 32)) + num (128 * i)) 128 = .ok (wsc j i)) ∧
        ∀ i, i < 128 * m → acc (j + 1) i = dotBlocks k (fun e => Num.element aet (packed aet (row j (i / 128)) e))
          (fun e => Num.element wet (packed wet (wrow j e) (i % 128)))
          (fun b => if at_.getLsbD 12 then some ((asc j (i / 128)).getD b 0).toNat else none)
          (fun b => if at_.getLsbD 13 then some ((wsc j b).getD (i % 128) 0).toNat else none) (acc j i)) →
      (∀ i, i < 128 * m → acc 0 i = (s.cluster s.subject.unit).accWord (base + i)) →
      ∃ t h y, PassLeaves s t e rest fresh y h ∧ y.pos = x.pos + steps ∧ y.code = x.code ∧
        (y.finished = true ↔ param x 8 ≤ x.pos + steps) ∧ Acc s t base (128 * m) (acc steps) ∧ (t.cluster s.subject.unit).latch = none ∧
        h.binding = g.binding ∧
        Noted s t g y [bank] 2 (param x 8) (∃ j i, j < steps ∧ i < 128 * m ∧ isNan (acc (j + 1) i) = true)
          (∃ j i, j < steps ∧ i < 128 * m ∧ isInf (acc (j + 1) i) = true) ∧
        ∀ now a, t.homeByte now a = s.homeByte now a) ∧
    (∀ b w sc (u : Nat → Nat → List Byte) (hh rr : Nat → Nat → Word) loc, x.op = .mrec → Weights s g x b w sc →
      let et := param x 9 % 64
      let res := (x.params.getD 9 0).getLsbD 6
      let out := (x.params.getD 9 0).getLsbD 7
      let m := param x 9 / 256 % 128 + 1
      let sp := param x 9 / 2 ^ 15 % 2
      let steps := min 64 (param x 8 - x.pos)
      let v (j i : Nat) : Word := if res then (Num.addV ⟨.rne, false, false⟩ (Num.val (hh j i)) (Num.val (rr j i))).w else hh j i
      let uAt (j i : Nat) : Dword := off (pair x 0) ((x.pos + j : Nat) * signed x 2 + (i * param x 3 : Nat))
      let yAt (j i : Nat) : Dword := off (pair x 4) ((x.pos + j : Nat) * signed x 6 + (i * param x 7 : Nat))
      x.pos < param x 8 → (∀ i, i < 128 * m → hh 0 i = (s.cluster s.subject.unit).accWord i) →
      (∀ i, i < 128 * m → rr 0 i = (s.cluster s.subject.unit).accWord (16384 + i)) →
      (∀ j, j < steps → (∀ i, i < m → s.engineRead g x sp (uAt j i) 512 = .ok (u j i)) ∧
        ∀ i, i < 128 * m →
          hh (j + 1) i = dotBlocks 128 (fun n => Num.element et (quantise et (v j (i / 128 * 128 + n))).1)
            (fun n => Num.element b.format (w n (i % 128))) (fun _ => none) (fun n => sc n (i % 128)) (wordOfRow (u j (i / 128)) (i % 128)) ∧
          rr (j + 1) i = if res then residual et (quantise et (v j i)).1 (v j i) else rr j i) →
      (out = true → RowsPut s g x sp (steps * m) (fun r => yAt (r / m) (r % m)) loc ∧
        (sp = 1 → ∀ j i j' i', j < steps → j' < steps → i < m → i' < m →
          (uAt j i).toNat + 512 ≤ (yAt j' i').toNat ∨ (yAt j' i').toNat + 512 ≤ (uAt j i).toNat)) →
      ∃ t h y, PassLeaves s t e rest fresh y h ∧ y.pos = x.pos + steps ∧ (y.finished = true ↔ param x 8 ≤ x.pos + steps) ∧
        (∀ k, (t.cluster s.subject.unit).accWord k =
          if k < 128 * m then hh steps k
          else if res = true ∧ 16384 ≤ k ∧ k < 16384 + 128 * m then rr steps (k - 16384)
          else (s.cluster s.subject.unit).accWord k) ∧
        Noted s t g y [0, 1] 3 (param x 8) (∃ j i, j < steps ∧ i < 128 * m ∧ isNan (hh (j + 1) i) = true)
          (∃ j i, j < steps ∧ i < 128 * m ∧ (isInf (hh (j + 1) i) = true ∨ (quantise et (v j i)).2 = true)) ∧
        (out = true → RowsWritten s t g x y sp (steps * m) (fun r => yAt (r / m) (r % m)) (fun r n => hh (r / m + 1) (r % m * 128 + n)) loc) ∧
        (out = false → y.code = x.code ∧ ∀ now a, t.homeByte now a = s.homeByte now a)) ∧
    (∀ b w sc (u : Nat → List Byte) a, x.op = .mrec → Weights s g x b w sc → x.pos < param x 8 →
      let m := param x 9 / 256 % 128 + 1
      let sp := param x 9 / 2 ^ 15 % 2
      let uAt (i : Nat) : Dword := off (pair x 0) (x.pos * signed x 2 + (i * param x 3 : Nat))
      let stalls (need : Nat) : Prop := ∃ t h y q, PassLeaves s t e rest fresh y h ∧ y.stall = true ∧ y.finished = false ∧ y.pos = x.pos ∧
        y.code = x.code ∧ (t.ctx g.ctx).posts = (s.ctx g.ctx).posts ++ [q] ∧ q.kind = 4 ∧ q.cause = 0x04 ∧ q.tile = g.tile ∧
        q.slot = g.slot % 32 ∧ q.gen = g.gen ∧ q.cls = 2 ∧ q.addr = a ∧ q.step = x.pos ∧ q.need = need ∧ Acc s t 0 0 (fun _ => 0) ∧
        ∀ now a, t.homeByte now a = s.homeByte now a
      (∀ i, i < m → (∀ j, j < i → s.engineRead g x sp (uAt j) 512 = .ok (u j)) → s.engineRead g x sp (uAt i) 512 = .missing a 1 → stalls 1) ∧
      ((∀ i, i < m → s.engineRead g x sp (uAt i) 512 = .ok (u i)) → (x.params.getD 9 0).getLsbD 7 = true →
        a = off (pair x 4) (x.pos * signed x 6) → a.toNat % 65536 + 512 ≤ 65536 → s.enginePlace g x.sup sp a 512 2 = .missing → stalls 2)) ∧
    (x.op = .accz → x.pos = 0 →
      let bank := param x 0 / 2 ^ 15 % 2
      let rows := param x 0 / 256 % 128 + 1
      ∃ t h y, PassLeaves s t e rest fresh y h ∧ y.finished = true ∧ y.code = x.code ∧
        Acc s t (bank * 16384 + param x 0 % 128 * 128) (128 * rows) (fun _ => 0) ∧ Noted s t g y [bank] 6 0 False False ∧
        ∀ now a, t.homeByte now a = s.homeByte now a) ∧
    (∀ (row : Nat → List Byte), x.op = .accwr → x.pos = 0 →
      let bank := param x 3 / 2 ^ 15 % 2
      let rows := param x 3 / 256 % 128 + 1
      (∀ r, r < rows → s.engineRead g x (param x 3 / 2 ^ 16 % 2) (pair x 0 + num (r * param x 2)) 512 = .ok (row r)) →
      ∃ t h y, PassLeaves s t e rest fresh y h ∧ y.finished = true ∧ y.code = x.code ∧
        Acc s t (bank * 16384 + param x 3 % 128 * 128) (128 * rows) (fun i => wordOfRow (row (i / 128)) (i % 128)) ∧
        Noted s t g y [bank] 5 0 False False ∧ ∀ now a, t.homeByte now a = s.homeByte now a) ∧
    (∀ loc, x.op = .accrd → x.pos = 0 →
      let bank := param x 3 / 2 ^ 15 % 2
      let rows := param x 3 / 256 % 128 + 1
      let at_ (r : Nat) : Dword := pair x 0 + num (r * param x 2)
      RowsPut s g x (param x 3 / 2 ^ 16 % 2) rows at_ loc →
      ∃ t h y, PassLeaves s t e rest fresh y h ∧ y.finished = true ∧ Acc s t 0 0 (fun _ => 0) ∧ Noted s t g y [bank] 4 0 False False ∧
        RowsWritten s t g x y (param x 3 / 2 ^ 16 % 2) rows at_
          (fun r n => (s.cluster s.subject.unit).accWord (bank * 16384 + (param x 3 % 128 + r) * 128 + n)) loc)

/-- R215, R221, R282: a gang's head command takes its place in the reservation table; a slew window begins with the count of the one before;
`mstat` awaits its bank's progress word, with ACT and STALL as the gangs' commands stand, and clears NAN and INF where asked. -/
def Sys2Proof.Claims.MatrixCommands : Prop :=
  (∀ s g x rest, s.gang? s.subject.unit s.subject.slot = some g → g.queues.getD 2 [] = x :: rest → x.decided = some true →
    x.finished = false → engineWorks s g → (s.cluster (g.tile / 4)).resv.length < 16 →
    (∀ e, e ∈ (s.cluster (g.tile / 4)).resv → ¬(e.tile = g.tile ∧ e.slot = g.slot)) →
    ∃ t, exec .mtxReservationPost s = .next t ∧ { t with clusters := s.clusters } = s ∧
      (t.cluster (g.tile / 4)).resv = (s.cluster (g.tile / 4)).resv ++
        [{ tile := g.tile, slot := g.slot, pri := min g.pri (s.ctx g.ctx).pri, age := s.gtc }]) ∧
  (∀ s, let k := s.cluster s.subject.unit
    let w := s.gtc * (k.cclk.toNat % 256) / 2560
    exec .mtxSlewWindow s = .next (s.setCluster s.subject.unit
      (if w = k.mtxWin then k else { k with mtxPrev := if w = k.mtxWin + 1 then k.mtxNow else 0, mtxNow := 0, mtxWin := w }))) ∧
  (∀ s c g n p d, Starts s c g (.mstat n p d) →
    let k := g.tile / 4
    let bank := (g.sreg p.toNat).toNat % 2
    let o := (s.cluster k).prog.getD bank 0
    let acts : Prop := ∃ e x, e ∈ s.gangs ∧ e.2.tile / 4 = k ∧ x ∈ e.2.queues.getD 2 [] ∧ x.finished = false ∧
      x.decided ≠ some false ∧ bank ∈ x.banks
    let stalls : Prop := ∃ e x rest, e ∈ s.gangs ∧ e.2.tile / 4 = k ∧ e.2.tile % 4 = (o.extractLsb' 50 2).toNat ∧
      e.2.slot % 32 = (o.extractLsb' 52 5).toNat ∧ e.2.queues.getD 2 [] = x :: rest ∧ x.stall = true ∧ bank ∈ x.banks
    ∀ w : Dword, (∀ j, j < 63 → j ≠ 57 → w.getLsbD j = o.getLsbD j) →
      (w.getLsbD 63 = true ↔ o.getLsbD 63 = true ∨ acts) → (w.getLsbD 57 = true ↔ o.getLsbD 57 = true ∧ stalls) →
      ∃ t h q, exec (.mstat n p d) s = .next t ∧ t.gang? c.tile c.slot = some h ∧ Past g h c ∧
        Left g h g.sreg g.vreg g.pred g.remOf g.fpst (g.pend ++ [q]) ∧
        Opened g c n.toNat q [.sreg d.toNat, .sreg (d.toNat + 1)]
          [(.sreg d.toNat, w.extractLsb' 0 32), (.sreg (d.toNat + 1), w.extractLsb' 32 32)] none ∧
        { t with gangs := s.gangs, clusters := s.clusters } = s ∧
        (∀ b j, b < (s.cluster k).prog.length → ((t.cluster k).prog.getD b 0).getLsbD j =
          (((s.cluster k).prog.getD b 0).getLsbD j &&
            !((g.sreg p.toNat).getLsbD 1 && decide (b = bank) && decide (j = 58 ∨ j = 59)))))

/-- R82, R83, R84, R77, R215, R221, R282: a block: of finite elements its exact sum under both scales, rounded once to nearest even; NaN and
infinities as R83 has them; the accumulator takes the blocks in order, each sum rounded once more. Integers are exact before the rounding.
The residual of a quantised value is what is left of it, and +0 where either is not finite (R219); R214-R221: passes of the matrix engine,
granted in the order of a round. A `wld` binds and latches its tile; an `mma` adds the blocks of its rows and the bound tile to its
accumulator rows; an `mloop` does so step by step with operands from memory, up to 64 steps a pass; an `mrec` feeds its state back through
its quantised values, with the residual, and stores it where asked, or stalls at a missing page of either; `accrd`, `accwr` and `accz`
store, load and clear rows. The banks' progress words are written; a gang's head command takes its place in the reservation table; a slew
window begins with the count of the one before; `mstat` awaits its bank's progress word, with ACT and STALL as the gangs' commands stand,
and clears NAN and INF where asked. The model's choices: STEPS of those commands is 0, ACT and STALL are formed at `mstat`, and an `mloop`
ends the latch (log entry 33); an exact zero block is +0, and a residual that is no FP32 number is rounded (log entry 27). -/
def Obligations.MatrixEngine : Prop := Sys2Proof.Claims.MatrixBlocks ∧ Sys2Proof.Claims.MatrixPasses ∧ Sys2Proof.Claims.MatrixCommands

/-! ### Collectives (spec/10_isa_engines.md R223-R225, spec/18_link.md R325-R328) -/

namespace Sys2Proof.Claims

/-- R81: the order of FP32 numbers, -0 before +0, and the lesser and the greater of two operands, the number of one number and a NaN. -/
def lessF (a b : Word) : Bool := decide (number a < number b) || (decide (number a = number b) && a.msb && !b.msb)
def pickF (first : Word → Word → Bool) (a b : Word) : Word :=
  if isNan a && isNan b then 0x7FC00000 else if isNan a then b else if isNan b then a else if first b a then b else a

/-- R224: the format of a 16-bit type; an element widened, and an FP32 word narrowed. -/
def halfFormat (type : Nat) : Option Num.Ieee := if type = 3 then some Num.ieeeBf else if type = 4 then some Num.ieee16 else none
def widened (type : Nat) (w : Word) : Word :=
  match halfFormat type with
  | some f => Num.word32 (f.decode w.toNat)
  | none => w
def narrowed (type : Nat) (w : Word) : Word :=
  match halfFormat type with
  | some f => BitVec.ofNat 32 (narrow16 f (Num.val w)).1
  | none => w

/-- R224: how two partial results of a type combine under an operation: sums of 16-bit types stand widened, minimum and maximum keep their
type. -/
def joins (type op : Nat) (a b : Word) : Word :=
  if type = 0 then if op = 0 then a + b else if op = 1 then (if a.toInt ≤ b.toInt then a else b) else if a.toInt ≤ b.toInt then b else a
  else if type = 1 then if op = 0 then a + b else if op = 1 then (if a.toNat ≤ b.toNat then a else b) else if a.toNat ≤ b.toNat then b else a
  else if op = 0 then (Num.addV ⟨.rne, false, false⟩ (Num.val a) (Num.val b)).w
  else narrowed type (pickF (fun x y => if op = 1 then lessF x y else lessF y x) (widened type a) (widened type b))

/-- R224: `red(a, 2^k)`. -/
def tree (c : Word → Word → Word) (x : Nat → Word) : Nat → Nat → Word
  | 0, a => x a
  | k + 1, a => c (tree c x k a) (tree c x k (a + 2 ^ k))

/-- R327: the communicator that a command took: its ID, and log2 of its ranks. -/
def commOf (x : Cmd) : Dword := x.data.getD 1 0 ++ x.data.getD 0 0
def ranksLog (x : Cmd) : Nat := (x.data.getD 2 0).toNat

/-- Bytes of an element, elements that a rank sends, and the kind. -/
def elemSize (x : Cmd) : Nat := if 3 ≤ param x 7 % 64 then 2 else 4
def kindOf (x : Cmd) : Nat :=
  match x.op with
  | .coll k => k
  | _ => 0
def sends (x : Cmd) : Nat := if kindOf x = 1 then param x 6 * 2 ^ ranksLog x else param x 6

/-- A collective at the head of its queue has its turn. -/
structure CollTurn (s : State) (g : Gang) (x : Cmd) (rest : List Cmd) : Prop where
  gang : s.gang? s.subject.unit s.subject.slot = some g
  here : g.tile = s.subject.unit ∧ g.slot = s.subject.slot
  head : g.queues.getD 3 [] = x :: rest
  isColl : ∃ k, x.op = .coll k
  open_ : x.decided = some true ∧ x.finished = false ∧ x.stall = false
  works : engineWorks s g
  placed : ∀ e, e ∈ s.gangs → s.gang? e.2.tile e.2.slot = some e.2

/-- R223, R225: whether a rank's frame holds all that the rank sends. -/
def holdsAll (f : CollFrame) : Prop := (if f.kind = 1 then f.count * 2 ^ f.nrLog else f.count) ≤ f.data.length

/-- R325: the state of the transport once so many frames have been numbered for each far peer of a command. -/
def Numbered (s t : State) (g : Gang) (x : Cmd) (n : Nat) : Prop :=
  (∀ p, p ∈ s.farPeers g x ↔ ∃ r w, r < 2 ^ ranksLog x ∧ s.rankWord g.ctx (x.data.getD 6 0 ++ x.data.getD 5 0) r = some w ∧
    w.toNat % 2 ^ 20 = p ∧ p / 2 ^ 14 ≠ s.domain) ∧
  (∀ p, t.peering p = if p ∈ s.farPeers g x then { s.peering p with next := (s.peering p).next + n } else s.peering p) ∧
  t.frames = s.frames ++ (s.farPeers g x).flatMap fun p => (List.range n).map fun k =>
    { peer := p, number := (s.peering p).next + k, first := s.gtc, last := s.gtc, id := commOf x }

/-- R225, R325: elements and the port they came by put behind those of the first frame of a rank that does not hold all it sends. -/
def Fills (s t : State) (id : Dword) (rank port : Nat) (data : List Word) : Prop :=
  let wants (f : CollFrame) : Prop := f.id = id ∧ f.rank = rank ∧ ¬holdsAll f
  ∀ pre f post, s.ranks = pre ++ f :: post → wants f → (∀ o, o ∈ pre → ¬wants o) →
    t.ranks = pre ++ { f with data := f.data ++ data, port := port } :: post

/-- The ranks agree (R225, R327). -/
def Agreed (fs : List CollFrame) : Prop :=
  ∀ f o, f ∈ fs → o ∈ fs → f.killed = false ∧ f.id = o.id ∧ f.nrLog = o.nrLog ∧ f.kind = o.kind ∧ f.count = o.count ∧ f.type = o.type ∧
    f.op = o.op ∧ f.round = o.round

end Sys2Proof.Claims

/-- R224, R328, R223, R81: what a rank receives: of a reduction the tree over the logical ranks, element by element, whole or its own
block; of an all-gather the elements in rank order. -/
def Sys2Proof.Claims.CollectiveValues : Prop :=
  (∀ kind type op nrLog n r (sent : List (List Word)), type ≤ 4 → op ≤ 2 → kind ≤ 1 → sent.length = 2 ^ nrLog →
    collResult kind type op nrLog n r sent = (List.range n).map fun j =>
      let x (i : Nat) : Word := (sent.getD i []).getD (if kind = 1 then r * n + j else j) 0
      if nrLog = 0 then x 0
      else if op = 0 then narrowed type (tree (joins type 0) (fun i => widened type (x i)) nrLog 0)
      else tree (joins type op) x nrLog 0) ∧
  (∀ type op nrLog n r (sent : List (List Word)), (∀ xs, xs ∈ sent → xs.length = n) → sent.length = 2 ^ nrLog →
    collResult 2 type op nrLog n r sent = (List.range (2 ^ nrLog * n)).map fun i => (sent.getD (i / n) []).getD (i % n) 0) ∧
  (∀ nrLog n r (sent : List (List Word)), sent.length = 2 ^ nrLog →
    collResult 0 0 0 nrLog n r sent = (List.range n).map fun j => BitVec.ofNat 32 ((sent.map fun xs => (xs.getD j 0).toNat).sum))

/-- R223, R225, R323, R325, R327, R203, R57, R326: a collective at the head of its queue announces itself to every rank; it waits for them
all; a disagreement, or a killed rank as soon as it is known, ends every rank here with 0x08 and moves nothing; else its elements are
read and sent, in frames of 9,216 bytes at most, and once every rank has sent, each has its result, which goes into its receive buffer as
of the port that brought the last of it. A frame from a peer is delivered once, in order, and acknowledges those before it; one not acknowledged is sent again, and after 100 ms its peer is lost and the commands that need it end
with 0x09. GTC takes the domain's time, and does not go back while a context runs. -/
def Sys2Proof.Claims.CollectivesRun : Prop :=
  (∀ s g x rest, CollTurn s g x rest → x.phase = 0 →
    let mine (f : CollFrame) : Prop := f.id = commOf x ∧ f.rank = param x 1
    let killed : Prop := ∃ n l, g.launch = some n ∧ s.launch? n = some l ∧ l.killed = true
    ((∃ f, f ∈ s.ranks ∧ mine f) → ¬killed → exec .collExchange s = .next s) ∧
    ((∃ f, f ∈ s.ranks ∧ mine f) → killed → ∃ t h, exec .collExchange s = .next t ∧ t.gang? g.tile g.slot = some h ∧
      h.queues.getD 3 [] = { x with phase := 1 } :: rest ∧ { t with gangs := s.gangs } = s) ∧
    ((∀ f, f ∈ s.ranks → ¬mine f) → ∃ t h f, exec .collExchange s = .next t ∧ t.gang? g.tile g.slot = some h ∧
      h.queues.getD 3 [] = { x with phase := 1 } :: rest ∧ t.ranks = s.ranks ++ [f] ∧ mine f ∧ f.nrLog = ranksLog x ∧ f.kind = kindOf x ∧
      f.count = param x 6 ∧ f.type = param x 7 % 64 ∧ f.op = param x 7 / 256 % 4 ∧ f.round = param x 8 ∧ f.data = [] ∧
      (f.killed = true ↔ killed) ∧ Numbered s t g x 1 ∧
      ∀ now a, t.homeByte now a = s.homeByte now a)) ∧
  (∀ s g x rest, CollTurn s g x rest → x.phase = 1 ∨ x.phase = 2 →
    ∀ fs, fs = (List.range (2 ^ ranksLog x)).filterMap (s.rankFrame (commOf x)) →
      let all : Prop := fs.length = 2 ^ ranksLog x
      let killed : Prop := ∃ f, f ∈ fs ∧ f.killed = true
      (¬all → ¬killed → exec .collExchange s = .next s) ∧
      (killed ∨ (all ∧ ¬Agreed fs) → ∃ t, exec .collExchange s = .next t ∧ (∀ now a, t.homeByte now a = s.homeByte now a) ∧
        (∀ f, f ∈ t.ranks → f ∈ s.ranks) ∧ (¬all → t.ranks = s.ranks) ∧
        ∀ e y more, e ∈ s.gangs → e.2.queues.getD 3 [] = y :: more → y.phase = 1 ∨ y.phase = 2 → y.finished = false → commOf y = commOf x →
          ∃ h, t.gang? e.2.tile e.2.slot = some h ∧ h.queues.getD 3 [] = { y with code := 0x08, finished := true } :: more) ∧
      (∀ bs : Nat → List Byte, all → Agreed fs → x.phase = 1 → x.pos = 0 → x.data.length = 7 →
        (∀ i, i < sends x → s.engineRead g x (param x 7 / 1024 % 4) (pair x 2 + num (i * elemSize x)) (elemSize x) = .ok (bs i)) →
        ∃ t h y, exec .collExchange s = .next t ∧ t.gang? g.tile g.slot = some h ∧ h.queues.getD 3 [] = y :: rest ∧ y.phase = 2 ∧
          y.pos = 0 ∧ y.data = x.data ∧ y.finished = false ∧
          Fills s t (commOf x) (param x 1) 0 ((List.range (sends x)).map fun i => BitVec.ofNat 32 (natOfBytes (bs i))) ∧
          Numbered s t g x (max 1 ((sends x * elemSize x + 9215) / 9216)) ∧
          ∀ now a, t.homeByte now a = s.homeByte now a) ∧
      (all → Agreed fs → x.phase = 2 →
        let full : Prop := ∀ f, f ∈ fs → holdsAll f
        let here : Prop := ∀ k, k < (x.data.getD 4 0).toNat → ∃ e y more, e ∈ s.gangs ∧ e.2.queues.getD 3 [] = y :: more ∧ y.phase = 2 ∧
          y.finished = false ∧ commOf y = commOf x ∧ param y 1 = (x.data.getD 3 0).toNat + k
        (¬(full ∧ here) → exec .collExchange s = .next s) ∧
        (full → here → ∃ t h y, exec .collExchange s = .next t ∧ t.gang? g.tile g.slot = some h ∧ h.queues.getD 3 [] = y :: rest ∧
          y.phase = 3 ∧ y.pos = 0 ∧ y.who = ((fs.filter fun f => f.port != 0).getLast?.map fun f => 960 + (f.port - 1)) ∧ (∀ now a, t.homeByte now a = s.homeByte now a) ∧
          y.data = x.data.take 7 ++ collResult (kindOf x) (param x 7 % 64) (param x 7 / 256 % 4) (ranksLog x) (param x 6) (param x 1)
            (fs.map CollFrame.data)))) ∧
  (∀ s g x rest loc, CollTurn s g x rest → x.phase = 3 → x.pos = 0 → x.code = 0 ∨ x.code = 5 → g.scratch ≤ 2 ^ 18 → g.tile < 768 →
    let xs := x.data.drop 7
    let sp := param x 7 / 1024 % 4
    let all := elemSize x * xs.length
    let ms := (List.range ((all + 15) / 16)).map fun u => (⟨none, sp, off (pair x 4) (16 * u : Nat), min 16 (all - 16 * u)⟩ : Move)
    let kept := (List.range ms.length).filter fun i => ms[i]?.any fun m => !isLost s g (loc i) m
    sp ≤ 1 → xs ≠ [] → (pair x 4).toNat % 16 = 0 → (∀ i m, ms[i]? = some m → Puts s g x m (loc i)) →
    ∃ t h y, exec .collComplete s = .next t ∧ t.gang? g.tile g.slot = some h ∧ h.queues.getD 3 [] = y :: rest ∧ y.finished = true ∧
      y.pos = xs.length ∧ y.bytes = x.bytes + all ∧ y.code = (if kept.length = ms.length then x.code else 5) ∧
      Moved s t g y.maxW ms (fun u j => (xs.getD ((16 * u + j) / elemSize x) 0).extractLsb' (8 * ((16 * u + j) % elemSize x)) 8) loc
        fun tile => (lostAt s g ms loc tile).length) ∧
  (∀ s port (f : EthFrame),
    let open_ : Prop := (s.link port).st = .up ∨ (s.link port).st = .degraded
    (¬open_ → exec (.ethFrameReceive port f) s = .next s) ∧
    (open_ → ∃ t, exec (.ethFrameReceive port f) s = .next t ∧
      { t with ranks := s.ranks, frames := s.frames, peerings := s.peerings } = s ∧
      t.frames = s.frames.filter (fun x => !(x.peer == f.peer && decide (x.number < f.acked))) ∧
      let size (b : CollFrame) : Nat := b.data.length * (if 3 ≤ b.type then 2 else 4)
      (∀ b, f.body = some b → f.number = (s.peering f.peer).heard → size b ≤ 9216 →
        t.peering f.peer = { s.peering f.peer with heard := (s.peering f.peer).heard + 1 } ∧
        (b.data = [] ∨ (∀ x, x ∈ s.ranks → ¬(x.id = b.id ∧ x.rank = b.rank ∧ ¬holdsAll x)) → t.ranks = s.ranks ++ [{ b with port := port }]) ∧
        (b.data ≠ [] → Fills s t b.id b.rank port b.data)) ∧
      (f.body = none ∨ f.number ≠ (s.peering f.peer).heard ∨ (∃ b, f.body = some b ∧ 9216 < size b) →
        t.ranks = s.ranks ∧ t.peerings = s.peerings))) ∧
  (∀ s k f, s.frames[k]? = some f → f.last + 50000 ≤ s.gtc →
    exec (.ethRetransmitTimeout k) s = .next { s with frames := s.frames.set k { f with last := s.gtc } }) ∧
  (∀ s peer f, f ∈ s.frames → f.peer = peer → f.first + 100000000 ≤ s.gtc →
    ∃ t, exec (.ethPeerLost peer) s = .next t ∧ (∀ x, x ∈ t.frames ↔ x ∈ s.frames ∧ x.peer ≠ peer) ∧
      ∀ tile slot g, s.gang? tile slot = some g → ∃ h, t.gang? tile slot = some h ∧ { h with queues := g.queues } = g ∧
        ∀ (i : Nat) (x : Cmd), (g.queues.getD 3 [])[i]? = some x →
          let needs : Prop := x.finished = false ∧ x.data ≠ [] ∧ ∃ r w, r < 2 ^ ranksLog x ∧
            s.rankWord g.ctx (x.data.getD 6 0 ++ x.data.getD 5 0) r = some w ∧ w.toNat % 2 ^ 20 = peer
          (needs → (h.queues.getD 3 [])[i]? = some { x with code := 0x09, finished := true }) ∧
          (¬needs → (h.queues.getD 3 [])[i]? = some x)) ∧
  (∀ s (v : Dword), ((∀ n x, (n, x) ∈ s.ctxs → x.st ≠ .running) → exec (.ptpSync v) s = .next { s with gtc := v.toNat }) ∧
    ((∃ n x, (n, x) ∈ s.ctxs ∧ x.st = .running) → exec (.ptpSync v) s = .next { s with gtc := max s.gtc v.toNat }))

/-- R224, R328, R223, R81, R225, R323, R325, R327, R203, R57, R326: what a rank receives: of a reduction the tree over the logical ranks,
element by element, whole or its own block; of an all-gather the elements in rank order; a collective at the head of its queue announces
itself to every rank; it waits for them all; a disagreement, or a killed rank as soon as it is known, ends every rank here with 0x08 and
moves nothing; else its elements are read and sent, in frames of 9,216 bytes at most, and once every rank has sent, each has its result,
which goes into its receive buffer as of the port that brought the last of it. A frame from a peer is delivered once, in order, and
acknowledges those before it; one not acknowledged is sent again, and after 100 ms its peer is lost and the commands that need it end with
0x09. GTC takes the domain's time, and does not go back while a context runs. The model's choices: a frame with data fills the announcement
of its ID and rank (log entry 34), and a rank whose send has failed leaves its frame without data (log entry 71). -/
def Obligations.Collectives : Prop := Sys2Proof.Claims.CollectiveValues ∧ Sys2Proof.Claims.CollectivesRun

/-! ## Launches and groves (spec/14_kernel.md, spec/15_group.md) -/

namespace Sys2Proof.Claims

/-- R4: the number in `n` bytes of a block from an offset on, lowest first. -/
def at' (b : Nat → Byte) (off n : Nat) : Nat := ((List.range n).map fun k => (b (off + k)).toNat * 256 ^ k).sum

/-- Tables 14.1 to 14.3: every field of a record is within its limits. COMPLETE below 2^51 is the model's reading of "in device memory or
the host aperture" (assumption 23). -/
def RecordOk (b : Nat → Byte) : Prop :=
  let flags := at' b 4 4
  let shape := at' b 0x14 4
  flags / 2 ^ 15 = 0 ∧ flags / 2 ^ 11 % 2 = 0 ∧ flags / 2 ^ 5 % 8 = 0 ∧ flags / 2 ^ 12 % 8 ≤ 4 ∧ flags / 2 ^ 8 % 8 ≤ 4 ∧
    at' b 8 8 % 4 = 0 ∧ at' b 8 8 < 2 ^ 52 ∧ 1 ≤ at' b 0x10 4 ∧ at' b 0x10 4 ≤ 2 ^ 24 ∧
    shape / 2 ^ 28 = 0 ∧ shape / 2 ^ 19 % 32 = 0 ∧ shape / 2 ^ 11 % 32 = 0 ∧ shape / 2 ^ 4 % 16 = 0 ∧
    at' b 0x18 4 ≤ 262144 ∧ at' b 0x1C 4 = 0 ∧ at' b 0x20 8 % 256 = 0 ∧ at' b 0x28 8 = 0 ∧ (∀ k, k < 4 → at' b (0x3C + 16 * k) 4 = 0) ∧
    (∀ k, k < flags / 2 ^ 12 % 8 → at' b (0x88 + 32 * k) 8 ≠ 0) ∧ at' b 0xF0 8 % 4 = 0 ∧ at' b 0xF0 8 < 2 ^ 51 ∧ at' b 0xF8 8 = 0

/-- The claims of a record, and its after-words as address and expected value. -/
def claimsOf (b : Nat → Byte) : List Claim :=
  (List.range (at' b 4 4 / 2 ^ 12 % 8)).map fun k =>
    { key := num (at' b (0x70 + 32 * k) 8), high := num (at' b (0x78 + 32 * k) 8), start := num (at' b (0x80 + 32 * k) 8)
      count := num (at' b (0x88 + 32 * k) 8) }
def aftersOf (b : Nat → Byte) : List (Nat × Nat) :=
  (List.range (at' b 4 4 / 2 ^ 8 % 8)).map fun k => (at' b (0x30 + 16 * k) 8, at' b (0x38 + 16 * k) 4)

/-- R271: two claims overlap: one's start lies in the other's range, which may wrap. -/
def Overlap (x y : Claim) : Prop :=
  x.key = y.key ∧ x.high = y.high ∧ ((y.start - x.start).toNat < x.count.toNat ∨ (x.start - y.start).toNat < y.count.toNat)

/-- Table 14.4: a launch that is live, posted and in no final state. -/
def isLive (l : Launch) : Bool := l.state != .complete && l.state != .faulted && l.state != .killed

/-- Table 14.4: the code of a record. -/
def LnchCode (s : State) (b : Nat → Byte) (code : Nat) : Prop :=
  let lives := s.launches.filter fun e => isLive e.2
  let clash : Prop := (∃ (i j : Nat) (x y : Claim), i < j ∧ (claimsOf b)[i]? = some x ∧ (claimsOf b)[j]? = some y ∧ Overlap x y) ∨
    ∃ e x y, e ∈ lives ∧ x ∈ e.2.claims ∧ y ∈ claimsOf b ∧ Overlap x y
  (¬RecordOk b → code = 0x01) ∧ (RecordOk b → 1024 ≤ lives.length → code = 0x0D) ∧
    (RecordOk b → lives.length < 1024 → clash → code = 0x0C) ∧ (RecordOk b → lives.length < 1024 → ¬clash → code = 0)

/-- R269: a record as it is posted. -/
def Posted (s : State) (ctx : Nat) (b : Nat → Byte) (l : Launch) : Prop :=
  l.state = .posted ∧ l.ctx = ctx ∧ l.postedAt = s.gtc ∧ l.flags.toNat = at' b 4 4 ∧ l.code.toNat = at' b 8 8 ∧ l.groves = at' b 0x10 4 ∧
    l.shape.toNat = at' b 0x14 4 ∧ l.scratch = at' b 0x18 4 ∧ l.banners.toNat = at' b 0x20 8 ∧ l.completeAt.toNat = at' b 0xF0 8 ∧
    l.claims = claimsOf b ∧ l.afters.map (fun a => (a.addr.toNat, a.expect.toNat)) = aftersOf b ∧
    (∀ a, a ∈ l.afters → a.at? = none ∧ a.read = none) ∧ l.placed = [] ∧ l.next = 0 ∧ l.faulted = false ∧ l.killed = false

/-- R273, R288: a launch that goes to DRAINING with a cause and no grove placed; none of its after-words is watched any more. -/
def FailsWith (s : State) (i : Instr) (n cause : Nat) : Prop :=
  ∃ t y, exec i s = .next t ∧ t.launch? n = some y ∧ y.state = .draining ∧ y.faulted = true ∧ y.cause = cause ∧
    (∀ w, w ∈ t.watches → w.launch.map Prod.fst ≠ some n) ∧ ∀ now a, t.homeByte now a = s.homeByte now a

/-- Table 15.3: the banners that a fly entry names. -/
def named (e : Dword) : List Nat :=
  (List.range 4).filterMap fun k => if e.toNat / 2 ^ (32 + k) % 2 = 1 then some (e.toNat / 2 ^ (8 * k) % 256) else none

/-- R287: the table is well formed. -/
def TableOk (entry fly : Nat → Dword) (m : Nat) : Prop :=
  (∀ b, b < 256 → (entry b).toNat < 4) ∧
    (∀ j, j < m → (fly j).toNat < 2 ^ 36 ∧ (named (fly j)).Nodup ∧ ∀ b, b ∈ named (fly j) → (entry b).toNat % 2 = 1) ∧
    ∀ b, b < 256 → (entry b).toNat % 2 = 1 → ∃ j, j < m ∧ b ∈ named (fly j)

end Sys2Proof.Claims

/-- R125, R268, R269, R271, R273, R286, R287, R288: `lnch` waits for its fence, reads its record at home and answers with a code, posting
the launch under code 0; an after-word is satisfied by its value, watched, or polled; a launch whose after-words are satisfied is admitted
with the banners of its table, or ends where the table faults or is not well formed. It reads the limit on COMPLETE as an address below 2^51
(log entry 23, the model's reading). -/
def Obligations.LaunchesAdmitted : Prop :=
  (∀ s c g (d a : BitVec 9), Starts s c g (.lnch d a) →
    let i := Instr.lnch d a
    let x : Dword := g.sreg (a.toNat + 1) ++ g.sreg a.toNat
    (x.toNat % 256 ≠ 0 → TrapsWhole s c g i 0x03 x) ∧
    (x.toNat % 256 = 0 → (g.slice c.slice).phase = 0 → ∃ t h, exec i s = .next t ∧ OnlyGang s t c h ∧
      (∀ j, h.slice j = if j ∈ g.group c.slice then fenceSlice s g j 2 false else g.slice j) ∧
      Left g h g.sreg g.vreg g.pred g.remOf g.fpst g.pend) ∧
    (∀ loc sc, x.toNat % 256 = 0 → (g.slice c.slice).phase ≠ 0 → s.placeOf g c.slice 256 1 x = .at_ loc sc → s.readable g.tile loc 4 = false →
      Holds s c g i fun w => w = .home loc 4) ∧
    (∀ loc sc code, x.toNat % 256 = 0 → (g.slice c.slice).phase ≠ 0 → s.placeOf g c.slice 256 1 x = .at_ loc sc →
      s.readable g.tile loc 4 = true →
      let b (k : Nat) : Byte := s.homeByte s.gtc (loc + k)
      LnchCode s b code →
      (code = 0x0C → at' b 4 4 / 16 % 2 = 1 → g.sup = false → ∃ t h, exec i s = .next t ∧ t.gang? c.tile c.slot = some h ∧ h.sup = true ∧
        h.trap.tcause = BitVec.ofNat 32 (c.slice * 256 + 0x0E) ∧ h.trap.tval = 0x0C ∧ h.trap.tpc = (g.slice c.slice).pc ∧
        (∀ k, k < 32 → h.trap.tmask.getLsbD k = decide (k ∈ lanes g c)) ∧ t.launches = s.launches) ∧
      (¬(code = 0x0C ∧ at' b 4 4 / 16 % 2 = 1) → ∃ t h, exec i s = .next t ∧ t.gang? c.tile c.slot = some h ∧ Past g h c ∧
        Left g h (g.sregWith d.toNat (BitVec.ofNat 32 code)) g.vreg g.pred g.remOf g.fpst g.pend ∧
        (∀ z, z ∈ (t.tile g.tile).l1 ↔ z ∈ (s.tile g.tile).l1 ∧ s.gtc ≤ z.grant) ∧ (∀ now p, t.homeByte now p = s.homeByte now p) ∧
        (code ≠ 0 → t.launches = s.launches ∧ t.nextLaunch = s.nextLaunch) ∧
        (code = 0 → t.nextLaunch = s.nextLaunch + 1 ∧ (∀ n, n ≠ s.nextLaunch → t.launch? n = s.launch? n) ∧
          ∃ l, t.launch? s.nextLaunch = some l ∧ Posted s g.ctx b l)))) ∧
  (∀ s l a, let n := s.subject.unit
    let i := s.subject.slot
    s.launch? n = some l → l.afters[i]? = some a → l.state = .posted → (s.ctx l.ctx).st = .running → a.at? = none →
    s.travels (s.placeNow l.ctx a.addr 1) = true →
    (if a.watching then ∃ w e, w ∈ s.watches ∧ w.launch = some (n, i) ∧ w.fired = some e ∧ e ≤ s.gtc
      else ∀ r, a.read = some r → r + 1000 ≤ s.gtc) →
    (a.addr.toNat % 4 ≠ 0 → FailsWith s .afterWordPoll n 0x03) ∧
    (∀ cause, a.addr.toNat % 4 = 0 → s.placeNow l.ctx a.addr 1 = .fault cause → cause ≠ 0x0F → FailsWith s .afterWordPoll n cause) ∧
    (∀ loc sc, a.addr.toNat % 4 = 0 → s.placeNow l.ctx a.addr 1 = .at_ loc sc →
      ∃ t y b, exec .afterWordPoll s = .next t ∧ t.launch? n = some y ∧ y.afters = l.afters.set i b ∧ b.addr = a.addr ∧ b.expect = a.expect ∧
        { y with afters := l.afters } = l ∧ (∀ now p, t.homeByte now p = s.homeByte now p) ∧
        (s.homeWord s.gtc loc = a.expect → b.at? = some s.gtc) ∧
        (s.homeWord s.gtc loc ≠ a.expect → b.at? = none ∧ b.read = some s.gtc ∧
          (isHost loc = true → b.watching = false) ∧
          (isHost loc = false → s.watchFull loc = false → b.watching = true ∧ ∃ w, w ∈ t.watches ∧ w.line = loc / 64 ∧ w.since = s.gtc ∧
            w.launch = some (n, i) ∧ EndsAt s (loc / 64) s.gtc w.fired)))) ∧
  (∀ s l, let n := s.subject.unit
    s.launch? n = some l → l.state = .posted → (s.ctx l.ctx).st = .running → (∀ a, a ∈ l.afters → a.at? ≠ none) →
    let ta := (l.afters.map fun a => a.at?.getD 0).foldl max l.postedAt
    let m := l.groves * (l.shape.toNat % 16 + 1)
    let addrs := (List.range 256).map (fun b => l.banners + num (8 * b)) ++ (List.range m).map fun j => l.banners + num (0x800 + 8 * j)
    (l.banners = 0 → exec .launchAdmission s = .next (s.modLaunch n fun l => { l with state := .admitted, ta := ta })) ∧
    (l.banners ≠ 0 → s.travels (s.placeNow l.ctx l.banners 1) = true →
      ((∃ a, a ∈ addrs ∧ ∃ e, s.readNow l.ctx a 8 = .error e) →
        ∃ a cause, a ∈ addrs ∧ s.readNow l.ctx a 8 = .error cause ∧ FailsWith s .launchAdmission n cause) ∧
      (∀ bytes : Dword → Nat → Byte, (∀ a, a ∈ addrs → s.readNow l.ctx a 8 = .ok ((List.range 8).map (bytes a))) →
        let entry (b : Nat) : Dword := num (at' (bytes (l.banners + num (8 * b))) 0 8)
        let fly (j : Nat) : Dword := num (at' (bytes (l.banners + num (0x800 + 8 * j))) 0 8)
        (¬TableOk entry fly m → FailsWith s .launchAdmission n 0x01) ∧
        (TableOk entry fly m → ∃ t y, exec .launchAdmission s = .next t ∧ t.launch? n = some y ∧ { t with launches := s.launches } = s ∧
          y.state = .admitted ∧ y.ta = ta ∧ { y with state := l.state, ta := l.ta, members := l.members, banner := l.banner } = l ∧
          (∀ x, x ∈ y.members ↔ ∃ j b, j < m ∧ b ∈ named (fly j) ∧ x = { gang := j, banner := b }) ∧
          ∀ b, b < 256 → Sparse.find? y.banner b = if (entry b).toNat % 2 = 1 then
            some { sink := decide (2 ≤ (entry b).toNat), count := (y.members.filter fun x => x.banner == b).length
                   live := (y.members.filter fun x => x.banner == b).length } else none))))

namespace Sys2Proof.Claims

/-- R227: whether a granule of a tile lies in a live allocation. -/
def inUse (x : Tile) (k : Nat) : Prop := ∃ a, a ∈ x.allocs ∧ a.base / 4096 ≤ k ∧ k < a.base / 4096 + (a.bytes + 4095) / 4096

/-- R227: a run of granules for so many bytes is free from `k` on. -/
def freeFrom (x : Tile) (bytes k : Nat) : Prop := k + (bytes + 4095) / 4096 ≤ 64 ∧ ∀ i, i < (bytes + 4095) / 4096 → ¬inUse x (k + i)

/-- The free slots of a tile, lowest first. -/
def freeSlots (s : State) (tile : Nat) : List Nat := (List.range 32).filter fun k => s.gang? tile k = none

/-- R276: a grove of the launch fits the tile. -/
def Fits (s : State) (l : Launch) (tile : Nat) : Prop :=
  l.shape.toNat % 16 + 1 ≤ (freeSlots s tile).length ∧ ∃ k, freeFrom (s.tile tile) l.scratch k

/-- R276: a launch has a grove to place, and a tile of its context has room for it. -/
def Offers (s : State) (ctx : Nat) (l : Launch) : Prop :=
  l.ctx = ctx ∧ (l.state = .admitted ∨ l.state = .dispatching) ∧ l.next < l.groves ∧ l.faulted = false ∧
    ∃ u, u ∈ (s.ctx l.ctx).tiles ∧ Fits s l u

/-- R276: the order of the dispatcher's visits: the higher priority, then the earlier T_a, then the earlier post. -/
def VisitedBefore (s : State) (a b : Nat × Launch) : Prop :=
  let p (l : Launch) : Nat := min (l.flags.toNat / 2 % 4) (s.ctx a.2.ctx).pri
  p b.2 < p a.2 ∨ p a.2 = p b.2 ∧ (a.2.ta < b.2.ta ∨ a.2.ta = b.2.ta ∧ a.1 < b.1)

/-- R277: a DET launch that has had its one grove of this round. -/
def Passed (s : State) (ctx : Nat) (m : Nat × Launch) : Prop := m.2.flags.getLsbD 0 = true ∧ m.1 ∈ (s.ctx ctx).visited

/-- R276, R277: every launch whose grove fits has been visited, so that a round begins. -/
def RoundOver (s : State) (ctx : Nat) : Prop := ∀ m, m ∈ s.launches → Offers s ctx m.2 → Passed s ctx m

/-- R276, R277: it is a launch's turn. -/
def ItsTurn (s : State) (n : Nat) (l : Launch) : Prop :=
  (RoundOver s l.ctx ∨ ¬Passed s l.ctx (n, l)) ∧
    ∀ m, m ∈ s.launches → m.1 ≠ n → Offers s l.ctx m.2 → RoundOver s l.ctx ∨ ¬Passed s l.ctx m → ¬VisitedBefore s m (n, l)

/-- R228: the generation of a new allocation of some granules: the greatest of their counters. -/
def genFor (x : Tile) (k n : Nat) : Nat := ((List.range n).map fun i => (Sparse.get 0 x.granule (k + i)).toNat).foldl max 0

/-- R48, R277: a gang as a placement leaves it. -/
def Fresh (s : State) (n : Nat) (l : Launch) (tile slot gidx base : Nat) (h : Gang) : Prop :=
  let f (lo len : Nat) : Nat := l.shape.toNat / 2 ^ lo % 2 ^ len
  let nsl := f 8 3 + 1
  h.tile = tile ∧ h.slot = slot ∧ h.launch = some n ∧ h.ctx = l.ctx ∧ h.grove = l.next ∧ h.gidx = gidx ∧ h.ngang = f 0 4 + 1 ∧ h.nsl = nsl ∧
    h.nv = 8 * (f 16 3 + 1) ∧ h.ns = 32 * (f 24 4 + 1) ∧ h.gen = Sparse.get 0 (s.tile tile).slotGen slot + 1 ∧ h.pos = none ∧ h.ended = false ∧
    h.sup = false ∧ h.det = l.flags.getLsbD 0 ∧ h.pri = l.flags.toNat / 2 % 4 ∧ h.scratch = l.scratch ∧
    h.spgen.toNat = (if l.scratch = 0 then 0 else genFor (s.tile tile) base ((l.scratch + 4095) / 4096) + base * 2 ^ 16) ∧
    h.slices = List.replicate nsl { pc := l.code } ∧ (∀ k, h.sreg k = 0xFFFFFFFF) ∧ (∀ k j, h.vreg k j = 0xFFFFFFFF) ∧
    (∀ k j, h.pred k j = decide (k = 0)) ∧ (∀ j, h.remOf j = []) ∧ h.pend = [] ∧ h.fpst = 0 ∧ h.horizon = 0 ∧ h.rsdepth = 0 ∧
    h.queues = [[], [], [], []] ∧ h.fifo = [] ∧ h.rsb = 0 ∧ h.rsl = 0 ∧ h.adv = 0 ∧ h.binding = none ∧ h.trap = {} ∧
    h.pnst = List.replicate 8 none
/-- R278: the positions of a row that no gang of the tile holds. -/
def freeIn (s : State) (tile row : Nat) : List Nat :=
  ((List.range 4).map fun k => 4 * row + k).filter fun p => (s.gangsOf tile).all fun g => g.pos != some p

/-- R279: the age stamp of a group of a gang. -/
def stamp (s : State) (g : Gang) (j : Nat) : List Nat :=
  [match g.launch.bind s.launch? with | some l => l.ta | none => 0, g.grove, g.gidx, j, g.slot]

/-- R278: a pending gang of a tile whose context runs. -/
def Pending (s : State) (tile : Nat) (g : Gang) : Prop :=
  g ∈ s.gangsOf tile ∧ g.pos = none ∧ g.ended = false ∧ (s.ctx g.ctx).st = .running

/-- R280: two gangs have changed places. -/
def Swaps (s : State) (i : Instr) (tile : Nat) (out inc : Gang) (p : Nat) : Prop :=
  ∃ t, exec i s = .next t ∧ t.gang? tile out.slot = some { out with pos := none, since := s.gtc } ∧
    t.gang? tile inc.slot = some { inc with pos := some p } ∧ { t with gangs := s.gangs } = s ∧
    ∀ u k, gkey u k ≠ gkey tile out.slot → gkey u k ≠ gkey tile inc.slot → t.gang? u k = s.gang? u k

end Sys2Proof.Claims

/-- R48, R227, R228, R274, R276, R277, R278, R280, R385: the next grove of the launch whose turn it is is put on the first tile it fits,
with its allocation, its gangs at their reset values and its L1 lines from before T_a gone; no other launch places a grove, and of a DET
launch one grove a round. The oldest pending gang takes a position of the emptier row; an active gang all of whose groups wait changes
places with the pending gang to be brought in, and an anchor's gang that has waited 1,024 cycles displaces another. The rounds of the
dispatcher are read as log entry 43 says. -/
def Obligations.GrovesPlaced : Prop :=
  (∀ s l tile base, let n := s.subject.unit
    let x := s.tile tile
    s.launch? n = some l → l.state = .admitted ∨ l.state = .dispatching → l.next < l.groves → l.faulted = false →
    (s.ctx l.ctx).st = .running → ItsTurn s n l →
    (∃ pre post, (s.ctx l.ctx).tiles = pre ++ tile :: post ∧ ∀ u, u ∈ pre → ¬Fits s l u) → Fits s l tile →
    freeFrom x l.scratch base → (∀ k, k < base → ¬freeFrom x l.scratch k) → x.dorm = .active → x.switching = none →
    (s.ctx l.ctx).loglim = 0 → (s.ctx l.ctx).cap = false → (s.ctx l.ctx).slack.k ≠ 16 →
    let slots := (freeSlots s tile).take (l.shape.toNat % 16 + 1)
    let size := (l.scratch + 4095) / 4096
    ∃ t, exec .grovePlacement s = .next t ∧
      t.launch? n = some { l with
        state := if l.next + 1 = l.groves then .running else .dispatching, next := l.next + 1
        placed := l.placed ++ [{ index := l.next, tile := tile, slots := slots, alloc := decide (l.scratch ≠ 0) }] } ∧
      (∀ (i k : Nat), slots[i]? = some k → ∃ h, t.gang? tile k = some h ∧ Fresh s n l tile k i base h) ∧
      (∀ u k, (∀ j, j ∈ slots → gkey u k ≠ gkey tile j) → t.gang? u k = s.gang? u k) ∧
      (∀ z, z ∈ (t.tile tile).l1 ↔ z ∈ x.l1 ∧ l.ta ≤ z.grant) ∧
      (t.tile tile).allocs = x.allocs ++ (if l.scratch = 0 then [] else
        [{ launch := n, grove := l.next, base := base * 4096, bytes := l.scratch, gen := genFor x base size }]) ∧
      (∀ k, Sparse.get 0 (t.tile tile).granule k = if base ≤ k ∧ k < base + size then BitVec.ofNat 16 (genFor x base size)
        else Sparse.get 0 x.granule k) ∧
      ((∀ g, g ∈ s.gangsOf tile → g.ctx ≠ l.ctx) → x.gear ≠ l.flags.getLsbD 3 → (t.tile tile).switching = some (l.flags.getLsbD 3, 4, 0)) ∧
      (((∃ g, g ∈ s.gangsOf tile ∧ g.ctx = l.ctx) ∨ x.gear = l.flags.getLsbD 3) → (t.tile tile).switching = none) ∧
      (∀ u, u ≠ tile → t.tile u = s.tile u) ∧
      (∀ m, ∃ seen, t.ctx m = { s.ctx m with visited := seen } ∧ (m ≠ l.ctx → seen = (s.ctx m).visited) ∧
        (m = l.ctx → ∀ q, q ∈ seen ↔ (¬RoundOver s l.ctx ∧ q ∈ (s.ctx m).visited) ∨ (l.flags.getLsbD 0 = true ∧ q = n))) ∧
      { t with gangs := s.gangs, tiles := s.tiles, launches := s.launches, ctxs := s.ctxs } = s) ∧
  (∀ s l, s.launch? s.subject.unit = some l → ¬ItsTurn s s.subject.unit l → exec .grovePlacement s = .next s) ∧
  (∀ s g, let tile := s.subject.unit
    s.gang? tile s.subject.slot = some g → g.slot = s.subject.slot → Pending s tile g →
    (∀ e, e ∈ s.ctxs → e.2.st ≠ .stopping) →
    let mine := stamp s g (g.leaders.headD 0)
    let row := if (freeIn s tile 0).length < (freeIn s tile 1).length then 1 else 0
    (∀ p, (∀ h, Pending s tile h → ¬stamp s h (h.leaders.headD 0) < mine) → (freeIn s tile row).head? = some p →
      exec .gangActivate s = .next (s.setGang tile s.subject.slot { g with pos := some p })) ∧
    ((∃ h, Pending s tile h ∧ stamp s h (h.leaders.headD 0) < mine) → (∀ h, h ∈ s.gangsOf tile → h.slot = g.slot → h = g) →
      exec .gangActivate s = .next s)) ∧
  (∀ s out inc p, let tile := s.subject.unit
    s.gang? tile out.slot = some out → s.gang? tile inc.slot = some inc → out.tile = tile → inc.tile = tile →
    s.subject.slot = out.slot → s.subject.part = inc.slot → out.slot < 32 → inc.slot < 32 → out.pos = some p → inc.pos = none →
    out.ended = false → (s.ctx out.ctx).st = .running → (s.ctx out.ctx).loglim = 0 →
    (∃ a, (inc, a) ∈ s.readyPending tile ∧ (s.anchor inc = true ∨
      ∀ y, y ∈ s.readyPending tile → s.anchor y.1 = false ∧ ¬y.2 < a)) →
    (∀ j, j ∈ out.leaders → (out.slice j).wait ∈ [Wait.wata, .regang, .handon, .park] ∨
      (∃ b, (out.slice j).wait = .barrier b ∨ (out.slice j).wait = .arrive b) ∨ ∃ k a, (out.slice j).wait = .fence k a) →
    freeIn s tile 0 = [] → freeIn s tile 1 = [] → Swaps s .gangExchange tile out inc p) ∧
  (∀ s out inc a p, let tile := s.subject.unit
    s.readyPending tile = [(inc, a)] → s.gang? tile out.slot = some out → s.gang? tile inc.slot = some inc → out.tile = tile →
    inc.tile = tile → out.slot < 32 → inc.slot < 32 → s.anchor inc = true →
    inc.since + 40960 / max 1 ((s.cluster (tile / 4)).cclk.toNat % 256) ≤ s.gtc →
    ((s.gangsOf tile).filter fun g => g.pos.isSome && !s.anchor g) = [out] → out.pos = some p → (s.ctx out.ctx).st = .running →
    (s.ctx out.ctx).loglim = 0 → freeIn s tile 0 = [] → freeIn s tile 1 = [] → Swaps s .forcedExchange tile out inc p)

namespace Sys2Proof.Claims

/-- R251: a context's gangs stand on their tiles. -/
def unsaved (x : Ctx) : Prop := x.st ∉ [CtxState.stopping, .saved, .restoring]

/-- Table 14.6. -/
def completionWord (l : Launch) : Word :=
  if l.faulted then BitVec.ofNat 32 (0xA0000000 + l.cause % 256 * 65536) else if l.killed then 0xB0000000 else 0x90000000

/-- R275: what a launch in DRAINING waits for has come. -/
def Drained (s : State) (n : Nat) (l : Launch) : Prop :=
  (∀ e q, e ∈ s.tiles → q ∈ e.2.sq → q.launch ≠ some n) ∧
    (∀ e q, e ∈ s.gangs → e.2.launch = some n → q ∈ e.2.queues → q = []) ∧
    l.placed = [] ∧ (∀ e h, e ∈ s.tiles → h ∈ e.2.det → h.launch ≠ n) ∧ (∀ d e, d ∈ s.drains → e ∈ d.entries → e.2.launch ≠ n) ∧
    l.horizon + (if l.dom then 8 else 0) ≤ s.gtc ∧ ∀ h, h ∈ s.hostStores → h.launch ≠ some n

end Sys2Proof.Claims

/-- R228, R272, R275, R285: a grove all of whose gangs have exited drains what it holds, then retires: its granules' counters rise, its slots
are free; a launch whose last grove has retired drains, and once drained its completion word stands, after its stores, with 8 ticks
more where a wider scope than the device's covers it, or its page is cleared of a zero hint first, or a record of kind 5 is to be
posted. -/
def Obligations.LaunchesEnd : Prop :=
  (∀ s l v, let n := s.subject.slot
    s.launch? n = some l → l.placed.find? (fun v => v.index == s.subject.part && decide (l.shape.toNat % 16 + 1 ≤ v.exited.length)) = some v →
    unsaved (s.ctx l.ctx) → (∀ d e, d ∈ s.drains → e ∈ d.entries → ¬(e.2.launch = n ∧ e.2.grove = v.index)) →
    (∀ g, g ∈ s.gangsOf v.tile → g.launch = some n → g.grove = v.index → g.pend = []) →
    let x := s.tile v.tile
    let mine (h : Held) : Bool := h.launch == n && h.grove == v.index
    ((∃ h, h ∈ x.det ∧ mine h = true) → ∃ t d, exec .groveRetire s = .next t ∧ t.drains = s.drains ++ [d] ∧ d.point = 3 ∧
      d.entries = (x.det.filter mine).map (fun h => (v.tile, h)) ∧ t.tile v.tile = { x with det := x.det.filter fun h => !mine h } ∧
      t.gangs = s.gangs ∧ t.launches = s.launches ∧ ∀ now a, t.homeByte now a = s.homeByte now a) ∧
    (∀ as, (∀ h, h ∈ x.det → mine h = false) → v.tile < 768 → (∀ k, k ∈ v.slots → k < 32) →
      x.allocs.filter (fun a => a.launch == n && a.grove == v.index) = as → as.length ≤ 1 →
      ∃ t y, exec .groveRetire s = .next t ∧ t.launch? n = some y ∧ y.retired = l.retired + 1 ∧
        (∀ u, u ∈ y.placed ↔ u ∈ l.placed ∧ u.index ≠ v.index) ∧
        y.state = (if y.placed = [] ∧ (l.groves ≤ l.next ∨ l.faulted = true) then .draining else l.state) ∧
        (∀ k, k ∈ v.slots → t.gang? v.tile k = none) ∧ (∀ k, k < 32 → k ∉ v.slots → t.gang? v.tile k = s.gang? v.tile k) ∧
        (∀ b, b ∈ (t.tile v.tile).allocs ↔ b ∈ x.allocs ∧ b ∉ as) ∧
        (∀ k, Sparse.get 0 (t.tile v.tile).granule k = Sparse.get 0 x.granule k +
          if as.any fun a => decide (a.base / 4096 ≤ k ∧ k < a.base / 4096 + (a.bytes + 4095) / 4096) then 1 else 0) ∧
        (∀ u, u ≠ v.tile → t.tile u = s.tile u) ∧ ∀ now p, t.homeByte now p = s.homeByte now p)) ∧
  (∀ s l, let n := s.subject.unit
    s.launch? n = some l → l.state = .draining → unsaved (s.ctx l.ctx) → Drained s n l →
    let final := if l.faulted then LaunchState.faulted else if l.killed then .killed else .complete
    (∀ loc sc, s.placeNow l.ctx l.completeAt 2 = .at_ loc sc → s.carries loc = true → loc % 4 = 0 →
      ∃ t w, exec .launchDrainComplete s = .next t ∧ t.launch? n = some { l with state := final } ∧ s.gtc < w ∧
        (if isHost loc ∨ 2 ^ 51 ≤ l.completeAt.toNat then l.horizon + 8 else l.horizon) < w ∧
        (∀ now, w ≤ now → t.homeWord now loc = completionWord l) ∧
        (∀ now, now < w → t.homeWord now loc = s.homeWord now loc) ∧
        (∀ now b, ¬(loc ≤ b ∧ b < loc + 4) → t.homeByte now b = s.homeByte now b) ∧ t.gangs = s.gangs ∧ t.tiles = s.tiles) ∧
    (∀ va z, s.placeNow l.ctx l.completeAt 2 = .miss va z → ∃ t, exec .launchDrainComplete s = .next t ∧
      { t with walks := s.walks } = s ∧ ∃ w, w ∈ t.walks ∧ w.clear = true ∧ w.of l.ctx va = true) ∧
    (∀ cause, s.placeNow l.ctx l.completeAt 2 = .fault cause → ∃ t, exec .launchDrainComplete s = .next t ∧
      t.launch? n = some { l with state := final } ∧
      (t.ctx l.ctx).posts = (s.ctx l.ctx).posts ++ [{ kind := 5, cause := cause, addr := l.completeAt }] ∧
      ∀ now a, t.homeByte now a = s.homeByte now a))

/-! ## Contexts (spec/12_context.md) -/

namespace Sys2Proof.Claims

/-- Table 12.2: the codes of the states. -/
def stateCode : CtxState → Nat
  | .created => 0 | .running => 1 | .stopping => 2 | .saved => 3 | .restoring => 4 | .killing => 5 | .ended => 6 | .failed => 7

/-- Table 12.2: the commands that have a row in a state. -/
def hasRow (k : Nat) (st : CtxState) : Prop :=
  (k = 1 ∧ st = .created) ∨ (k = 2 ∧ st = .running) ∨ (k = 3 ∧ st = .saved) ∨ (k = 4 ∧ (st = .running ∨ st = .saved)) ∨
    (k = 5 ∧ (st = .running ∨ st = .saved)) ∨ (k = 6 ∧ (st = .ended ∨ st = .failed))

/-- The event that takes a command's code. -/
def commandEvent (k : Nat) : Instr :=
  match k with
  | 1 => .ctxStart | 2 => .ctxStop | 3 => .ctxResume | 4 => .ctxKill | 5 => .ctxUpdate | _ => .ctxRelease

/-- R250: the context is stopping or restoring. -/
def busy (s : State) (n : Nat) : Prop := (s.ctx n).st = .stopping ∨ (s.ctx n).st = .restoring

/-- R247: the record of a context. -/
def recordOf (s : State) (n : Nat) : Nat := (s.boot.ctxbase.toNat + 256 * n) % 2 ^ 48

/-- R248, R250: the command `w` is the next that the controller takes, from CMD or of those it holds, `rest` what it then holds. -/
structure Comes (s : State) (n : Nat) (w : Word) (rest : List Word) : Prop where
  stage : s.boot.stage = 3
  unit : s.subject.unit = n
  few : n < 64
  base : s.boot.ctxbase.toNat % 256 = 0
  some_ : w ≠ 0
  next : ((busy s n ∨ (s.ctx n).cmds = []) ∧ rest = (s.ctx n).cmds ∧ s.standing (recordOf s n) = w) ∨
    (¬busy s n ∧ (s.ctx n).cmds = w :: rest)

/-- R248: STATE stands in the record, and CMD is cleared where the command stood there. -/
def RecordShows (s t : State) (n : Nat) : Prop :=
  let x := t.ctx n
  ∃ w, ∀ now, w ≤ now →
    t.homeWord now (recordOf s n + 4) = BitVec.ofNat 32 (x.seq * 2 ^ 16 + x.err * 2 ^ 8 + stateCode x.st) ∧
    ((busy s n ∨ (s.ctx n).cmds = []) → t.homeWord now (recordOf s n) = 0)

/-- R248: a command rejected with a code: the state stays. -/
def Rejected (s : State) (n : Nat) (w : Word) (rest : List Word) (code : Nat) : Prop :=
  ∃ t, exec (commandEvent (w.toNat % 16)) s = .next t ∧
    t.ctx n = { s.ctx n with seq := w.toNat / 2 ^ 16, err := code, cmds := rest } ∧ RecordShows s t n ∧
    t.gangs = s.gangs ∧ t.tiles = s.tiles ∧ t.launches = s.launches ∧ ∀ m, m ≠ n → t.ctx m = s.ctx m

/-- R249: a command that no check rejects. -/
def Taken (s : State) (n : Nat) (w : Word) (rest : List Word) (k : Nat) : Prop :=
  Comes s n w rest ∧ w.toNat % 16 = k ∧ w.toNat / 16 % 2 ^ 12 = 0

/-- Table 12.2: a line of a context's save area, of so many bytes, gives an uncorrectable error. -/
def saveFails (s : State) (n bytes : Nat) : Prop :=
  ∃ l, l ∈ s.bad ∧ (s.ctx n).save / 64 ≤ l ∧ l * 64 < (s.ctx n).save + bytes

/-- R344: no cluster's power word lies in these bytes. -/
def noPowerWord (s : State) (a k : Nat) : Prop :=
  ∀ c, c < 192 → let p := (s.boot.pwrbase.toNat + 4 * c) % 2 ^ 48
    p + 4 ≤ a ∨ a + k ≤ p

/-- R272: no launch of a context is still POSTED, so that a kill writes no completion word. -/
def nonePosted (s : State) (n : Nat) : Prop := ∀ l z, s.launch? l = some z → z.ctx = n → z.state ≠ .posted

/-- R250, R272, R300: a launch that a kill finds live: its phases end without completing, and it drains; one still POSTED ends at once. -/
def LaunchKilled (s t : State) (n : Nat) : Prop :=
  (s.launches.map Prod.fst).Nodup → ∀ l z, s.launch? l = some z → z.ctx = n → isLive z = true →
    ∃ v, t.launch? l = some v ∧ v.killed = true ∧ v.banner = [] ∧ v.members = [] ∧ (z.state ≠ .posted → v.state = .draining) ∧
      (z.state = .posted → z.faulted = false → (∀ loc sc, s.placeNow n z.completeAt 2 = .at_ loc sc → s.carries loc = true) →
        (∀ va m, s.placeNow n z.completeAt 2 ≠ .miss va m) → v.state = .killed)

/-- R246: a tile or bank of a context is held by another. -/
def heldByOther (s : State) (n : Nat) (tiles banks : List Nat) : Prop :=
  (∃ t m, t ∈ tiles ∧ (s.tile t).holder = some m ∧ m ≠ n) ∨
    ∃ b m, b ∈ banks ∧ (s.cluster (b / 2)).bankHolder.getD (b % 2) none = some m ∧ m ≠ n

/-- Table 12.1: CTL within its limits. -/
def ctlFits (c : Word) : Prop :=
  c.toNat / 2 ^ 21 = 0 ∧ 16 ≤ c.toNat / 2 ^ 8 % 2 ^ 13 ∧ c.toNat / 2 ^ 8 % 2 ^ 13 ≤ 4096 ∧ 1 ≤ c.toNat / 4 % 32 ∧ c.toNat / 4 % 32 ≤ 16

end Sys2Proof.Claims

/-- R246, R248, R249, R250, R251, R252, R256, R258, Table 12.2: a command is rejected by the first check that fails, held while a stop or a
restore is under way, or done: `stop` begins one, `kill` ends every gang and sends the launches to their drain, `update` applies CTL,
`release` frees the record, `resume` retakes the tiles and banks of an unchanged save area. A command that comes while its context stops or
is restored is held, and a word of zeros is no command: the model's readings (log entry 39). -/
def Obligations.ContextCommands : Prop :=
  ∀ s n w rest,
    let x := s.ctx n
    let y : Ctx := { x with seq := w.toNat / 2 ^ 16, err := 0, cmds := rest }
    let r := recordOf s n
    (Comes s n w rest → ¬busy s n → let k := w.toNat % 16
      ((k = 0 ∨ 7 ≤ k) → Rejected s n w rest 0x02) ∧
      (1 ≤ k → k ≤ 6 → w.toNat / 16 % 2 ^ 12 ≠ 0 → Rejected s n w rest 0x03) ∧
      (1 ≤ k → k ≤ 6 → w.toNat / 16 % 2 ^ 12 = 0 → ¬hasRow k x.st → Rejected s n w rest 0x01)) ∧
    (Comes s n w rest → busy s n → w.toNat % 16 ≠ 4 → ∃ t, exec (commandEvent (w.toNat % 16)) s = .next t ∧
      t.ctx n = { x with cmds := x.cmds ++ [w] } ∧ t.gangs = s.gangs ∧ t.tiles = s.tiles ∧
      ∃ v, ∀ now, v ≤ now → t.homeWord now r = 0) ∧
    (Taken s n w rest 2 → x.st = .running → ∃ t, exec .ctxStop s = .next t ∧ t.ctx n = { y with st := .stopping, stopAt := s.gtc } ∧
      RecordShows s t n ∧ t.gangs = s.gangs ∧ t.launches = s.launches ∧
      ∀ u, u ∈ x.tiles → (s.tile u).dorm ≠ .active → (t.tile u).latch = true) ∧
    (Taken s n w rest 4 → x.st = .running ∨ busy s n →
      (∀ tile slot g, s.gang? tile slot = some g → gkey g.tile g.slot = gkey tile slot) →
      ∃ t, exec .ctxKill s = .next t ∧ (t.ctx n).st = .killing ∧ (t.ctx n).seq = y.seq ∧ (t.ctx n).err = 0 ∧ (t.ctx n).cmds = rest ∧
        (t.ctx n).saved = none ∧ (t.ctx n).await = [] ∧ (nonePosted s n → RecordShows s t n) ∧
        (∀ tile slot h, t.gang? tile slot = some h → h.ctx = n → (∀ q, q ∈ h.queues → q = []) ∧
          ((s.tile h.tile).asleep = false → h.ended = true) ∧
          ((s.tile h.tile).asleep = true → TileMsg.kill n ∈ (t.tile h.tile).held)) ∧
        (∀ u, u ∈ x.tiles → (t.tile u).det = []) ∧ LaunchKilled s t n) ∧
    (Taken s n w rest 4 → x.st = .saved → (∀ e, e ∈ s.gangs → e.2.ctx ≠ n) → ∃ t, exec .ctxKill s = .next t ∧ (t.ctx n).st = .ended ∧
      (t.ctx n).err = 0 ∧ (t.ctx n).saved = none ∧ (t.ctx n).await = [] ∧ (nonePosted s n → RecordShows s t n) ∧ t.gangs = s.gangs ∧
      t.tiles = s.tiles ∧ LaunchKilled s t n) ∧
    (Taken s n w rest 5 → x.st = .running ∨ x.st = .saved →
      let c := s.homeWord s.gtc (r + 0x38)
      (¬ctlFits c → Rejected s n w rest 0x03) ∧
      (ctlFits c → ∃ t, exec .ctxUpdate s = .next t ∧ RecordShows s t n ∧ t.gangs = s.gangs ∧
        t.ctx n = { y with lease := c.toNat / 2 ^ 8 % 2 ^ 13, cap := c.getLsbD 7, share := c.toNat / 4 % 32, pri := c.toNat % 4 } ∧
        (x.st = .saved → t.tiles = s.tiles) ∧
        (x.st = .running → x.slack.k ≠ 16 → x.cap = false → c.getLsbD 7 = true → ∀ u, u ∈ x.tiles → (s.tile u).holder = some n →
          (s.tile u).gear = true → (s.tile u).switching = none → (s.tile u).dorm = .active →
          (t.tile u).switching = some (false, 0, 0) ∧ (t.tile u).request = some true))) ∧
    (Taken s n w rest 6 → x.st = .ended ∨ x.st = .failed → ∃ t, exec .ctxRelease s = .next t ∧ t.ctx n = { y with st := .created } ∧
      RecordShows s t n ∧ t.gangs = s.gangs ∧ t.tiles = s.tiles) ∧
    (∀ v, Taken s n w rest 3 → x.st = .saved → x.saved = some v →
      let same : Prop := Sha.shake256 (s.homeBytes s.gtc x.save v.bytes) = s.homeBytes s.gtc (r + 0x50) 32
      (heldByOther s n x.tiles x.banks → Rejected s n w rest 0x03) ∧
      (¬heldByOther s n x.tiles x.banks → ¬saveFails s n v.bytes → ¬same → Rejected s n w rest 0x05) ∧
      (¬heldByOther s n x.tiles x.banks → saveFails s n v.bytes ∨ same → noPowerWord s r 8 → (∀ u, u ∈ x.tiles → u < 768) →
        ∃ t, exec .ctxResume s = .next t ∧ t.ctx n = { y with st := .restoring } ∧
        RecordShows s t n ∧ t.gangs = s.gangs ∧ (∀ u, u ∈ x.tiles → t.tile u = { s.tile u with holder := some n }) ∧
        ∀ u, u ∉ x.tiles → t.tile u = s.tile u))

namespace Sys2Proof.Claims

/-- Numbers of the bits set in a field of a record. -/
def bitsAt (b : Nat → Byte) (off n : Nat) : List Nat := (List.range n).filter fun i => (b (off + i / 8)).getLsbD (i % 8)

/-- R247, R253, R311: the fields of a record, with the size and INTV of the fault queue it names, are within their limits. -/
def FieldsOk (s : State) (b : Nat → Byte) : Prop :=
  let f (off n : Nat) := at' b off n
  let size := (s.homeWord s.gtc (f 0x20 8 + 8)).toNat
  f 8 8 % 65536 = 0 ∧ f 8 8 + 4096 ≤ 576000000000 ∧ f 0x10 8 % 4096 = 0 ∧ f 0x10 8 + max (f 0x18 8) 1 ≤ 576000000000 ∧
    f 0x20 8 % 4096 = 0 ∧ f 0x20 8 + 64 + 64 * size ≤ 576000000000 ∧ (∃ k, 4 ≤ k ∧ k ≤ 16 ∧ size = 2 ^ k) ∧
    (s.homeWord s.gtc (f 0x20 8 + 0x0C)).toNat < 1024 ∧ f 0x28 8 < 2 ^ 52 ∧ ctlFits (BitVec.ofNat 32 (f 0x38 4)) ∧ f 0x3C 4 = 0

/-- Table 12.1: a context as a record describes it. -/
def ofRecord (s : State) (x : Ctx) (b : Nat → Byte) : Ctx :=
  let f (off n : Nat) := at' b off n
  { seq := x.seq, err := x.err, cmds := x.cmds, slack := { x.slack with open_ := [] }, saves := x.saves
    root := f 8 8, save := f 0x10 8, savelen := f 0x18 8, fq := f 0x20 8, fqSize := (s.homeWord s.gtc (f 0x20 8 + 8)).toNat
    tbase := num (f 0x28 8 / 2 ^ 12 * 2 ^ 12), loglim := num (f 0x30 8), lease := f 0x38 4 / 2 ^ 8 % 2 ^ 13
    cap := decide (f 0x38 4 / 2 ^ 7 % 2 = 1), share := f 0x38 4 / 4 % 32, pri := f 0x38 4 % 4
    banks := bitsAt b 0x70 384, tiles := bitsAt b 0xA0 768 }

/-- R48, R266: a launcher's gang. -/
def LauncherGang (n tile slot : Nat) (gen : BitVec 16) (desc code : Dword) (pri now : Nat) (h : Gang) : Prop :=
  { h with sregs := [] } =
    { tile := tile, slot := slot, gen := gen, ctx := n, nsl := 1, nv := 8, ns := 32, pri := pri, since := now, slices := [{ pc := code }] } ∧
  h.sreg 0 = desc.extractLsb' 0 32 ∧ h.sreg 1 = desc.extractLsb' 32 32 ∧ ∀ k, 2 ≤ k → h.sreg k = 0xFFFFFFFF

/-- R251: a tile of a stopping context has come to rest. -/
def Rests (s : State) (u : Nat) : Prop :=
  (s.tile u).sq = [] ∧ (s.tile u).switching = none ∧ (s.tile u).dorm = .active ∧ (s.cluster (u / 4)).relock = none ∧
    (s.tile u).stage = [] ∧
    (∀ d e, d ∈ s.drains → e ∈ d.entries → e.1 ≠ u) ∧
    ∀ g, g ∈ s.gangsOf u → (∀ p, p ∈ g.pend → p.returned = true ∨ p.engine = true ∨ p.dests = []) ∧
      ∀ y, y ∈ g.slices → y.wait ≠ .spill ∧ y.wait ≠ .refill

/-- R254: the bytes that a gang and a tile take in the save area. -/
def gangBytes (g : Gang) : Nat := 16 * g.nsl * g.nv + 672 * g.nsl + 4 * g.ns + 512
def savedBytes (s : State) (n : Nat) : Nat :=
  ((s.ctx n).tiles.map fun u => 64 + ((s.tile u).allocs.map fun a => a.bytes).sum +
    (((s.gangs.map Prod.snd).filter fun g => g.ctx == n && g.tile == u && !g.ended).map gangBytes).sum).sum + 65544 * (s.ctx n).banks.length

/-- Table 12.2: the tiles of a context are free and none of its gangs stands on the device. -/
def Freed (s t : State) (n : Nat) : Prop :=
  (∀ u, u ∈ (s.ctx n).tiles → (t.tile u).holder = none ∧ (t.tile u).gear = false ∧ (t.tile u).allocs = [] ∧ (t.tile u).det = [] ∧
    (t.tile u).l1 = []) ∧ (∀ u, u ∉ (s.ctx n).tiles → { t.tile u with tlb := (s.tile u).tlb } = s.tile u) ∧
    ∀ tile slot g, t.gang? tile slot = some g → g.ctx ≠ n

end Sys2Proof.Claims

/-- R101, R246, R252, R253, R254, R266, Table 12.2: `start` is rejected by the record's fields, by what others hold, by a record that names
no tile, by too short a save area, and else takes the tiles and banks and starts the launchers; a stopped context that has come to rest, no
window left open, is saved, its tiles freed; a restore puts back what was saved; a save area that cannot be written or read makes the
context FAILED, its work discarded and the granules of its groves counted on; a killed context whose groves have retired and whose stores
have completed has ended. The model's readings and choices: ROOT must lie in HBM and INTV[31:10] be 0 (log entry 40), SAVELEN is checked
after the cases of 0x03 (log entry 69), a failed save or restore discards the work as a kill does (log entry 41), and the bytes of the save
area are opaque values of Config (log entry 6). -/
def Obligations.ContextsMove : Prop :=
  (∀ s n w rest, Taken s n w rest 1 → (s.ctx n).st = .created →
    let b (k : Nat) : Byte := s.homeByte s.gtc (recordOf s n + k)
    let x := ofRecord s { s.ctx n with seq := w.toNat / 2 ^ 16, cmds := rest } b
    let u := s.modCtx n fun _ => x
    (¬FieldsOk s b → Rejected s n w rest 0x03) ∧
    (∀ entry : Nat → Nat → Byte,
      (∀ k, k < 8 → u.readNow n (x.tbase + num (0x800 + 32 * k)) 32 = .ok ((List.range 32).map (entry k))) →
      (∀ k, 1 ≤ k → k < 8 → at' (entry k) 20 4 % 2 = 0) →
      let desc : Dword := num (at' (entry 0) 0 8)
      let code : Dword := num (at' (entry 0) 8 8)
      let tile := at' (entry 0) 16 4
      FieldsOk s b → x.loglim = 0 → (∀ e, e ∈ s.gangs → e.2.ctx ≠ n) → noPowerWord s x.fq 4 → noPowerWord s (recordOf s n) 8 →
      (at' (entry 0) 20 4 % 2 = 1 → desc.toNat % 32 = 0 ∧ code.toNat % 4 = 0 ∧ tile < 1024 ∧ at' (entry 0) 20 4 = 1 ∧ at' (entry 0) 24 8 = 0 ∧
        (∃ loc sc, u.placeNow n desc 0 = .at_ loc sc) ∧ (∃ loc sc, u.placeNow n code 0 = .at_ loc sc) ∧ tile ∈ x.tiles) →
      ((x.tiles = [] ∨ heldByOther s n x.tiles x.banks) → Rejected s n w rest 0x03) ∧
      (x.tiles ≠ [] → ¬heldByOther s n x.tiles x.banks →
        let need := 778304 * x.tiles.length + 65544 * x.banks.length
        (x.savelen < need → Rejected s n w rest 0x04) ∧
        (need ≤ x.savelen → ∃ t, exec .ctxStart s = .next t ∧ t.ctx n = { x with st := .running, err := 0, logStart := s.gtc } ∧
          RecordShows s t n ∧ (∃ v, ∀ now, v ≤ now → t.homeWord now x.fq = 0) ∧
          (∀ u, u ∈ x.tiles → (t.tile u).holder = some n ∧ (t.tile u).gear = false ∧ (t.tile u).drop = 0) ∧
          (∀ c j, 2 * c + j ∈ x.banks → j < 2 → (s.cluster c).bankHolder.length = 2 →
            (t.cluster c).bankHolder.getD j none = some n ∧ (t.cluster c).prog.getD j 0 = 0) ∧
          (at' (entry 0) 20 4 % 2 = 0 → t.gangs = s.gangs) ∧
          (at' (entry 0) 20 4 % 2 = 1 → ∀ slot, (freeSlots s tile).head? = some slot → ∃ h, t.gang? tile slot = some h ∧
            LauncherGang n tile slot (Sparse.get 0 (s.tile tile).slotGen slot + 1) desc code x.pri s.gtc h ∧
            ∀ i j, gkey i j ≠ gkey tile slot → t.gang? i j = s.gang? i j))))) ∧
  (∀ s n, n = s.subject.unit → let x := s.ctx n
    let r := recordOf s n
    let size := savedBytes s n
    x.st = .stopping → (∀ u, u ∈ x.tiles → Rests s u) →
    (∀ e p j, e ∈ s.gangs → e.2.ctx = n → e.2.ended = false → p ∈ e.2.pend → j ∈ p.slices → p.left.getD j 0 = 0) →
    s.boot.ctxbase.toNat % 256 = 0 → (x.save + size ≤ r ∨ r + 256 ≤ x.save) → ¬saveFails s n size →
    ∃ t v, exec .ctxSaveComplete s = .next t ∧ (t.ctx n).st = .saved ∧ (t.ctx n).saved = some v ∧ v.bytes = size ∧ Freed s t n ∧
      (∀ u, u ∈ x.tiles → ∃ z, z ∈ v.tiles ∧ z.tile = u ∧ z.gear = (s.tile u).gear ∧ z.allocs = (s.tile u).allocs ∧ z.det = (s.tile u).det ∧
        z.drop = (s.tile u).drop ∧
        (∀ k g, (k, g) ∈ s.gangs → g.ctx = n → g.tile = u → ∃ h, (k, h) ∈ z.gangs ∧ h.pos = none ∧ h.queues = g.queues ∧
          (∀ i j, h.pred i j = g.pred i j) ∧ (∀ j, h.remOf j = g.remOf j) ∧ h.trap = g.trap ∧
          (g.pend = [] → (∀ i, h.sreg i = g.sreg i) ∧ ∀ i j, h.vreg i j = g.vreg i j) ∧
          ∀ (j : Nat) (y z : Slice), g.slices[j]? = some y → h.slices[j]? = some z → z.pc = y.pc ∧ z.mode = y.mode ∧ z.fl = y.fl ∧ z.repc = y.repc)) ∧
      ∃ w, ∀ now, w ≤ now → (∀ i, i < size → t.homeByte now (x.save + i) = Config.saveByte (n + 64 * x.saves) i) ∧
        t.homeDword now (r + 0x40) = num size ∧ t.homeDword now (r + 0x48) = num (s.gtc - x.stopAt) ∧
        t.homeBytes now (r + 0x50) 32 = Sha.shake256 (t.homeBytes now x.save size) ∧
        t.homeWord now (r + 4) = BitVec.ofNat 32 (x.seq * 2 ^ 16 + 3)) ∧
  (∀ s n v, n = s.subject.unit → let x := s.ctx n
    x.st = .restoring → x.saved = some v → x.replies = [] → x.loglim = 0 → ¬saveFails s n v.bytes → ((v.tiles.flatMap fun z => z.gangs).map Prod.fst).Nodup →
    (v.tiles.map fun z => z.tile).Nodup → (v.banks.map fun z => z.bank).Nodup → (∀ z, z ∈ v.banks → z.acc.length ≤ 16384) →
    ∃ t, exec .ctxRestoreComplete s = .next t ∧ (t.ctx n).st = .running ∧ (t.ctx n).err = 0 ∧ (t.ctx n).saved = none ∧
      (∀ z k g, z ∈ v.tiles → (k, g) ∈ z.gangs → Sparse.find? t.gangs k = some { g with since := s.gtc }) ∧
      (∀ k, (∀ z, z ∈ v.tiles → k ∉ z.gangs.map Prod.fst) → Sparse.find? t.gangs k = Sparse.find? s.gangs k) ∧
      (∀ z, z ∈ v.tiles → (t.tile z.tile).allocs = z.allocs ∧ (t.tile z.tile).det = z.det ∧ (t.tile z.tile).drop = z.drop) ∧
      ∀ z i w, z ∈ v.banks → z.acc[i]? = some w → i < 16384 → (t.cluster (z.bank / 2)).accWord (z.bank % 2 * 16384 + i) = w) ∧
  (∀ s n v, n = s.subject.unit → let x := s.ctx n
    x.st = .restoring → x.saved = some v → saveFails s n v.bytes → s.boot.ctxbase.toNat % 256 = 0 →
    ∃ t, exec .ctxRestoreComplete s = .next t ∧ (t.ctx n).st = .failed ∧ (t.ctx n).err = 0x06 ∧ (t.ctx n).saved = none ∧
      (∀ u, u ∈ x.tiles → (t.tile u).holder = none) ∧ LaunchKilled s t n ∧
      ∃ w, ∀ now, w ≤ now → t.homeWord now (recordOf s n + 4) = BitVec.ofNat 32 (x.seq * 2 ^ 16 + 0x607)) ∧
  (∀ s n, n = s.subject.unit → let x := s.ctx n
    let size := savedBytes s n
    x.st = .stopping → (∀ u, u ∈ x.tiles → Rests s u) →
    (∀ e p j, e ∈ s.gangs → e.2.ctx = n → e.2.ended = false → p ∈ e.2.pend → j ∈ p.slices → p.left.getD j 0 = 0) →
    s.boot.ctxbase.toNat % 256 = 0 → saveFails s n size →
    ∃ t, exec .ctxSaveComplete s = .next t ∧ (t.ctx n).st = .failed ∧ (t.ctx n).err = 0x06 ∧ (t.ctx n).saved = none ∧ Freed s t n ∧
      LaunchKilled s t n ∧
      (∀ u k, u ∈ x.tiles → (s.tile u).holder = some n → Sparse.get 0 (t.tile u).granule k = Sparse.get 0 (s.tile u).granule k +
        BitVec.ofNat 16 ((s.tile u).allocs.filter fun a =>
          decide (a.base / 4096 ≤ k ∧ k < a.base / 4096 + (a.bytes + 4095) / 4096)).length) ∧
      ∃ w, ∀ now, w ≤ now → t.homeWord now (recordOf s n + 4) = BitVec.ofNat 32 (x.seq * 2 ^ 16 + 0x607)) ∧
  (∀ s n, n = s.subject.unit → (s.ctx n).st = .killing → s.boot.ctxbase.toNat % 256 = 0 → (∀ e, e ∈ s.gangs → e.2.ctx ≠ n) →
    (∀ u, u ∈ (s.ctx n).tiles →
      (s.tile u).sq = [] ∧ (s.tile u).switching = none ∧ (s.tile u).dorm = .active ∧ (s.tile u).stage = []) →
    ∃ t, exec .ctxKillComplete s = .next t ∧ t.ctx n = { s.ctx n with st := .ended, err := 0 } ∧ Freed s t n ∧
      ∃ w, ∀ now, w ≤ now → t.homeWord now (recordOf s n + 4) = BitVec.ofNat 32 ((s.ctx n).seq * 2 ^ 16 + 6))

/-! ## Fault queue (spec/17_page.md) -/

namespace Sys2Proof.Claims

/-- R312: whether the queue of a context has room for one more record beyond `k` that are to be posted. -/
def roomAfter (s : State) (n k : Nat) : Prop :=
  let x := s.ctx n
  (x.fqPut + k + 2 ^ 32 - (s.homeWord s.gtc (x.fq + 4)).toNat) % 2 ^ 32 < x.fqSize

/-- Table 17.4: the record `r` stands at a place from a time on, posted at a time. -/
def RecordAt (t : State) (w p : Nat) (r : FaultRec) (seq time : Nat) : Prop :=
  ∀ now, w ≤ now →
    t.homeWord now p = BitVec.ofNat 32 (r.kind + r.cause * 256) ∧
    (r.kind ≠ 4 → r.kind ≠ 5 → t.homeWord now (p + 4) = BitVec.ofNat 32 (r.tile % 1024 + r.slot % 32 * 1024)) ∧
    (r.kind = 4 → t.homeWord now (p + 4) = BitVec.ofNat 32 (r.tile % 1024 + r.slot % 32 * 1024 + r.cls % 4 * 65536)) ∧
    (r.kind = 5 → t.homeWord now (p + 4) = 0) ∧ t.homeDword now (p + 8) = r.addr ∧ t.homeDword now (p + 0x10) = r.pc ∧
    t.homeWord now (p + 0x18) = r.mask ∧ t.homeWord now (p + 0x1C) = r.first ∧ t.homeDword now (p + 0x20) = num time ∧
    t.homeDword now (p + 0x28) = num r.step ∧ t.homeWord now (p + 0x30) = BitVec.ofNat 32 r.need ∧
    t.homeWord now (p + 0x34) = BitVec.ofNat 32 seq ∧ t.homeDword now (p + 0x38) = 0

/-- The event that takes a request's code. -/
def requestEvent (k : Nat) : Instr :=
  match k with
  | 1 => .fqResume | 2 => .fqDecline | 3 => .fqInvalidate | _ => .fqKill

/-- R313: the request `w` stands in REQ of a context with a fault queue. -/
structure Asked (s : State) (n : Nat) (w : Word) : Prop where
  unit : s.subject.unit = n
  queue : (s.ctx n).fq % 64 = 0
  state : (s.ctx n).st ≠ .created ∧ (s.ctx n).st ≠ .ended ∧ (s.ctx n).st ≠ .failed
  some_ : w ≠ 0
  word : s.standing ((s.ctx n).fq + 0x10) = w

/-- R313: REQ is cleared and ACK written with a code. -/
def Answered (s t : State) (n : Nat) (w : Word) (code : Nat) : Prop :=
  ∃ v, ∀ now, v ≤ now → t.homeWord now ((s.ctx n).fq + 0x10) = 0 ∧
    t.homeWord now ((s.ctx n).fq + 0x14) = BitVec.ofNat 32 (w.toNat / 2 ^ 16 * 2 ^ 16 + code * 2 ^ 8)

/-- R313: a well-formed request of code `k` whose argument names the awaiting record `r`. -/
def Replies (s : State) (n : Nat) (w : Word) (k : Nat) (r : FaultRec) : Prop :=
  Asked s n w ∧ w.toNat % 16 = k ∧ w.toNat / 16 % 2 ^ 12 = 0 ∧
    (s.ctx n).await.find? (fun r => r.seq == (s.homeWord s.gtc ((s.ctx n).fq + 0x18)).toNat) = some r

/-- R313: what an answered reply leaves of its context. -/
def ReplyLeft (s t : State) (n : Nat) (w : Word) (r : FaultRec) : Prop :=
  Answered s t n w 0 ∧ (∀ z, z ∈ (t.ctx n).await ↔ z ∈ (s.ctx n).await ∧ z.seq ≠ r.seq)

/-- The gang that a record stands for, in its slot. -/
def StandsFor (s : State) (r : FaultRec) (g : Gang) : Prop :=
  s.gang? r.tile r.slot = some g ∧ g.tile = r.tile ∧ g.slot = r.slot ∧ g.gen = r.gen ∧ g.ended = false

/-- R121: every gang of a gang's grove has ended. -/
def GroveEnds (s t : State) (g : Gang) : Prop :=
  ∀ k, k ∈ s.groveGangs g → s.gang? k.tile k.slot = some k → k.gidx < 16 → (∀ a, a ∈ s.groveGangs g → a.gidx = k.gidx → a = k) →
    ∃ h, t.gang? k.tile k.slot = some h ∧ h.ended = true

/-- R320: an interrupt may leave: its PUT is in force, and no store to the host that it travels behind is still to be applied. -/
def RingDue (s : State) (q : Ring) : Prop :=
  q.w ≤ s.gtc ∧ ∀ h, h ∈ s.hostStores → h.w = none → (h.tile, h.seq) ∉ q.behind

/-- R330, R314: a held atomic of a context: in a tile's buffer, in a drain, or saved. -/
def HeldFor (s : State) (n : Nat) (h : Held) : Prop :=
  (∃ l, s.launch? h.launch = some l ∧ l.ctx = n) ∧
    ((∃ e, e ∈ s.tiles ∧ h ∈ e.2.det) ∨ (∃ d e, d ∈ s.drains ∧ e ∈ d.entries ∧ e.2 = h) ∨
      ∃ v z, (s.ctx n).saved = some v ∧ z ∈ v.tiles ∧ h ∈ z.det)

/-- R314: nothing that used the translations of a removal is left. -/
def RemovalOver (s : State) (n : Nat) (m : Removal) : Prop :=
  m.until_ ≤ s.gtc ∧ (∀ x q, x ∈ m.stores → q ∈ (s.tile x.1).sq → q.seq ≠ x.2) ∧
    (∀ x h p part, x ∈ m.loads → s.gang? x.1 x.2.1 = some h → p ∈ h.pend → p.id = x.2.2 → p.load = some part → part.need = []) ∧
    (∀ x h w, x ∈ m.walked → s.gang? x.1.tile x.1.slot = some h → w ∈ h.walked → w.slice = x.1.slice → w.va ≠ x.2) ∧
    ∀ h, h ∈ m.held → ¬HeldFor s n h
end Sys2Proof.Claims

/-- R122, R311, R312, R313, R314, R320, R342, Tables 17.3 and 17.4: `tpark` posts and parks, or waits for room; a record is posted before
PUT, a release, and the interrupt is raised once PUT is in force; a request is taken from REQ and answered in ACK: a RESUME lets the parked
group or the stalled command go on, a DECLINE kills the grove or ends the command with 0x06, a KILL ends the grove and discards the queue, a
reply to a saved context is kept, one for a tile that sleeps is held for its exit, and an INVALIDATE removes the page's translations and is
acknowledged once what used them is over. The model's choices: `tpark` at SUP = 0 parks only the group that executes it (log entry 60), and
what an INVALIDATE waits for is read as log entry 72 says. -/
def Obligations.FaultQueue : Prop :=
  (∀ s c g, Starts s c g .tpark → unlogged s g →
    let x := s.ctx g.ctx
    (¬roomAfter s g.ctx x.posts.length → Waits s c g .tpark .issue) ∧
    (roomAfter s g.ctx x.posts.length → ∃ t h r, exec .tpark s = .next t ∧ t.gang? c.tile c.slot = some h ∧
      (∀ j, h.slice j = if j ∈ g.group c.slice then { g.slice j with wait := .park } else g.slice j) ∧
      Left g h g.sreg g.vreg g.pred g.remOf g.fpst g.pend ∧ t.ctx g.ctx = { x with posts := x.posts ++ [r] } ∧
      { t with gangs := s.gangs, ctxs := s.ctxs } = s ∧ r.tile = g.tile ∧ r.slot = g.slot ∧ r.gen = g.gen ∧ r.lane = c.slice ∧
      (g.sup = true → r.kind = 1 ∧ r.cause = g.trap.tcause.toNat % 256 ∧ r.addr = g.trap.tval ∧ r.pc = g.trap.tpc ∧ r.mask = g.trap.tmask ∧
        r.need = g.trap.need) ∧
      (g.sup = false → r.kind = 2 ∧ r.cause = 0 ∧ r.addr = 0 ∧ r.pc = (g.slice c.slice).pc ∧ r.need = 0 ∧
        ∀ k, k < 32 → r.mask.getLsbD k = decide (k ∈ lanes g c)))) ∧
  (∀ s n r rest, s.subject.unit = n → let x := s.ctx n
    x.posts = r :: rest → (∀ q, q ∈ x.rings → ¬RingDue s q) → x.fq % 64 = 0 → roomAfter s n 0 →
    ∃ t w v q, exec .faultQueuePost s = .next t ∧ w + 8 < v ∧ s.gtc < w ∧
      RecordAt t w (x.fq + 64 + 64 * (x.fqPut % x.fqSize)) r x.fqPut s.gtc ∧
      (∀ now, v ≤ now → t.homeWord now x.fq = BitVec.ofNat 32 (x.fqPut + 1)) ∧
      (∀ now, now < v → t.homeWord now x.fq = s.homeWord now x.fq) ∧
      t.ctx n = { x with
        posts := rest, fqPut := (x.fqPut + 1) % 2 ^ 32, rings := x.rings ++ [q]
        await := if r.kind = 1 ∨ r.kind = 2 ∨ r.kind = 4 then x.await ++ [{ r with seq := x.fqPut }] else x.await } ∧
      q.vector = (s.homeWord s.gtc (x.fq + 0x0C)).toNat % 1024 ∧ q.w = v ∧
      (∀ h, h ∈ s.hostStores → h.w = none → (h.tile, h.seq) ∈ q.behind) ∧ t.sent = s.sent ∧ t.irqs = s.irqs ∧
      t.gangs = s.gangs ∧ t.tiles = s.tiles) ∧
  (∀ s n pre q post, s.subject.unit = n → (s.ctx n).rings = pre ++ q :: post → RingDue s q → (∀ z, z ∈ pre → ¬RingDue s z) →
    let up := (s.link 0).st = .up ∨ (s.link 0).st = .degraded
    ∃ t, exec .faultQueuePost s = .next t ∧ t.ctx n = { s.ctx n with rings := pre ++ post } ∧
      (up → t.sent = s.sent ++ [q.vector] ∧ t.irqs = s.irqs) ∧
      (¬up → t.sent = s.sent ∧ t.irqs = if q.vector ∈ s.irqs then s.irqs else s.irqs ++ [q.vector]) ∧
      { t with ctxs := s.ctxs, sent := s.sent, irqs := s.irqs } = s) ∧
  (∀ s n w, Asked s n w → (w.toNat % 16 = 0 ∨ 5 ≤ w.toNat % 16 ∨ w.toNat / 16 % 2 ^ 12 ≠ 0) →
    ∃ t, exec (requestEvent (w.toNat % 16)) s = .next t ∧ Answered s t n w 2 ∧ t.gangs = s.gangs ∧ t.ctxs = s.ctxs ∧ t.tiles = s.tiles) ∧
  (∀ s n w k, Asked s n w → w.toNat % 16 = k → k ∈ [1, 2, 4] → w.toNat / 16 % 2 ^ 12 = 0 →
    (∀ r, r ∈ (s.ctx n).await → r.seq ≠ (s.homeWord s.gtc ((s.ctx n).fq + 0x18)).toNat) →
    ∃ t, exec (requestEvent k) s = .next t ∧ Answered s t n w 1 ∧ t.gangs = s.gangs ∧ t.ctxs = s.ctxs ∧ t.tiles = s.tiles) ∧
  (∀ s n w k r, Replies s n w k r → k ∈ [1, 2, 4] → (s.ctx n).st = .saved ∨ (s.ctx n).st = .restoring →
    ∃ t, exec (requestEvent k) s = .next t ∧ ReplyLeft s t n w r ∧ (t.ctx n).replies = (s.ctx n).replies ++ [(k, r)] ∧ t.gangs = s.gangs) ∧
  (∀ s n w k r g, Replies s n w k r → k ∈ [1, 2, 4] → (s.ctx n).st ≠ .saved → (s.ctx n).st ≠ .restoring → StandsFor s r g →
    (s.tile r.tile).asleep = true → ∃ t, exec (requestEvent k) s = .next t ∧ ReplyLeft s t n w r ∧ t.gangs = s.gangs ∧
      (t.tile r.tile).held = (s.tile r.tile).held ++ [.reply k r] ∧ (t.tile r.tile).latch = true) ∧
  (∀ s n w k r g, Replies s n w k r → (s.ctx n).st = .running → StandsFor s r g → unlogged s g → (s.tile r.tile).asleep = false →
    (k = 1 → r.kind = 1 → (g.slice r.lane).wait = .park → ∃ t h, exec .fqResume s = .next t ∧ ReplyLeft s t n w r ∧
      t.gang? r.tile r.slot = some h ∧ Left { g with sup := false } h g.sreg g.vreg g.pred g.remOf g.fpst g.pend ∧
      ∀ j, h.slice j = if j ∈ g.liveSlices then returnedSlice g false j else g.slice j) ∧
    (k = 1 → r.kind = 2 → (g.slice r.lane).wait = .park → ∃ t h, exec .fqResume s = .next t ∧ ReplyLeft s t n w r ∧
      t.gang? r.tile r.slot = some h ∧ Left g h g.sreg g.vreg g.pred g.remOf g.fpst g.pend ∧ Past g h ⟨r.tile, r.slot, r.lane⟩) ∧
    (∀ x rest, r.kind = 4 → g.queues.getD r.cls [] = x :: rest → x.stall = true → laneWise x.op = false →
      (k = 1 → ∃ t h, exec .fqResume s = .next t ∧ ReplyLeft s t n w r ∧ t.gang? r.tile r.slot = some h ∧
        h.queues.getD r.cls [] = { x with stall := false } :: rest ∧ { h with queues := g.queues } = g) ∧
      (k = 2 → x.code = 0 → ∃ t h, exec .fqDecline s = .next t ∧ ReplyLeft s t n w r ∧ t.gang? r.tile r.slot = some h ∧
        h.queues.getD r.cls [] = { x with stall := false, finished := true, code := 0x06 } :: rest ∧ { h with queues := g.queues } = g)) ∧
    (∀ l z, g.launch = some l → s.launch? l = some z → r.slot < 32 →
      (k = 2 → r.kind = 1 ∨ r.kind = 2 → ∃ t y, exec .fqDecline s = .next t ∧ ReplyLeft s t n w r ∧ GroveEnds s t g ∧
        t.launch? l = some y ∧ y.faulted = true ∧ y.cause = if z.faulted then z.cause else r.cause) ∧
      (k = 4 → r.kind ∈ [1, 2, 4] → ∃ t h y, exec .fqKill s = .next t ∧ ReplyLeft s t n w r ∧ GroveEnds s t g ∧
        t.gang? r.tile r.slot = some h ∧ (r.kind = 4 → h.queues.getD r.cls [] = []) ∧ t.launch? l = some y ∧ y.killed = true))) ∧
  (∀ s n w, Asked s n w → w.toNat % 16 = 3 → w.toNat / 16 % 2 ^ 12 = 0 →
    let a := s.homeDword s.gtc ((s.ctx n).fq + 0x18)
    let goes (x : Xlat) : Prop := x.ctx = n ∧ (a.toNat = 2 ^ 64 - 1 ∨ a.toNat % 2 ^ 52 / 2 ^ x.size = x.va / 2 ^ x.size)
    let hit (page : Nat) : Prop := a.toNat = 2 ^ 64 - 1 ∨ page = a.toNat % 2 ^ 52 / 65536 ∨
      ∃ z, z ∈ (s.ctx n).large ∧ 16 ≤ z.2 ∧ a.toNat % 2 ^ 52 / 2 ^ z.2 = z.1 / 2 ^ z.2 ∧ page * 65536 / 2 ^ z.2 = a.toNat % 2 ^ 52 / 2 ^ z.2
    ∃ t m, exec .fqInvalidate s = .next t ∧ (∃ v, ∀ now, v ≤ now → t.homeWord now ((s.ctx n).fq + 0x10) = 0) ∧
      t.ctx n = { s.ctx n with
        inval := (s.ctx n).inval ++ [m]
        large := (s.ctx n).large.filter fun p => !(a == 0xFFFFFFFFFFFFFFFF || a.toNat % 2 ^ 52 / 2 ^ p.2 == p.1 / 2 ^ p.2) } ∧ m.seq = w.toNat / 2 ^ 16 ∧ t.gangs = s.gangs ∧
      (∀ i x, x ∈ (t.tile i).tlb ↔ x ∈ (s.tile i).tlb ∧ ¬goes x) ∧ (∀ i x, x ∈ (t.cluster i).tlb ↔ x ∈ (s.cluster i).tlb ∧ ¬goes x) ∧
      (∀ e q, e ∈ s.tiles → q ∈ e.2.sq → q.ctx = n → q.mapped = true → hit (tableVa q.addr / 65536) → (e.1, q.seq) ∈ m.stores) ∧
      (∀ h va, HeldFor s n h → h.va = some va → hit (va / 65536) → h ∈ m.held) ∧
      (∀ e, e ∈ s.gangs → e.2.ctx = n →
        (∀ q c p, q ∈ e.2.queues → c ∈ q → p ∈ c.pages → hit p.1 → p.2 ≤ m.until_) ∧
        (∀ p part x loc, p ∈ e.2.pend → p.load = some part → part.mapped = true → x ∈ part.lanes → x.loc = some loc →
          loc / 64 ∈ part.need → hit (tableVa x.addr / 65536) → (e.2.tile, e.2.slot, p.id) ∈ m.loads) ∧
        ∀ y, y ∈ e.2.walked → hit (y.va / 65536) → (⟨e.2.tile, e.2.slot, y.slice⟩, y.va) ∈ m.walked)) ∧
  (∀ s n m, s.subject.unit = n → (s.ctx n).inval[s.subject.slot]? = some m → (s.ctx n).fq % 64 = 0 →
    (RemovalOver s n m → ∃ t v, exec .fqInvalidateAck s = .next t ∧
        t.ctx n = { s.ctx n with inval := (s.ctx n).inval.eraseIdx s.subject.slot } ∧ t.gangs = s.gangs ∧ t.tiles = s.tiles ∧
        ∀ now, v ≤ now → t.homeWord now ((s.ctx n).fq + 0x14) = BitVec.ofNat 32 (m.seq * 2 ^ 16)) ∧
    (¬RemovalOver s n m → exec .fqInvalidateAck s = .next s))

/-! ## Clocks, cadence, slack and the dormant state (spec/01_machine.md, spec/20_power.md) -/

namespace Sys2Proof.Claims

/-- R8: the values CCLK accepts. -/
def clockFits (v : Word) : Prop := v.toNat / 256 % 4 ≠ 3 ∧ 8 ≤ v.toNat % 256 ∧ v.toNat % 256 ≤ 66

/-- R345: the target cadence of a cluster whose floor is `base`. -/
def Target (s : State) (c base C : Nat) : Prop :=
  let asks (k : Nat) : Prop := ∃ n x u, (n, x) ∈ s.ctxs ∧ u / 4 = c ∧ (s.tile u).holder = some n ∧ k = min (x.slack.k + 1) 16
  base ≤ C ∧ (∀ k, asks k → k ≤ C) ∧ (C = base ∨ asks C)

/-- Table 20.3: the power word of a cluster stands at its place. -/
def PowerShows (s t : State) (c : Nat) : Prop :=
  let k := t.cluster c
  s.boot.stage = 3 → ∃ v, ∀ now, v ≤ now →
    t.homeWord now ((s.boot.pwrbase.toNat + 4 * c) % 2 ^ 48) = BitVec.ofNat 32 (k.base + k.cad * 2 ^ 8 + k.slew * 2 ^ 16)

/-- R344, R345: EFF of a cluster's power word shows its cadence, and nothing else of memory has changed. -/
def CadenceShows (s t : State) (c : Nat) : Prop :=
  let p := (s.boot.pwrbase.toNat + 4 * c) % 2 ^ 48 + 1
  (∀ now b, b ≠ p → t.homeByte now b = s.homeByte now b) ∧
    (s.boot.stage = 3 → ∃ v, ∀ now, v ≤ now → t.homeByte now p = BitVec.ofNat 8 (t.cluster c).cad)

/-- Table 20.3: a power word within its limits. -/
def powerFits (v : Word) : Prop :=
  let n := v.toNat
  n / 2 ^ 24 = 0 ∧ n / 2 ^ 13 % 8 = 0 ∧ n / 2 ^ 5 % 8 = 0 ∧ 1 ≤ n % 32 ∧ n % 32 ≤ 16

/-- R346: an enabled record within its limits; `zero` is the part of it that must be zero. -/
def slackFits (ctl hi lo notch : Word) (zero : Dword) : Prop :=
  let n := ctl.toNat
  zero = 0 ∧ n / 2 ^ 21 = 0 ∧ n / 2 % 2 ^ 7 = 0 ∧ n / 2 ^ 16 % 32 ≤ 16 ∧ notch.toNat ≠ 0 ∧ lo.toNat + 2 * notch.toNat ≤ hi.toNat

/-- R348: a context's slack record has become `y`: STATE and AVG show it, the clusters of its tiles are at its cadence at least, and a cap
that comes with notch 16 or goes with it switches its tiles. -/
def SlackLeft (s : State) (i : Instr) (n : Nat) (y : Slack) : Prop :=
  let x := s.ctx n
  ∃ t, exec i s = .next t ∧ t.ctx n = { x with slack := y } ∧ (∀ m, m ≠ n → t.ctx m = s.ctx m) ∧ t.gangs = s.gangs ∧
    t.launches = s.launches ∧ (∀ c, (s.cluster c).cad ≤ (t.cluster c).cad) ∧
    (∀ u, u ∈ x.tiles → (s.tile u).holder = some n → min (y.k + 1) 16 ≤ (t.cluster (u / 4)).cad) ∧
    (s.boot.stage = 3 → ∃ v, ∀ now, v ≤ now → let p := (s.boot.pwrbase.toNat + 0x400 + 32 * n + 0x10) % 2 ^ 48
      t.homeWord now p = BitVec.ofNat 32 (y.k + (if y.err then 2 ^ 15 else 0) + y.rounds * 2 ^ 16) ∧
      t.homeWord now (p + 4) = BitVec.ofNat 32 y.avg) ∧
    ((y.k = 16 ↔ x.slack.k = 16) → t.tiles = s.tiles) ∧
    (x.cap = false → ∀ u, u ∈ x.tiles → (s.tile u).holder = some n → (s.tile u).switching = none → (s.tile u).dorm = .active →
      (y.k = 16 → x.slack.k ≠ 16 → (s.tile u).gear = true →
        (t.tile u).switching = some (false, 0, 0) ∧ (t.tile u).request = some true) ∧
      (y.k ≠ 16 → x.slack.k = 16 → (s.tile u).gear = false → (s.tile u).request = some true →
        (t.tile u).switching = some (true, 0, 0) ∧ (t.tile u).request = none))

/-- R341: what lets a tile fall asleep: its queue is empty, and its gangs await nothing and are parked. -/
def sleepy (s : State) (u : Nat) : Prop :=
  (s.tile u).sq = [] ∧ ∀ g, g ∈ s.gangsOf u → g.pend = [] ∧ ∀ j, j ∈ g.leaders →
    (g.slice j).wait = .wata ∨ (g.slice j).wait = .park ∨ ∃ b, (g.slice j).wait = .barrier b

/-- R342, R190, R251, R296: a wake message has come for the tile, its context is being stopped or killed, the phase at which one of its
groups waits has completed, or the watch or the budget of one has ended. -/
def called (s : State) (u : Nat) : Prop :=
  (s.tile u).latch = true ∨ (∃ n, (s.tile u).holder = some n ∧ ((s.ctx n).st = .stopping ∨ (s.ctx n).st = .killing)) ∨
    (∃ g j b m, g ∈ s.gangsOf u ∧ j ∈ g.leaders ∧ (g.slice j).wait = .barrier b ∧ s.member? g b = some m ∧ m.completed ≠ none) ∨
    (∃ w e, w ∈ s.watches ∧ w.launch = none ∧ w.tile = u ∧ w.fired = some e ∧ e ≤ s.gtc) ∨
    ∃ g j e, g ∈ s.gangsOf u ∧ j ∈ g.leaders ∧ (g.slice j).wait = .wata ∧
      (g.slice j).budget.find? (fun b => b.1 == (g.slice j).pc) = some ((g.slice j).pc, e) ∧ e ≤ s.gtc

/-- Window writes alone are held for a tile. -/
def onlyWrites (x : Tile) : Prop := ∀ m, m ∈ x.held → ∃ w, m = .write w

/-- An event that changes one tile alone. -/
def TileBecomes (s : State) (i : Instr) (u : Nat) (x : Tile) : Prop :=
  ∃ t, exec i s = .next t ∧ t.tile u = x ∧ (∀ v, v ≠ u → t.tile v = s.tile v) ∧ { t with tiles := s.tiles } = s

end Sys2Proof.Claims

/-- R8, R14, R344, R345, R346, R347, R348: CCLK takes a legal new value once its tiles have drained, and the writes held for them are
applied; a power word within its limits sets BASE and SLEW, and the device's own word stands there again; a rise of the target cadence acts
at once, and a fall by one step in each window of 64 fc; a slack record is checked when it is written, and a round, the last completion less
the last acceptance, moves its notch by at most one. The model's choices: the device's own power word stands again after a write that is
rejected (log entry 7), reserved bits of CCLK are masked and the words are shown at STAGE 3 (log entry 44), and how half-done rounds are
kept is log entry 72. -/
def Obligations.PowerControl : Prop :=
  (∀ s c value, let k := s.cluster c
    let v := value &&& 0x3FF
    (¬clockFits value → exec (.cclkWrite c value) s = .next s) ∧
    (clockFits value → ∃ t, exec (.cclkWrite c value) s = .next t ∧
      (k.relock = none → k.cclk = v → t.clusters = s.clusters) ∧
      (k.relock ≠ none ∨ k.cclk ≠ v → t.cluster c = { k with relock := some v } ∧ ∀ d, d ≠ c → t.cluster d = s.cluster d) ∧
      (∀ u, u / 4 = c → (s.tile u).dorm ≠ .active → (t.tile u).latch = true) ∧
      { t with clusters := s.clusters, tiles := s.tiles } = s)) ∧
  (∀ s v, let c := s.subject.unit
    let busy : Prop := ∃ u g x, u / 4 = c ∧ g ∈ s.gangsOf u ∧ x ∈ g.slices ∧ (x.wait = .spill ∨ x.wait = .refill)
    (s.cluster c).relock = some v →
    (busy → exec .cclkRelockComplete s = .next s) ∧
    (¬busy → ∃ t, exec .cclkRelockComplete s = .next t ∧ t.cluster c = { s.cluster c with cclk := v, relock := none } ∧
      (∀ d, d ≠ c → t.cluster d = s.cluster d) ∧
      (∀ u, u / 4 = c → (t.tile u).held =
        if (s.tile u).switching = none ∧ (s.tile u).dorm ∈ [Dorm.active, .sealing] then [] else (s.tile u).held) ∧
      ((∀ u, u / 4 = c → (s.tile u).held = [] ∧ ∀ g, g ∈ s.gangsOf u → g.pend = []) → ∀ i j, t.gang? i j = s.gang? i j) ∧
      ((∀ u, u / 4 = c → onlyWrites (s.tile u)) → t.homes = s.homes ∧ t.mem = s.mem))) ∧
  (∀ s c value, let k := s.cluster c
    (¬powerFits value → ∃ t, exec (.clusterPowerWrite c value) s = .next t ∧ t.clusters = s.clusters ∧ PowerShows s t c ∧
      t.gangs = s.gangs ∧ t.tiles = s.tiles) ∧
    (∀ C, powerFits value → Target s c (value.toNat % 32) C → ∃ t, exec (.clusterPowerWrite c value) s = .next t ∧
      t.cluster c = { k with base := value.toNat % 32, slew := value.toNat / 2 ^ 16 % 256, cad := max k.cad C } ∧
      (∀ d, d ≠ c → t.cluster d = s.cluster d) ∧ PowerShows s t c ∧ t.gangs = s.gangs ∧ t.tiles = s.tiles)) ∧
  (∀ s C, let c := s.subject.unit
    let k := s.cluster c
    let window := s.gtc * (k.cclk.toNat % 256) / 2560
    Target s c k.base C →
    (k.cad ≤ C ∨ k.cadWin = some window → exec .cadenceStep s = .next s) ∧
    (C < k.cad → k.cadWin ≠ some window →
      ∃ t, exec .cadenceStep s = .next t ∧ t.cluster c = { k with cad := k.cad - 1, cadWin := some window } ∧
      (∀ d, d ≠ c → t.cluster d = s.cluster d) ∧ CadenceShows s t c ∧ t.gangs = s.gangs ∧ t.tiles = s.tiles)) ∧
  (∀ s n (ctl hi lo notch : Word), let x := (s.ctx n).slack
    let same : Prop := x.ctl.getLsbD 0 = true ∧ x.err = false ∧ ctl.toNat / 2 ^ 8 % 2 ^ 8 = x.ctl.toNat / 2 ^ 8 % 2 ^ 8
    let p := (s.boot.pwrbase.toNat + 0x400 + 32 * n) % 2 ^ 48 + 0x18
    let zero : Dword := if s.boot.stage = 3 then s.homeDword (max s.gtc (s.home (p / 64)).lastW) p else 0
    let rest := x.open_.filter fun r => decide (r.ranks.length < r.hosted)
    let y : Slack := { x with ctl := ctl, hi := hi, lo := lo, notchTicks := notch, zero := zero }
    let i : Instr := .slackRecordWrite n ctl hi lo notch
    (ctl.getLsbD 0 = false → SlackLeft s i n { y with k := 0, open_ := rest }) ∧
    (ctl.getLsbD 0 = true → slackFits ctl hi lo notch zero → same → SlackLeft s i n { y with err := false }) ∧
    (ctl.getLsbD 0 = true → slackFits ctl hi lo notch zero → ¬same → SlackLeft s i n { y with err := false, open_ := rest }) ∧
    (ctl.getLsbD 0 = true → ¬slackFits ctl hi lo notch zero → SlackLeft s i n { y with err := true, k := 0, open_ := rest })) ∧
  (∀ s n d, let x := (s.ctx n).slack
    x.ctl.getLsbD 0 = false ∨ x.err = true ∨ (∀ r, r ∈ x.open_ → r.ranks.length < r.hosted) → exec (.slackRound n d) s = .next s) ∧
  (∀ s n pre r post, let x := (s.ctx n).slack
    let i := Instr.slackRound n (r.completed - r.accepted)
    x.ctl.getLsbD 0 = true → x.err = false → x.open_ = pre ++ r :: post → r.hosted ≤ r.ranks.length → (∀ z, z ∈ pre → z.ranks.length < z.hosted) →
    let last := (if x.last.length = 16 then x.last.tail else x.last) ++ [r.completed - r.accepted]
    let y : Slack := { x with last := last, rounds := min (x.rounds + 1) 65535, open_ := pre ++ post }
    let avg := last.sum / 16
    let up : Prop := x.hi.toNat < avg ∧ x.k < x.ctl.toNat / 2 ^ 16 % 32
    let down : Prop := avg < x.lo.toNat ∧ 0 < x.k
    let free : Prop := x.changed = false ∨ 64 ≤ x.rounds + 1
    x.last.length ≤ 16 →
      (last.length < 16 → SlackLeft s i n y) ∧
      (last.length = 16 → free → up → SlackLeft s i n { y with avg := avg, k := x.k + 1, rounds := 0, changed := true }) ∧
      (last.length = 16 → free → ¬up → down →
        SlackLeft s i n { y with avg := avg, k := x.k - 1, rounds := 0, changed := true }) ∧
      (last.length = 16 → ¬(free ∧ (up ∨ down)) → SlackLeft s i n { y with avg := avg }))

/-- R341, R342, R343, Table 20.2: an idle tile in gear 0 asks for the dormant state; at the seal it enters it and its L1 is empty, or a wake
message or work has aborted the entry; a dormant tile that is called wakes, and once awake it is active and its held writes are applied. The
model's readings: entry is aborted also where the tile is no longer idle, and the count of 2,048 cycles is left to the schedule (log entry
45). -/
def Obligations.DormantTiles : Prop :=
  ∀ s, let u := s.subject.unit
    let x := s.tile u
    (x.dorm = .active → x.gear = false → x.switching = none → sleepy s u → ¬called s u →
      TileBecomes s .dormantRequest u { x with dorm := .sealing, latch := false }) ∧
    (x.dorm ≠ .active ∨ x.gear = true ∨ x.switching ≠ none ∨ ¬sleepy s u ∨ called s u → exec .dormantRequest s = .next s) ∧
    (x.dorm = .sealing → sleepy s u → ¬called s u → TileBecomes s .dormantSeal u { x with dorm := .dormant, l1 := [] }) ∧
    (x.dorm = .sealing → called s u ∨ ¬sleepy s u → x.gear = false → x.request ≠ some true → x.lift = false →
      TileBecomes s .dormantSeal u { x with dorm := .active, latch := false }) ∧
    (x.dorm = .dormant → called s u → TileBecomes s .dormantWake u { x with dorm := .waking }) ∧
    (x.dorm ≠ .dormant ∨ ¬called s u → exec .dormantWake s = .next s) ∧
    (x.dorm = .waking → (s.cluster (u / 4)).relock = none → ∃ t, exec .wakeComplete s = .next t ∧ (t.tile u).dorm = .active ∧
      (t.tile u).latch = false ∧ (x.switching = none → (t.tile u).held = []) ∧
      (x.held = [] → (∀ g, g ∈ s.gangsOf u → g.pend = []) → ∀ i j, t.gang? i j = s.gang? i j) ∧
      (onlyWrites x → x.gear = false → x.switching = none → x.request ≠ some true → (x.holder = none ∨ ∃ n, x.holder = some n ∧ (s.ctx n).cap = false ∧
          (s.ctx n).slack.k ≠ 16) → (t.tile u).gear = false ∧ (t.tile u).switching = if x.lift then some (true, 3, 0) else none) ∧
      (onlyWrites x → t.homes = s.homes ∧ t.mem = s.mem))

/-! ## The replay log (spec/19_determinism.md R337, R339) -/

namespace Sys2Proof.Claims

/-- R337: the next log line of a context has room and a place that can be reached, and so has PUT. -/
structure LogReady (s : State) (n loc put : Nat) : Prop where
  room : (s.ctx n).logBase + (s.ctx n).logPut + 64 ≤ (s.ctx n).loglim.toNat
  line : ∃ sc, s.placeNow n (num ((s.ctx n).logBase + (s.ctx n).logPut)) 2 = .at_ loc sc
  desc : ∃ sc, s.placeNow n ((s.ctx n).tbase + 0x3008) 2 = .at_ put sc
  carried : s.carries loc = true
  aligned : loc % 64 = 0 ∧ put % 8 = 0 ∧ put / 64 ≠ loc / 64

/-- R337: the tile's first entries, at most four, stand as one line, and PUT after it; they have left the tile. -/
def LogWritten (s : State) (i : Instr) (u n loc put : Nat) : Prop :=
  let x := s.ctx n
  let es := (s.tile u).stage
  ∃ t w v, exec i s = .next t ∧ w + 8 < v ∧
    (∀ now k, w ≤ now → k < 64 → t.homeByte now (loc + k) = ((es.take 4).getD (k / 16) 0).extractLsb' (8 * (k % 16)) 8) ∧
    (∀ now, v ≤ now → t.homeDword now put = num (x.logPut + 64)) ∧ (∀ now, now < v → t.homeDword now put = s.homeDword now put) ∧
    t.tile u = { s.tile u with stage := es.drop 4, logFault := false } ∧ t.ctx n = { x with logPut := x.logPut + 64 } ∧
    t.gangs = s.gangs ∧ ∀ m, m ≠ u → t.tile m = s.tile m

end Sys2Proof.Claims

/-- R306, R337, R339: a tile's four entries, or a partial group 10,000 ticks after its first entry, are written as one line at BASE + PUT, and PUT
behind it, a release; without room below LOGLIM nothing is written, a page with a zero hint is cleared first, and a line whose page faults
is noted. -/
def Obligations.LogLines : Prop :=
  ∀ s n i, let u := s.subject.unit
    let es := (s.tile u).stage
    (s.tile u).holder = some n →
    (i = .logLineWrite ∧ 4 ≤ es.length) ∨ (i = .logGroupTimeout ∧ es.length < 4 ∧ ∃ e rest, es = e :: rest ∧
      10000 ≤ (s.gtc + 2 ^ 48 - e.toNat % 2 ^ 48) % 2 ^ 48) →
    (∀ loc put, LogReady s n loc put → LogWritten s i u n loc put) ∧
    ((s.ctx n).loglim.toNat < (s.ctx n).logBase + (s.ctx n).logPut + 64 → exec i s = .next s) ∧
    (∀ va z, (s.ctx n).logBase + (s.ctx n).logPut + 64 ≤ (s.ctx n).loglim.toNat →
      s.placeNow n (num ((s.ctx n).logBase + (s.ctx n).logPut)) 2 = .miss va z → ∃ t, exec i s = .next t ∧ { t with walks := s.walks } = s ∧
        ∃ w, w ∈ t.walks ∧ w.clear = true ∧ w.of n va = true) ∧
    (∀ k, (s.ctx n).logBase + (s.ctx n).logPut + 64 ≤ (s.ctx n).loglim.toNat →
      s.placeNow n (num ((s.ctx n).logBase + (s.ctx n).logPut)) 2 = .fault k →
      TileBecomes s i u { s.tile u with logFault := true })

/-! ## Links and requests from outside (spec/18_link.md, spec/21_boot_security.md) -/

namespace Sys2Proof.Claims

/-- Table 18.2: the codes of the states. -/
def linkCode : LinkState → Nat
  | .down => 0 | .training => 1 | .up => 2 | .degraded => 3

/-- R317, Table 18.3: the word of a link stands in the link status block. -/
def LinkShows (s t : State) (n : Nat) : Prop :=
  let l := t.link n
  s.boot.stage = 3 → ∃ v, ∀ now, v ≤ now → t.homeWord now ((s.boot.lnkbase.toNat + 4 * n) % 2 ^ 48) =
    BitVec.ofNat 32 (linkCode l.st + l.lanes % 256 * 2 ^ 8 + min l.retr 255 * 2 ^ 16 + min l.errs 255 * 2 ^ 24)

/-- R316, R317: a link's state and usable lanes; a new state is entered now; entries to TRAINING, and errors that bring a link DOWN, are
counted (that ERRS counts these is the model's reading, assumption 66). -/
def LinkTo (s t : State) (n : Nat) (st : LinkState) (lanes : Nat) : Prop :=
  let l := s.link n
  t.link n = { l with
    st := st, lanes := lanes, since := if l.st = st then l.since else s.gtc
    lost := if st = .up ∨ st = .degraded then false else l.lost || decide (st = .down)
    retr := if st = .training then min (l.retr + 1) 255 else l.retr
    errs := if st = .down then min (l.errs + 1) 255 else l.errs } ∧
  (∀ m, m ≠ n → t.link m = s.link m) ∧ LinkShows s t n

/-- R316, R320: an event that moves one link; interrupts held for GortyLink are delivered when it carries traffic again. -/
def LinkMoves (s : State) (i : Instr) (n : Nat) (st : LinkState) (lanes : Nat) : Prop :=
  ∃ t, exec i s = .next t ∧ LinkTo s t n st lanes ∧
    { t with links := s.links, homes := s.homes, l2 := s.l2, watches := s.watches, irqs := s.irqs, sent := s.sent } = s ∧
    (n = 0 → st = .up ∨ st = .degraded → t.irqs = [] ∧ t.sent = s.sent ++ s.irqs) ∧
    (¬(n = 0 ∧ (st = .up ∨ st = .degraded)) → t.irqs = s.irqs ∧ t.sent = s.sent)

/-- R319: the group of slice `j` of the gang in a slot has taken a machine check. -/
def Checked (s t : State) (tile slot : Nat) (g : Gang) (j : Nat) (tval : Dword) : Prop :=
  ∃ h, t.gang? tile slot = some h ∧ h.sup = true ∧ h.trap.tcause = BitVec.ofNat 32 (j * 256 + 0x0F) ∧ h.trap.tval = tval ∧
    h.trap.tpc = (g.slice j).pc ∧ ∀ i, i ∈ g.liveSlices → (h.slice i).pc = (s.ctx g.ctx).tbase + num (64 * 0x0F)

/-- One gang alone on the device, outside a handler, its group of slice `j` led by it. -/
structure Alone (s : State) (tile slot : Nat) (g : Gang) (j : Nat) : Prop where
  only : s.gangs = [(gkey tile slot, g)]
  here : g.tile = tile ∧ g.slot = slot ∧ slot < 32
  runs : g.ended = false ∧ g.sup = false
  leads : (g.group j).head? = some j

/-- R319: a store or atomic of the gang of which no completion will come: on its way, or without the host's acknowledgement; its place in
the order of its tile, and its address. -/
def LostAt (s : State) (host : Bool) (lost : Nat → Bool) (g : Gang) (q : Nat) (a : Dword) : Prop :=
  (∃ e, e ∈ (s.tile g.tile).sq ∧ e.ofGang g = true ∧ e.w = none ∧ lost (e.line * 64) = true ∧ e.seq = q ∧ e.addr = a) ∨
    (host = true ∧ ∃ h, h ∈ s.hostStores ∧ h.tile = g.tile ∧ h.slot = g.slot ∧ h.gen = g.gen ∧ h.seq = q ∧ h.addr = a)

/-- R316, R319: traffic to the places `lost` is lost: requests on their way are gone, and a gang takes one machine check for what it waits
for, a load, an atomic or a fence, in this order, with the address. -/
def Loses (s t : State) (host : Bool) (lost : Nat → Bool) : Prop :=
  (∀ u e, e ∈ (t.tile u).sq → e ∈ (s.tile u).sq ∧ ¬(lost (e.line * 64) = true ∧ e.w = none)) ∧
  ∀ u k g j, Alone s u k g j →
    (∀ p part x, g.pend = [p] → p.returned = false → p.dests ≠ [] → p.load = some part → (∃ n, n ∈ part.need ∧ lost (n * 64) = true) →
      p.slices.head? = some j → part.lanes.find? (fun x => (x.loc.map lost).getD false) = some x → Checked s t u k g j x.addr) ∧
    (∀ p e rest op x y o d, g.pend = [p] → p.load = none → p.slices.head? = some j → (s.tile u).sq = e :: rest →
      e.req = .atomic op x y o (some p.id) (some d) → e.slot = k → e.gen = g.gen → lost (e.line * 64) = true →
      Checked s t u k g j e.addr) ∧
    (∀ sc acq q a, g.pend = [] → (g.slice j).wait = .fence sc acq → (if host then sc = 4 else 2 ≤ sc) →
      (∀ i sc' a', i ∈ g.leaders → (g.slice i).wait = .fence sc' a' → i = j) → LostAt s host lost g q a → q < (g.slice j).mark.1 →
      (∀ q' a', LostAt s host lost g q' a' → q < q' ∨ (q' = q ∧ a' = a)) → Checked s t u k g j a)

/-- The value stands from W on in `w` bytes from `a`; every other byte, and every byte up to the time `after`, as before. -/
structure Stored (s t : State) (a w : Nat) (value : Dword) (after W : Nat) : Prop where
  later : after < W
  bytes : ∀ now k, W ≤ now → k < w → t.homeByte now (a + k) = BitVec.ofNat 8 (value.toNat / 256 ^ k)
  others : ∀ now b, b < a ∨ a + w ≤ b → t.homeByte now b = s.homeByte now b
  before : ∀ now b, now ≤ after → t.homeByte now b = s.homeByte now b
  mem : t.mem = s.mem
  gangs : t.gangs = s.gangs
  tiles : t.tiles = s.tiles

/-- The link layer carries host traffic. -/
def hostCarries (s : State) : Prop := (s.link 0).st = .up ∨ (s.link 0).st = .degraded

/-- The bytes of a word at a place in its line. -/
def wordBytes (loc : Nat) (w : Word) : Sparse Byte := (List.range 4).map fun k => (loc % 64 + k, w.extractLsb' (8 * k) 8)

/-- An atomic performed at a place: the word it leaves is its operation's on the newest word there. -/
def Performed (s t : State) (loc op : Nat) (x y : Word) : Prop :=
  let old := s.homeWord (max s.gtc (s.home (loc / 64)).lastW) loc
  Written s t (loc / 64) (wordBytes loc (atomicWord op old x y)) ∧ t.gangs = s.gangs ∧ t.tiles = s.tiles

end Sys2Proof.Claims

/-- R316, R317, R319, R320, R322, Table 18.2: a link moves by the rows of the table, each only from its state and after its time; when
GortyLink enters DOWN, stores without an acknowledgement are awaited no more, and a gang that waits on a load, an atomic or `fence.rel.sys`
of the host takes a machine check with the address; when the last scale-up port does, requests on their way to other devices are gone, the
gangs that wait for them take the same check, and collectives that need such a device end with 0x09. Link events come from State.agenda (log
entry 4) and routes at other devices follow log entries 15 and 21; lanes come from an event's subject, waiting gangs take 0x0F at the PC
they stand at, one for each gang, and a DEGRADED link whose lanes are only in part retrained stays so (log entry 46); ERRS counts what
brings a link DOWN (log entry 66): the model's choices. -/
def Obligations.LinkStates : Prop :=
  (∀ s n, n < 29 →
    let l := s.link n
    let full := if n = 0 then 16 else 8
    let noBoot : Prop := s.boot.stage ≠ 0 ∨ s.boot.image = none
    let routes : Prop := ∃ m, m ≠ n ∧ 1 ≤ m ∧ m ≤ 24 ∧ (s.link m).st ≠ .down
    (l.st = .training → noBoot → LinkMoves s (.linkTrained n) n .up full) ∧
    (l.st = .training → noBoot → l.since + 2000000 ≤ s.gtc →
      LinkMoves s (.linkTrainDegraded n) n .degraded (max (full / 2) (min s.subject.part (full - 1)))) ∧
    (s.gtc < l.since + 2000000 → exec (.linkTrainDegraded n) s = .next s) ∧
    (l.st = .training → l.since + 10000000 ≤ s.gtc → n ≠ 0 → 24 < n ∨ routes → LinkMoves s (.linkTrainTimeout n) n .down 0) ∧
    (l.st = .training → l.since + 10000000 ≤ s.gtc → n ≠ 0 → n ≤ 24 → ¬routes → ∃ t, exec (.linkTrainTimeout n) s = .next t ∧
      LinkTo s t n .down 0 ∧ t.hostStores = s.hostStores ∧ Loses s t false isRemote ∧
      ((∀ e, e ∈ s.gangs → e.1 = gkey e.2.tile e.2.slot ∧ e.2.pend = [] ∧ ∀ j sc a, (e.2.slice j).wait ≠ .fence sc a) →
        s.gangs.Pairwise (fun a b => a.1 < b.1) → ∀ tile slot g, s.gang? tile slot = some g → ∃ h, t.gang? tile slot = some h ∧ { h with queues := g.queues } = g ∧
          ∀ (i : Nat) (x : Cmd), (g.queues.getD 3 [])[i]? = some x →
            let needs : Prop := x.finished = false ∧ x.data ≠ [] ∧ ∃ r w, r < 2 ^ ranksLog x ∧
              s.rankWord g.ctx (x.data.getD 6 0 ++ x.data.getD 5 0) r = some w ∧ w.toNat / 2 ^ 14 % 64 = s.domain ∧
              w.toNat % 2 ^ 14 ≠ s.devnum
            (needs → (h.queues.getD 3 [])[i]? = some { x with code := 0x09, finished := true }) ∧
            (¬needs → (h.queues.getD 3 [])[i]? = some x))) ∧
    (s.gtc < l.since + 10000000 → exec (.linkTrainTimeout n) s = .next s) ∧
    (l.st = .down → l.retr = 0 ∨ l.since + 1000000 ≤ s.gtc → LinkMoves s (.linkDownRetry n) n .training 0) ∧
    (l.st = .down → l.retr ≠ 0 → s.gtc < l.since + 1000000 → exec (.linkDownRetry n) s = .next s) ∧
    (l.st = .up ∨ l.st = .degraded → full / 2 < l.lanes → LinkMoves s (.linkLaneLost n) n .degraded (l.lanes - 1)) ∧
    (l.st = .degraded → full ≤ s.subject.part → LinkMoves s (.linkLanesRetrained n) n .up full) ∧
    (l.st = .degraded → s.subject.part < full → l.lanes < s.subject.part →
      LinkMoves s (.linkLanesRetrained n) n .degraded s.subject.part) ∧
    (l.st = .up ∨ l.st = .degraded → LinkMoves s (.linkLanesBelowHalf n) n .training (min s.subject.part (full / 2 - 1))) ∧
    ∀ i (froms : List LinkState), (i, froms) ∈ [(Instr.linkTrained n, [LinkState.training]), (.linkTrainDegraded n, [.training]),
      (.linkTrainTimeout n, [.training]), (.linkDownRetry n, [.down]), (.linkLaneLost n, [.up, .degraded]),
      (.linkLanesRetrained n, [.degraded]), (.linkLanesBelowHalf n, [.up, .degraded])] → l.st ∉ froms → exec i s = .next s) ∧
  (∀ s, (s.link 0).st = .training → (s.link 0).since + 10000000 ≤ s.gtc → ∃ t, exec (.linkTrainTimeout 0) s = .next t ∧
    LinkTo s t 0 .down 0 ∧ t.hostStores = [] ∧ Loses s t true isHost)

namespace Sys2Proof.Claims

/-- R233: a request from outside comes to its lines now, or a tick later where one of them has seen a greater requester in this tick. -/
def Arrives (s t : State) (lines : List Nat) (who : Nat) : Prop :=
  t.gtc = s.gtc ∧ (∀ l, l ∈ lines → s.inTurn l who = true) ∨ t.gtc = s.gtc + 1 ∧ ∃ l, l ∈ lines ∧ s.inTurn l who = false

/-- The lines of `w` bytes from an address. -/
def linesFrom (a w : Nat) : List Nat := (List.range w).map fun k => (a + k) / 64

/-- The word with a number's low `w` bytes in its own low bytes. -/
def lowBytes (w : Nat) (b : Nat → Byte) : Dword := num (at' b 0 (min w 8))

/-- The scale-up port carries traffic. -/
def portCarries (s : State) (p : Nat) : Prop := p < 24 ∧ ((s.link (p + 1)).st = .up ∨ (s.link (p + 1)).st = .degraded)

/-- R350: the error code that an image is refused with, 0 where it passes. -/
def imageFails (header body sig : List Byte) (code : Nat) : Prop :=
  (Config.headerFields header = none ∧ code = 2) ∨
  ∃ svn key, Config.headerFields header = some (svn, key) ∧
    let shape : Prop := key.length = 64 ∧ sig.length = 29792
    let fused : Prop := Sha.shake256 key = Config.fusedKeyHash
    let signed : Prop := Slh.verify key (header ++ body) sig = true
    let young : Prop := Config.fusedMinSvn.toNat ≤ svn.toNat
    (code = 2 ∧ ¬shape) ∨ (code = 3 ∧ shape ∧ ¬fused) ∨ (code = 4 ∧ shape ∧ fused ∧ ¬signed) ∨
      (code = 5 ∧ shape ∧ fused ∧ signed ∧ ¬young) ∨ (code = 0 ∧ shape ∧ fused ∧ signed ∧ young)

/-- R350 steps 6 to 9, R352: the boot block and measurement registers of a device that is ready. -/
def readyBoot (svn : Word) (header body sig : List Byte) : Boot where
  stage := 3
  svn := svn
  ctxbase := Config.ctxBase
  lnkbase := Config.lnkBase
  pwrbase := Config.pwrBase
  idkey := Slh.publicKey (identity svn)
  mr := Sha.shake256 (List.replicate 32 0 ++ Sha.shake256 (header ++ body ++ sig)) ::
    Sha.shake256 (List.replicate 32 0 ++ Sha.shake256 header) :: List.replicate 6 (List.replicate 32 0)

/-- R350, Table 21.4: a boot block with the image that the host holds out, and what it has written to the mailbox. -/
def hostKeeps (b old : Boot) (image : List Byte × List Byte × List Byte) : Boot :=
  { b with
    image := some image, mbNew := old.mbNew, mbReq := old.mbReq, mbIdx := old.mbIdx, mbArg := old.mbArg, mbDest := old.mbDest }

/-- R318: an access of the host to device memory that lies within it. -/
def inMemory : HostAccess → Prop
  | .load a w => 0 < w ∧ a + w ≤ hbmSize
  | .store a w _ _ => 0 < w ∧ a + w ≤ hbmSize
  | .atomic a _ _ _ => a % 4 = 0 ∧ a + 4 ≤ hbmSize
  | .image _ _ _ => False

/-- R318, Table 9.5: a release at the device port waits for the W of the host's earlier stores and atomics, and 8 ticks more. -/
def mustWait (s : State) (k : HostAccess) : Prop := ∃ a w v, k = .store a w v true ∧ s.gtc < s.hostW + 8

/-- The state with no access at the port, and an event of another subject. -/
def portClear (s : State) : State := { s with hostPort := [], domainPort := [], subject := { s.subject with unit := 0 } }

/-- The page of a context that a request is for, as its context and its number. -/
def askedPage : DomainRequest → Option (Nat × Nat)
  | .load _ n off _ => some (n, off % 2 ^ 37 / 65536)
  | .store _ n off _ _ => some (n, off % 2 ^ 37 / 65536)
  | .atomic _ n off _ _ _ => some (n, off % 2 ^ 37 / 65536)
  | .wake _ n off => some (n, off % 2 ^ 37 / 65536)
  | .wata _ n off _ _ => some (n, off % 2 ^ 37 / 65536)
  | .unwatch _ _ => none

/-- Table 21.1 and Table 21.4: the bytes of the configuration space: the boot block, and from 0x100 on the mailbox. -/
def configByte (b : Boot) (off : Nat) : Byte :=
  let byte {n : Nat} (x : BitVec n) (from_ : Nat) : Byte := x.extractLsb' (8 * (off - from_)) 8
  if off < 4 then byte (BitVec.ofNat 32 (b.stage % 16 + b.err % 256 * 256)) 0
  else if off < 8 then byte b.svn 4
  else if off < 0x10 then byte b.ctxbase 8
  else if off < 0x18 then byte b.lnkbase 0x10
  else if off < 0x20 then byte b.pwrbase 0x18
  else if off < 0x40 then if b.stage = 3 then (Sha.shake256 b.idkey).getD (off - 0x20) 0 else 0
  else if off < 0x80 then b.idkey.getD (off - 0x40) 0
  else if off < 0x100 then 0
  else if off < 0x104 then byte b.mbReq 0x100
  else if off < 0x108 then byte b.mbAck 0x104
  else if off < 0x10C then byte b.mbIdx 0x108
  else if off < 0x110 then 0
  else if off < 0x130 then b.mbArg.getD (off - 0x110) 0
  else if off < 0x138 then byte b.mbDest 0x130
  else 0

end Sys2Proof.Claims

/-- R318, R322, R323, R306, R247, R233, R350, R351, R353: a host load, store, atomic and a write of a record's field are home actions on
device memory in the order in which the host posts them: a release waits at the port until 8 ticks after the W of its earlier ones, and what
comes after it waits behind it; a host load of the boot block and mailbox changes nothing, and an atomic at REQ exchanges it; an image is
read by a ROM that waits for it; a domain request that comes by a port in service is served through the table of its context, waits for its
page's clearing, or is refused with its cause; a write of the configuration space sets the mailbox's field. The model's choices: requests
from outside come from State.agenda (log entry 4), addresses from 2^48 on name the configuration space and a context in KILLING is served
(log entry 49), and what is given stands in State.answer (log entry 46). -/
def Obligations.OutsideRequests : Prop :=
  (∀ s k, hostCarries s → s.subject.unit ≠ 1 → inMemory k → s.hostPort ≠ [] ∨ mustWait s k →
    exec (.hostAccess k) s = .next { s with hostPort := s.hostPort ++ [k] }) ∧
  (∀ s k k' rest, s.subject.unit = 1 → s.hostPort = k' :: rest →
    (mustWait s k' → exec (.hostAccess k) s = .next s) ∧
    (hostCarries s → inMemory k' → ¬mustWait s k' → ∃ t, exec (.hostAccess k') (portClear s) = .next t ∧
      exec (.hostAccess k) s = .next { t with hostPort := rest, domainPort := s.domainPort, subject := s.subject })) ∧
  (∀ s k, s.subject.unit = 1 → s.hostPort = [] → exec (.hostAccess k) s = .next s) ∧
  (∀ s a w, hostCarries s → s.subject.unit ≠ 1 → s.hostPort = [] → 0 < w → a + w ≤ hbmSize →
    ∃ t, exec (.hostAccess (.load a w)) s = .next t ∧ Arrives s t (linesFrom a w) 1023 ∧
    t.answer = .value (lowBytes w fun k => s.homeByte t.gtc (a + k)) ∧ (∀ now b, t.homeByte now b = s.homeByte now b) ∧
    (∀ l, (t.home l).lease = (s.home l).lease ∧ (t.home l).lastW = (s.home l).lastW) ∧
    { t with gtc := s.gtc, homes := s.homes, l2 := s.l2, answer := s.answer } = s) ∧
  (∀ s a w, hostCarries s → s.subject.unit ≠ 1 → 0 < w → s.boot.idkey.length = 64 → s.boot.mbArg.length = 32 →
    exec (.hostAccess (.load (2 ^ 48 + a) w)) s = .next { s with answer := .value (lowBytes w fun k => configByte s.boot (a + k)) }) ∧
  (∀ s a w, s.subject.unit ≠ 1 → ¬hostCarries s ∨ w = 0 ∨ (hbmSize < a + w ∧ a < 2 ^ 48) → exec (.hostAccess (.load a w)) s = .next s) ∧
  (∀ s header body sig, s.subject.unit ≠ 1 →
    (s.boot.stage ≠ 0 ∨ ¬hostCarries s → exec (.hostAccess (.image header body sig)) s =
      .next { s with boot := { s.boot with image := some (header, body, sig) } }) ∧
    (s.boot.stage = 0 → hostCarries s →
      (∀ code, imageFails header body sig code → code ≠ 0 → exec (.hostAccess (.image header body sig)) s =
        .next { s with boot := hostKeeps { stage := 15, err := code } s.boot (header, body, sig) }) ∧
      (∀ svn key, Config.headerFields header = some (svn, key) → imageFails header body sig 0 →
        ∃ t, exec (.hostAccess (.image header body sig)) s = .next t ∧
          t.boot = hostKeeps (readyBoot svn header body sig) s.boot (header, body, sig) ∧
          { t with boot := s.boot, homes := s.homes, l2 := s.l2, watches := s.watches } = s))) ∧
  (∀ s a w value rel, s.subject.unit ≠ 1 →
    (hostCarries s → s.hostPort = [] → 0 < w → a + w ≤ hbmSize → (rel = true → s.hostW + 8 ≤ s.gtc) →
      ∃ t W, exec (.hostAccess (.store a w value rel)) s = .next t ∧
        Arrives s t (linesFrom a w) 1023 ∧ Stored s t a w value t.gtc W ∧ t.hostW = max s.hostW W) ∧
    (¬hostCarries s ∨ w = 0 ∨ hbmSize < a + w → exec (.hostAccess (.store a w value rel)) s = .next s)) ∧
  (∀ s a op x y, s.subject.unit ≠ 1 →
    (hostCarries s → s.hostPort = [] → a % 4 = 0 → a + 4 ≤ hbmSize → ∃ t, exec (.hostAccess (.atomic a op x y)) s = .next t ∧
      Arrives s t [a / 64] 1023 ∧
      let u := { s with gtc := t.gtc }
      Performed u t a op x y ∧ t.hostW = max s.hostW (nextW u (a / 64)) ∧
      t.answer = .value ((u.homeWord (max t.gtc (s.home (a / 64)).lastW) a).setWidth 64)) ∧
    (hostCarries s → exec (.hostAccess (.atomic (2 ^ 48 + 0x100) op x y)) s = .next { s with
      answer := .value (s.boot.mbReq.setWidth 64), boot := { s.boot with mbReq := atomicWord op s.boot.mbReq x y, mbNew := true } }) ∧
    (¬hostCarries s ∨ a % 4 ≠ 0 ∨ (hbmSize < a + 4 ∧ a < 2 ^ 48) → exec (.hostAccess (.atomic a op x y)) s = .next s)) ∧
  (∀ s n off port, s.subject.unit ≠ 1 → let st := (s.ctx n).st
    let place := s.placeNow n (num (off % 2 ^ 37))
    let page := (n, off % 2 ^ 37 / 65536)
    let dead : Prop := st = .created ∨ st = .ended ∨ st = .failed
    let comes : Prop := portCarries s port ∧ ∀ x, x ∈ s.domainPort → askedPage x ≠ some page
    let serves : Prop := comes ∧ ¬dead
    let who := 960 + port
    (∀ loc sc lease, serves → place 1 = .at_ loc sc → ∃ t, exec (.domainRequest (.load port n off lease)) s = .next t ∧
      Arrives s t [loc / 64] who ∧ (s.home (loc / 64)).lease ≤ (t.home (loc / 64)).lease ∧
      ((s.home (loc / 64)).pending = [] → t.gtc + lease ≤ (t.home (loc / 64)).lease) ∧
      t.answer = .value (s.homeDword t.gtc (loc / 8 * 8)) ∧ (∀ now b, t.homeByte now b = s.homeByte now b) ∧
      { t with homes := s.homes, gtc := s.gtc, l2 := s.l2, answer := s.answer } = s) ∧
    (∀ lease, serves → place 1 = .zero → exec (.domainRequest (.load port n off lease)) s = .next { s with answer := .value 0 }) ∧
    (∀ loc sc, serves → place 1 = .at_ loc sc → ∃ t, exec (.domainRequest (.wake port n off)) s = .next t ∧ Arrives s t [loc / 64] who ∧
      (∀ z, z ∈ t.watches → z.line = loc / 64 → z.fired ≠ none) ∧ (∀ now b, t.homeByte now b = s.homeByte now b) ∧
      { t with watches := s.watches, homes := s.homes, gtc := s.gtc } = s) ∧
    (∀ loc sc number expect, serves → off % 4 = 0 → place 1 = .at_ loc sc →
      ∃ t, exec (.domainRequest (.wata port n off number expect)) s = .next t ∧ Arrives s t [loc / 64] who ∧
        let u := { s with gtc := t.gtc }
        let at_ := seen u (loc / 64)
        let x := s.homeWord at_ loc
        t.answer = .value (x.setWidth 64) ∧ (∀ now b, t.homeByte now b = s.homeByte now b) ∧
        (x = expect → s.watchFull loc = false → ∃ f, EndsAt u (loc / 64) at_ f ∧
          { line := loc / 64, since := at_, tile := who, slot := number, slice := 0, fired := f, peer := some (port, number) } ∈ t.watches) ∧
        (x ≠ expect → ∀ z, z ∈ t.watches → z ∈ s.watches) ∧ ∀ z, z ∈ s.watches → z.peer = none → z ∈ t.watches) ∧
    (∀ number, portCarries s port → exec (.domainRequest (.unwatch port number)) s =
      .next { s with watches := s.watches.filter fun z => z.peer != some (port, number) }) ∧
    (∀ loc sc w value, serves → 0 < w → off % w = 0 → place 2 = .at_ loc sc →
      ∃ t W, exec (.domainRequest (.store port n off w value)) s = .next t ∧ Arrives s t [loc / 64] who ∧ Stored s t loc w value t.gtc W) ∧
    (∀ loc sc op x y, serves → off % 4 = 0 → loc % 4 = 0 → place 3 = .at_ loc sc →
      ∃ t, exec (.domainRequest (.atomic port n off op x y)) s = .next t ∧ Arrives s t [loc / 64] who ∧
        let u := { s with gtc := t.gtc }
        Performed u t loc op x y ∧ t.answer = .value ((u.homeWord (max t.gtc (s.home (loc / 64)).lastW) loc).setWidth 64)) ∧
    (∀ need r, (∃ lease, need = 1 ∧ r = DomainRequest.load port n off lease) ∨ (need = 1 ∧ r = .wake port n off) ∨
        (∃ k x, need = 1 ∧ off % 4 = 0 ∧ r = .wata port n off k x) ∨
        (∃ w value, need = 2 ∧ 0 < w ∧ off % w = 0 ∧ r = .store port n off w value) ∨
        (∃ op x y, need = 3 ∧ off % 4 = 0 ∧ r = .atomic port n off op x y) →
      (¬portCarries s port → exec (.domainRequest r) s = .next s) ∧
      (comes → dead → exec (.domainRequest r) s = .next { s with answer := .refused 0x05 }) ∧
      (∀ k, serves → place need = .fault k → exec (.domainRequest r) s = .next { s with answer := .refused k }) ∧
      (∀ va z, serves → place need = .miss va z → ∃ t, exec (.domainRequest r) s = .next t ∧
        t.domainPort = s.domainPort ++ [r] ∧ { t with domainPort := s.domainPort, walks := s.walks } = s ∧
        ∃ w, w ∈ t.walks ∧ w.clear = true ∧ w.of n va = true) ∧
      (portCarries s port → ¬comes → exec (.domainRequest r) s = .next { s with domainPort := s.domainPort ++ [r] }) ∧
      (∀ q u, u = { s with domainPort := [r], subject := { s.subject with unit := 1 } } → askedPage q = some page → portCarries s port →
        (s.clearing n (page.2 * 65536) = true → exec (.domainRequest q) u = .next u) ∧
        (s.clearing n (page.2 * 65536) = false → ∃ t, exec (.domainRequest r) (portClear u) = .next t ∧
          exec (.domainRequest q) u = .next { t with hostPort := s.hostPort, subject := u.subject }))) ∧
    (∀ r, (∃ k x, off % 4 ≠ 0 ∧ r = DomainRequest.wata port n off k x) ∨ (∃ op x y, off % 4 ≠ 0 ∧ r = .atomic port n off op x y) ∨
        (∃ w value, (w = 0 ∨ off % w ≠ 0) ∧ r = .store port n off w value) → exec (.domainRequest r) s = .next s)) ∧
  (∀ s a w (value : Dword), hostCarries s → 0 < w →
    (a + w ≤ hbmSize → s.hostPort = [] → ∃ t W, exec (.registerWrite a value w) s = .next t ∧ Arrives s t (linesFrom a w) 1023 ∧
      Stored s t a w value t.gtc W ∧ t.hostW = max s.hostW W) ∧
    (a + w ≤ hbmSize → s.hostPort ≠ [] →
      exec (.registerWrite a value w) s = .next { s with hostPort := s.hostPort ++ [.store a w value false] }) ∧
    (2 ^ 48 ≤ a → ∃ b, exec (.registerWrite a value w) s = .next { s with boot := b } ∧
      b.mbReq = (if a = 2 ^ 48 + 0x100 then value.setWidth 32 else s.boot.mbReq) ∧
      b.mbNew = (if a = 2 ^ 48 + 0x100 then true else s.boot.mbNew) ∧
      b.mbIdx = (if a = 2 ^ 48 + 0x108 then value.setWidth 32 &&& 7 else s.boot.mbIdx) ∧
      (∀ i, i < s.boot.mbArg.length → b.mbArg.getD i 0 =
        if 2 ^ 48 + 0x110 ≤ a ∧ a ≤ 2 ^ 48 + 0x110 + i ∧ a < 2 ^ 48 + 0x130 ∧ 2 ^ 48 + 0x110 + i < a + w then
          value.extractLsb' (8 * (2 ^ 48 + 0x110 + i - a)) 8 else s.boot.mbArg.getD i 0) ∧
      b.mbDest = (if a = 2 ^ 48 + 0x130 ∧ w = 8 then value
        else if a = 2 ^ 48 + 0x130 ∧ w = 4 then s.boot.mbDest.extractLsb' 32 32 ++ value.extractLsb' 0 32
        else if a = 2 ^ 48 + 0x134 ∧ w = 4 then value.extractLsb' 0 32 ++ s.boot.mbDest.extractLsb' 0 32
        else if a = 2 ^ 48 + 0x130 ∨ a = 2 ^ 48 + 0x134 then b.mbDest else s.boot.mbDest) ∧
      { b with mbReq := s.boot.mbReq, mbNew := s.boot.mbNew, mbIdx := s.boot.mbIdx, mbArg := s.boot.mbArg, mbDest := s.boot.mbDest } =
        s.boot))

/-! ## Boot and the mailbox (spec/21_boot_security.md) -/

namespace Sys2Proof.Claims

/-- R353: the request `w` has been written to the mailbox of a ready device that makes no report. -/
def MailIs (s : State) (w : Word) : Prop := s.boot.stage = 3 ∧ s.boot.mbNew = true ∧ s.boot.mbReq = w ∧ s.boot.report = none

/-- R353: a request taken, with its ACK. -/
def Mailed (s : State) (i : Instr) (w : Word) (code : Nat) (mr : List (List Byte)) : Prop :=
  let ack := BitVec.ofNat 32 (w.toNat / 2 ^ 16 * 2 ^ 16 + code * 2 ^ 8)
  exec i s = .next { s with boot := { s.boot with mbReq := 0, mbNew := false, mbAck := ack, mr := mr } }

/-- R353: DEST can take a whole report. -/
def destFits (d : Dword) : Prop :=
  let a := d.toNat
  let beyond := a + 0x150 + 29792
  a % 64 = 0 ∧ (beyond ≤ hbmSize ∨ (0xE00000000000 ≤ a ∧ beyond ≤ 0xF00000000000))

/-- The blocks that the firmware reports lie apart from each other. -/
def blocksApart : Prop :=
  let l := Config.lnkBase.toNat
  let p := Config.pwrBase.toNat
  l + 116 ≤ 2 ^ 48 ∧ p + 0xC00 ≤ 2 ^ 48 ∧ (l + 116 ≤ p ∨ p + 0xC00 ≤ l)

end Sys2Proof.Claims

/-- R344, R346, R350, R351, R352, R353, R354: reset empties the device but for its memory, and boots: halted where training or the image
fails with the code of the first step that does, ready with its bases, identity key, blocks and the two measurements where none does; then
EXTEND extends a register, REPORT captures all of them and is written with its signature, then acknowledged as a release, in the host
aperture once the host has acknowledged it, and other requests are answered with their codes. That GTC goes on over a reset is the model's
choice (assumption 2), that the controller writes its blocks at boot another (assumption 7). The model's choices: an image of another shape
ends with 0x02, its parts stand in the order header, body, signature, a ROM without an image waits, and a subject names a training failure
(log entry 47); a request with a bit of [15:4] set answers 0x02, and DEST must hold the whole report (log entry 48); the header's layout,
the key seeds and the fused values are constants of Config without a value (log entry 8). -/
def Obligations.BootAndMailbox : Prop :=
  (∀ s, let r : State := { State.reset with
      gtc := s.gtc, subject := s.subject, agenda := s.agenda, devnum := s.devnum, domain := s.domain, mem := s.mem, bad := s.bad, peers := s.peers
      boot := { image := s.boot.image } }
    (s.subject.part ≠ 0 → exec .deviceReset s = .next { r with boot := { stage := 15, err := 1, image := s.boot.image } }) ∧
    (s.subject.part = 0 → ∃ t, exec .deviceReset s = .next t ∧ (t.link 0).st = .up ∧ (t.link 0).lanes = 16 ∧
      { t with boot := r.boot, links := r.links, homes := r.homes, l2 := r.l2 } = r ∧
      (s.boot.image = none → t.boot = {} ∧ t.homes = []) ∧
      ∀ header body sig, s.boot.image = some (header, body, sig) →
        (∀ code, imageFails header body sig code → code ≠ 0 → t.boot = { stage := 15, err := code, image := s.boot.image }) ∧
        (∀ svn key, Config.headerFields header = some (svn, key) → imageFails header body sig 0 →
          t.boot = { readyBoot svn header body sig with image := s.boot.image } ∧
          (blocksApart → (∀ n, n < 29 → LinkShows t t n) ∧ (∀ c, c < 192 → PowerShows t t c) ∧
            ∃ v, ∀ now n k, v ≤ now → n < 64 → k < 8 → t.homeWord now (Config.pwrBase.toNat + 0x400 + 32 * n + 4 * k) = 0)))) ∧
  (∀ s w, MailIs s w → let k := w.toNat % 16
    let clean : Prop := w.toNat / 16 % 2 ^ 12 = 0
    let n := s.boot.mbIdx.toNat % 8
    (k = 1 → ¬clean → Mailed s .mbExtend w 2 s.boot.mr) ∧
    (k = 1 → clean → n < 2 → Mailed s .mbExtend w 1 s.boot.mr) ∧
    (k = 1 → clean → 2 ≤ n → ∃ mr, Mailed s .mbExtend w 0 mr ∧ mr.length = s.boot.mr.length ∧
      ∀ i, i < s.boot.mr.length →
        mr.getD i [] = if i = n then Sha.shake256 (s.boot.mr.getD i [] ++ s.boot.mbArg) else s.boot.mr.getD i []) ∧
    ((k ≠ 1 ∧ k ≠ 2) ∨ (k = 2 ∧ ¬clean) → Mailed s .mbReport w 2 s.boot.mr) ∧
    (k = 2 → clean → ¬destFits s.boot.mbDest → Mailed s .mbReport w 3 s.boot.mr) ∧
    (k = 2 → clean → destFits s.boot.mbDest → ∃ m,
      exec .mbReport s = .next { s with boot := { s.boot with
        mbReq := 0, mbNew := false, report := some { seq := w.toNat / 2 ^ 16, dest := s.boot.mbDest, message := m } } } ∧
      m = [1, 0, 0, 0] ++ (List.range 4).map (fun i => s.boot.svn.extractLsb' (8 * i) 8) ++
        (List.range 8).map (fun i => (num s.gtc).extractLsb' (8 * i) 8) ++ Sha.shake256 s.boot.idkey ++ s.boot.mbArg ++ s.boot.mr.flatten)) ∧
  (∀ s r, s.boot.report = some r →
    let dest := r.dest.toNat
    let sig := Slh.sign (identity s.boot.svn) (fit Slh.n (Config.signRandom s.gtc)) r.message
    let n := r.message.length
    (r.w = none → s.carries dest = false → exec .reportComplete s = .next s) ∧
    (r.w = none → s.carries dest = true → ∃ t v, exec .reportComplete s = .next t ∧
      (∀ now k, v ≤ now → k < n → t.homeByte now (dest + k) = r.message.getD k 0) ∧
      (∀ now k, v ≤ now → k < sig.length → t.homeByte now (dest + n + k) = sig.getD k 0) ∧
      (∀ now a, a < dest ∨ dest + n + sig.length ≤ a → t.homeByte now a = s.homeByte now a) ∧
      t.boot = { s.boot with report := some { r with w := some v } } ∧
      (isHost dest = false → t.hostStores = s.hostStores) ∧
      (isHost dest = true → ∃ h, t.hostStores = s.hostStores ++ [h] ∧ h.tile = 1024 ∧ h.w = some v ∧ h.line = dest / 64) ∧ t.gangs = s.gangs ∧ t.tiles = s.tiles ∧ t.ctxs = s.ctxs) ∧
    let owed : Prop := ∃ h, h ∈ s.hostStores ∧ h.tile = 1024
    (∀ v, r.w = some v → s.gtc < v + 8 ∨ owed → exec .reportComplete s = .next s) ∧
    (∀ v, r.w = some v → v + 8 ≤ s.gtc → ¬owed → exec .reportComplete s =
      .next { s with boot := { s.boot with report := none, mbAck := BitVec.ofNat 32 (r.seq * 2 ^ 16) } }))

/-! ## The machine as a whole: encoding, steps, reset, memory (spec/05_encoding.md, spec/03_state.md, spec/11_memory_model.md) -/

/-- R87, R89, R90, R91, Tables 5.1 to 5.6: the decoder reads every well-formed instruction back from its word, each operand at every value its
field admits. -/
def Obligations.DecodeOfEncode : Prop :=
  ∀ i, i.isEvent = false → i.wellFormed = true → decode (encode i) = .ok i

/-- R87, R91, R96: a word that decodes is the word of its instruction, which is well formed and no event, so no two words decode to one
instruction; in a byte stream the word is the first four bytes, lowest address first, and the rest is left. -/
def Obligations.EncodeOfDecode : Prop :=
  (∀ w i, decode w = .ok i → encode i = w ∧ i.wellFormed = true ∧ i.isEvent = false) ∧
  ∀ (b0 b1 b2 b3 : Byte) rest i, decodeBytes (b0 :: b1 :: b2 :: b3 :: rest) = .ok (i, rest) ↔ decode (b3 ++ b2 ++ b1 ++ b0) = .ok i

/-- Tables 5.2, 6.3, 7.9, 8.4, 9.7, 10.10: worked words of every family decode to what stands beside them; words with a reserved opcode, a
field that must be zero, or a broken rule do not. -/
def Obligations.DecodeSpecWords : Prop :=
  (∀ x, x ∈ ([(0x4000C227, .iaddV 3 2 9 3), (0x4010C21C, .iaddVs 3 2 7 0), (0x83010719, .ffmaV 4 7 6 1), (0x20960445, .add 300 17 5),
      (0x3A027FFD, .addi 4 0x7FFD), (0x3E17FFFF, .ldi 5 0x3FFFF), (0x3F161234, .ldhi 5 0x1234), (0x031FFFFD, .bCond 1 0xFFFFD),
      (0xC4220210, .ldW 2 8 2 4 0), (0xE0042852, .cpy16 0 2 40 20), (0x011F2000, .rep 7 6 1), (0x14028010, .rdsr 5 0x10)] :
      List (Word × Instr)) → decode x.1 = .ok x.2) ∧
  (∀ x, x ∈ ([(0x041FFFFE, .bMa 0xFFFFE), (0x080A0540, .regang 20 21), (0x0F000001, .tkillGrove), (0x13004001, .msetRm 1),
      (0x15018039, .wrsr 3 0x39), (0x16000203, .waitc 2 3), (0x17010280, .lnch 2 10), (0x18000205, .barrSync 5), (0xED0101C0, .pnset 2 7),
      (0x380301DB, .selCond 6 7 11), (0x36020146, .bfx 4 5 6), (0x5140420C, .iselV 4 1 2 3 0), (0x52208518, .icmp 2 2 5 6),
      (0x70304208, .cvt 3 1 2 2), (0x8D428B30, .fdiv 4 10 11 12), (0x94340220, .rng 3 16 2 8), (0x6300C200, .ballot 0 3 2)] :
      List (Word × Instr)) → decode x.1 = .ok x.2) ∧
  (∀ x, x ∈ ([(0xB110C418, .unfmul 3 4 6), (0xB201061F, .rfma 4 6 7 3), (0xB8000300, .rsmark 12), (0xBB050000, .rsdep 10),
      (0xC400C41B, .ldW 0 3 4 6 3), (0xC901C212, .stRelW 7 2 4), (0xD0118A41, .atom 1 6 10 1 0 1), (0xD2008300, .fenceAcq 3),
      (0xD300C418, .wata 3 4 6), (0xD6000211, .pfL2 2 4), (0xE1202010, .bcpy 2 0 32 4), (0xE6001015, .wldG 0 0 16 5),
      (0xE8062818, .mloop 0 3 40 6), (0xEA000A26, .accz 0 0 10 9), (0xEB100C28, .mstat 1 12 10), (0xEC00402D, .collRs 0 0 64 11)] :
      List (Word × Instr)) → decode x.1 = .ok x.2) ∧
  (∀ w, w ∈ ([0x00000000, 0x1C000000, 0xFF000000] : List Word) → decode w = .error .reservedOpcode) ∧
  (∀ w, w ∈ ([0x02000001, 0x04200000, 0x3F000000, 0x45200000] : List Word) → decode w = .error .reservedField) ∧
  (∀ w, w ∈ ([0x03F00000, 0x06000040, 0x40100002, 0x14000006, 0xD0100102] : List Word) → decode w = .error .brokenRule)

namespace Sys2Proof.Claims

/-- R279, Table 1.3: whether a group has been ready for 64 fc. -/
def Late (s : State) (g : Gang) (j : Nat) : Prop :=
  ∃ t, (g.slice j).ready = some t ∧ t + 64 * 40 / max 1 ((s.cluster (g.tile / 4)).cclk.toNat % 256) ≤ s.gtc

/-- R46, R279: whether a ready group of a row contends for it: while a group there has been ready for 64 fc, only such groups do, and of
them none that has issued since another of them became ready, so that each gets its turn (assumption 43). -/
def Contends (s : State) (p : Nat) (g : Gang) (j : Nat) : Prop :=
  let late (h : Gang) (m : Nat) : Prop :=
    h ∈ s.gangsOf g.tile ∧ (∃ q, h.pos = some q ∧ q / 4 = p / 4) ∧ m ∈ h.leaders ∧ s.ready h m = true ∧ Late s h m
  (∀ h m, ¬ late h m) ∨ (Late s g j ∧ ∀ h m t, late h m → (h.slice m).ready = some t → (g.slice j).issued ≤ t)

/-- What the tick after a step does first to a gang: a group that has come to an instruction that closes windows has its windows ended
(R100), and one that has come to a hand-on whose entry is not there waits for it (R29); nothing but registers that await a result, and
waits, changes. -/
def Reached (u : State) (g m : Gang) : Prop :=
  let at_ (j : Nat) (i : Instr) : Prop :=
    j ∈ g.leaders ∧ (g.slice j).wait.atIssue = true ∧ (g.slice j).inRep = false ∧ ∃ r, u.coming g j = .instr i r
  (∀ j, { m.slice j with wait := (g.slice j).wait } = g.slice j) ∧
  { m with slices := g.slices, v := g.v, sregs := g.sregs, adv := g.adv, pend := g.pend, nextId := g.nextId, markS := g.markS
           markV := g.markV } = g ∧
  ((∀ j i r, j ∈ g.leaders → u.coming g j = .instr i r → (closesWindows i = false ∨ g.groupOpen j = false) ∧ u.lacksHandOn g j i = false) →
    m = g) ∧
  (g.pos = none ∨ g.ended = true ∨ u.tileIssues g.tile = false ∨ u.runs g = false → m = g) ∧
  (g.pos ≠ none → g.ended = false → u.tileIssues g.tile = true → u.runs g = true → ∀ j i, at_ j i →
    (closesWindows i = true → ∀ p, p ∈ m.pend → ∀ k, k ∈ g.group j → p.over k = true) ∧
    (g.groupOpen j = false → u.couldIssue g j i = true → u.lacksHandOn g j i = true → ∀ k, k ∈ g.group j → (m.slice k).wait = .handon))

/-- What the tick does then: nothing but since when the groups have been ready changes (R279). -/
def ReadyNoted (u : State) (g h : Gang) : Prop :=
  (∀ j, { h.slice j with ready := (g.slice j).ready } = g.slice j) ∧ { h with slices := g.slices } = g ∧
    (g.pos = none → h = g) ∧
    (g.pos ≠ none → ∀ j, j ∈ g.leaders → (h.slice j).ready =
      if u.ready g j = true then some ((g.slice j).ready.getD u.gtc) else none)

end Sys2Proof.Claims

/-- R38, R96, R105, R279, R390: a word fetched at a group's PC is what the group would execute; a ready group to which its row belongs, by a
repeat or as the oldest of those that contend for it, is among the choices, and only ready groups are; the chosen group executes exactly
that instruction, its windows closed first where R100 says so, the windows of its slices counted after it, and GTC moves on; an event the
schedule gives happens as it stands. After a step each gang that stands at a position is looked at: windows end where a group has come to an
instruction that closes them (R100; that they end there and not when it issues is the model's reading, assumption 73), a hand-on without its
entry is waited for, and it is noted since when a group has been ready. That every late group gets its turn is the model's choice
(assumption 43), and so are the faults of the hardware and the news of other devices that may strike before a step (assumptions 53 and 54).
Which group is chosen, and the ticks of the turn, come from State.agenda (log entry 4), and a row held by a repeat follows log entry 22: the
model's choices. -/
def Obligations.StepRunsDecoded : Prop :=
  (∀ (s : State) (g : Gang) j w, (g.slice j).inRep = false → s.fetch g.tile g j (g.slice j).pc = .word w →
    (∀ i, decode w = .ok i → s.coming g j = .instr i none) ∧
    (∀ e, decode w = .error e → s.coming g j = .instr (.illegalInstruction w) none)) ∧
  (∀ (s : State) g j i r p, g ∈ s.gangsOf g.tile → (∀ h, h ∈ s.gangsOf g.tile → h.slot = g.slot → h = g) → g.pos = some p → p < 8 →
    j ∈ g.leaders → s.coming g j = .instr i r → s.canIssue g j i = true →
    (s.rowHolder g.tile (p / 4) = some (g.slot, j) ∨ s.rowHolder g.tile (p / 4) = none ∧ Contends s p g j ∧
      ∀ h m q, h ∈ s.gangsOf g.tile → h.pos = some q → q / 4 = p / 4 → m ∈ h.leaders → s.ready h m = true → ¬(h = g ∧ m = j) →
        Contends s q h m → stamp s g j < stamp s h m) →
    Choice.issue ⟨g.tile, g.slot, j⟩ i r ∈ s.choices) ∧
  (∀ (s : State) c i r, Choice.issue c i r ∈ s.choices → ∃ g, g ∈ s.gangsOf c.tile ∧ g.slot = c.slot ∧ c.slice ∈ g.leaders ∧
    s.coming g c.slice = .instr i r ∧ s.canIssue g c.slice i = true) ∧
  (∀ (s : State) x, x ∈ s.choices → ∃ n, chooseFrom s.choices n = some x) ∧
  (∀ (s : State) c i r g, let v := s.popTurn.strike s.turn.upset
    let u := v.before c i r
    s.turn.input = none → chooseFrom v.choices s.turn.pick = some (.issue c i r) → u.gang? c.tile c.slot = some g →
    step s = ticked s.turn.ticks (settled c g i (exec i u))) ∧
  (∀ (s : State) c i g, s.gang? c.tile c.slot = some g → Instr.closes i = false → Instr.handOn i = false →
    (∀ j, j ∈ g.group c.slice → (g.slice j).inRep = false) →
    let u := s.before c i none
    u.cur = some c ∧ { u with cur := s.cur, gangs := s.gangs, tiles := s.tiles, clusters := s.clusters } = s ∧
      (∃ h, u.gang? c.tile c.slot = some h ∧ { h with slices := g.slices } = g ∧
        ∀ j, h.slice j = if j ∈ g.group c.slice then { g.slice j with ready := none, issued := s.gtc } else g.slice j) ∧
      (∀ tile slot, gkey tile slot ≠ gkey c.tile c.slot → u.gang? tile slot = s.gang? tile slot) ∧
      (∀ n, { u.tile n with tlb := (s.tile n).tlb } = s.tile n) ∧
      ∀ n, { u.cluster n with tlb := (s.cluster n).tlb, icache := (s.cluster n).icache } = s.cluster n) ∧
  (∀ (s : State) i, s.turn.input = some i →
    step s = ticked s.turn.ticks (exec i { s.popTurn.strike s.turn.upset with cur := none, subject := s.turn.subject })) ∧
  (∀ (s : State) i on, let v := s.popTurn.strike s.turn.upset
    s.turn.input = none → chooseFrom v.choices s.turn.pick = some (.event i on) →
    step s = ticked s.turn.ticks (exec i { v with cur := none, subject := on })) ∧
  (∀ s : State, s.strike none = s ∧ (∀ m, s.strike (some (.lanes m)) = { s with upset := m }) ∧
    (∀ l, ∃ b, s.strike (some (.memory l)) = { s with bad := b } ∧ ∀ x, x ∈ b ↔ x ∈ s.bad ∨ x = l) ∧
    ∀ dev p, ∃ ps, s.strike (some (.peer dev p)) = { s with peers := ps } ∧
      ∀ d, Sparse.find? ps d = if d = dev then p else Sparse.find? s.peers d) ∧
  ∀ (t : State) n, let t' := { t with gtc := t.gtc + n, upset := 0 }
    ∃ v u, ticked n (.next t) = .next u ∧ { v with gangs := t.gangs } = t' ∧ { u with gangs := v.gangs } = v ∧
    ∀ tile slot, (t.gang? tile slot = none → u.gang? tile slot = none) ∧
      ∀ g, t.gang? tile slot = some g → ∃ m h, v.gang? tile slot = some m ∧ u.gang? tile slot = some h ∧ Reached t' g m ∧ ReadyNoted v m h

/-- R48, R63, R316, R351, R352, Tables 1.3, 3.7, 12.2, 20.3: what reset leaves: nothing runs and nothing is placed, clocks, gears and cadences
at their reset values, links DOWN, contexts CREATED, the measurement registers zero and STAGE 0. Where the spec gives no reset value the
one stated is the model's choice: memory that lists nothing (assumption 1), and a GTC, a domain number, a request register MBREQ and a copy
of the fault queue's address of zero (assumption 2). -/
def Obligations.ResetState : Prop :=
  let s := State.reset
  s.memWf = true ∧ s.mem = [] ∧ s.gtc = 0 ∧ s.domain = 0 ∧ s.hostPort = [] ∧ s.domainPort = [] ∧ s.cur = none ∧ s.gangs = [] ∧ s.launches = [] ∧ s.choices = [] ∧
  (∀ n, (s.ctx n).st = .created ∧ (s.ctx n).fq = 0 ∧ (s.ctx n).slack = {}) ∧
  (∀ n, (s.cluster n).cclk = 0x242 ∧ (s.cluster n).cad = 1 ∧ (s.cluster n).base = 1 ∧ (s.cluster n).slew = 0 ∧ (s.cluster n).relock = none) ∧
  (∀ n, (s.tile n).holder = none ∧ (s.tile n).gear = false ∧ (s.tile n).drop = 0 ∧ (s.tile n).dorm = .active ∧ (s.tile n).l1 = []) ∧
  (∀ n, (s.link n).st = .down ∧ (s.link n).lanes = 0 ∧ (s.link n).retr = 0 ∧ (s.link n).errs = 0) ∧
  s.boot.stage = 0 ∧ s.boot.err = 0 ∧ s.boot.mr = List.replicate 8 (List.replicate 32 0) ∧ s.boot.mbReq = 0 ∧ s.boot.report = none

/-- An invariant of every step: memory keeps its canonical form, so that memories that read alike are equal. The canonical form is the
model's own (log entry 1). -/
def Obligations.MemoryStaysCanonical : Prop :=
  ∀ (s t : State), s.memWf = true → step s = .next t → t.memWf = true

/-- R57: GTC moves on by the ticks of each step's turn, a reset included (assumption 2), by one more for each request from outside that has
to wait for a line's next tick (R233), those that have waited at a port among them, and to what a synchronisation from outside says; while a
context runs no synchronisation takes it back. The ticks of a step come from State.agenda (log entry 4, the model's choice). -/
def Obligations.TimeMovesOn : Prop :=
  ∀ (s t : State), step s = .next t →
    ((∃ n, (s.ctx n).st = .running) → s.gtc ≤ t.gtc) ∧
    ((∀ v, s.turn.input ≠ some (.ptpSync v)) →
      s.gtc + s.turn.ticks ≤ t.gtc ∧ t.gtc ≤ s.gtc + s.turn.ticks + 1 + s.domainPort.length ∧
      ((∀ a, s.turn.input ≠ some (.hostAccess a)) → (∀ r, s.turn.input ≠ some (.domainRequest r)) →
        (∀ a v w, s.turn.input ≠ some (.registerWrite a v w)) →
        s.turn.input ≠ none ∨ (s.hostPort = [] ∧ s.domainPort = []) → t.gtc = s.gtc + s.turn.ticks))

/-! ## What every instruction checks of the registers it names (spec/03_state.md, spec/05_encoding.md, spec/10_isa_engines.md) -/

namespace Sys2Proof.Claims

/-- R49, R55, R133: the operands of several registers: the number of the first, and what has to divide it. -/
def alignments : Instr → List (Nat × Nat)
  | .jmp a => [(a.toNat, 2)]
  | .lnch _ a => [(a.toNat, 2)]
  | .tlbinv a => [(a.toNat, 2)]
  | .rdsr d n => if srWidth n.toNat = some 64 then [(d.toNat, 2)] else []
  | .wrsr d n => if srWidth n.toNat = some 64 then [(d.toNat, 2)] else []
  | .rng _ d a b => [(d.toNat, 4), (a.toNat, 2), (b.toNat, 2)]
  | .ldB _ _ _ b _ => [(b.toNat, 2)]
  | .ldBs _ _ _ b _ => [(b.toNat, 2)]
  | .ldH _ _ _ b _ => [(b.toNat, 2)]
  | .ldHs _ _ _ b _ => [(b.toNat, 2)]
  | .ldW _ _ _ b _ => [(b.toNat, 2)]
  | .ldAcqW _ _ _ b => [(b.toNat, 2)]
  | .ldD _ d _ b _ => [(d.toNat, 2), (b.toNat, 2)]
  | .ldQ _ d _ b _ => [(d.toNat, 4), (b.toNat, 2)]
  | .stB _ _ b _ => [(b.toNat, 2)]
  | .stH _ _ b _ => [(b.toNat, 2)]
  | .stW _ _ b _ => [(b.toNat, 2)]
  | .stRelW _ _ b => [(b.toNat, 2)]
  | .stD d _ b _ => [(d.toNat, 2), (b.toNat, 2)]
  | .stQ d _ b _ => [(d.toNat, 4), (b.toNat, 2)]
  | .sldW _ _ _ b _ => [(b.toNat, 2)]
  | .sldAcq _ _ _ b => [(b.toNat, 2)]
  | .sldWPhys _ _ _ b => [(b.toNat, 2)]
  | .sldD _ d _ b _ => [(d.toNat, 2), (b.toNat, 2)]
  | .sstW _ _ b _ => [(b.toNat, 2)]
  | .sstRel _ _ b => [(b.toNat, 2)]
  | .sstWPhys _ _ b => [(b.toNat, 2)]
  | .sstD d _ b _ => [(d.toNat, 2), (b.toNat, 2)]
  | .atom _ d a _ o _ => (a.toNat, 2) :: if o = 9 then [(d.toNat, 2)] else []
  | .satom _ d _ o b _ => (b.toNat, 2) :: if o = 9 then [(d.toNat, 2)] else []
  | .wata _ _ b => [(b.toNat, 2)]
  | .wake b => [(b.toNat, 2)]
  | .zfill _ b => [(b.toNat, 2)]
  | .pf _ b => [(b.toNat, 2)]
  | .pfL2 _ b => [(b.toNat, 2)]
  | .mstat _ _ d => [(d.toNat, 2)]
  | _ => []

/-- `k` registers from `n` on. -/
def upTo (n k : Nat) : List Nat := (List.range k).map fun i => n + i

/-- R88, Tables 5.1, 5.3, 9.1, 10.1: the registers that a word names, by its opcode and fields: vector registers read and written, scalar
registers read and written. A destination that keeps or adds to its old value is read as well; `unmax0` names A and reads only the stack. -/
def fieldRegs (w : Word) : Regs :=
  let f (lo n : Nat) : Nat := w.toNat / 2 ^ lo % 2 ^ n
  let op := f 24 8
  let x := f 20 4
  let D := f 14 6
  let A := f 8 6
  let B := f 2 6
  let sD := f 15 9
  let sA := f 6 9
  let sB := f 0 6
  let P := f 8 9
  let lin (vs accumulates : Bool) : Regs :=
    ⟨A :: ((if vs then [] else [B]) ++ if accumulates then [D] else []), [D], if vs then [B] else [], []⟩
  let engine (n : Nat) : Regs := ⟨[], [], upTo P n, [B]⟩
  let in_ (a b : Nat) : Bool := decide (a ≤ op ∧ op ≤ b)
  if in_ 0x06 0x06 || in_ 0x1B 0x1B then ⟨[], [], upTo sA 2, []⟩
  else if in_ 0x08 0x08 then ⟨[], [], [sA], [sD]⟩
  else if in_ 0x12 0x12 || in_ 0x1A 0x1A || in_ 0xB8 0xBA || in_ 0xED 0xED then ⟨[], [], [sA], []⟩
  else if in_ 0x14 0x14 then ⟨[], [], [], upTo sD (if srWidth (f 0 15) = some 64 then 2 else 1)⟩
  else if in_ 0x15 0x15 then ⟨[], [], upTo sD (if srWidth (f 0 15) = some 64 then 2 else 1), []⟩
  else if in_ 0x17 0x17 then ⟨[], [], upTo sA 2, [sD]⟩
  else if in_ 0x35 0x35 then ⟨[], [], [sA, sB], []⟩
  else if in_ 0x37 0x37 then ⟨[], [], [sA, sB, sD], [sD]⟩
  else if in_ 0x20 0x36 then ⟨[], [], [sA, sB], [sD]⟩
  else if in_ 0x38 0x38 then ⟨[], [], [sA], [sD]⟩
  else if in_ 0x39 0x39 then ⟨[], [], [sD], []⟩
  else if in_ 0x3A 0x3D then ⟨[], [], [sD], [sD]⟩
  else if in_ 0x3E 0x3E then ⟨[], [], [], [f 18 6]⟩
  else if in_ 0x3F 0x3F then ⟨[], [], [f 18 6], [f 18 6]⟩
  else if in_ 0x40 0x50 then lin (x % 2 == 1) (op == 0x45)
  else if in_ 0x51 0x51 then lin (decide (8 ≤ x)) false
  else if in_ 0x80 0x87 then lin (x % 2 == 1) (in_ 0x83 0x85)
  else if in_ 0x52 0x52 || in_ 0x89 0x89 then ⟨[A, B], [], [], []⟩
  else if in_ 0x53 0x53 then ⟨if x = 5 then [] else [A], [D], [], []⟩
  else if in_ 0x54 0x54 || in_ 0x60 0x60 || in_ 0x65 0x65 || in_ 0x8D 0x8D then ⟨[A, B], [D], [], []⟩
  else if in_ 0x55 0x55 || in_ 0xB2 0xB2 then ⟨[A, B, D], [D], [], []⟩
  else if in_ 0x56 0x56 then ⟨[], [D], [B], []⟩
  else if in_ 0x61 0x61 || in_ 0xB5 0xB5 then ⟨[A], [D], [B], []⟩
  else if in_ 0x62 0x62 then ⟨[A], [], [B], [D]⟩
  else if in_ 0x63 0x63 then ⟨[], [], [], [D]⟩
  else if in_ 0x71 0x71 then ⟨[A, D], [D], [], []⟩
  else if in_ 0x64 0x64 || in_ 0x70 0x72 || in_ 0x88 0x88 || in_ 0x8A 0x93 || in_ 0xB3 0xB3 then ⟨[A], [D], [], []⟩
  else if in_ 0x94 0x94 then ⟨upTo A 2, upTo D 4, upTo B 4, []⟩
  else if in_ 0xB7 0xB7 then if x % 2 = 0 then ⟨[A], [D], [], []⟩ else ⟨[], [D, A], [], []⟩
  else if in_ 0xB0 0xB6 then ⟨[A, B], [D], [], []⟩
  else if in_ 0xBB 0xBB then ⟨[], [], [], [sD]⟩
  else if in_ 0xC0 0xC6 then ⟨[A], upTo D (if op = 0xC5 then 2 else if op = 0xC6 then 4 else 1), upTo B 2, []⟩
  else if in_ 0xC7 0xCB then ⟨A :: upTo D (if op = 0xCA then 2 else if op = 0xCB then 4 else 1), [], upTo B 2, []⟩
  else if in_ 0xCC 0xCD then ⟨[], [], upTo B 2 ++ [A], upTo D (if op = 0xCD then 2 else 1)⟩
  else if in_ 0xCE 0xCF then ⟨[], [], upTo B 2 ++ A :: upTo D (if op = 0xCF then 2 else 1), []⟩
  else if in_ 0xD0 0xD0 then ⟨upTo D (if B % 16 = 9 then 2 else 1) ++ upTo A 2, if B / 16 % 2 = 1 then [D] else [], [], []⟩
  else if in_ 0xD1 0xD1 then ⟨[], [], upTo D (if A % 16 = 9 then 2 else 1) ++ upTo B 2, if A / 16 % 2 = 1 then [D] else []⟩
  else if in_ 0xD3 0xD3 then ⟨[], [], D :: A :: upTo B 2, []⟩
  else if in_ 0xD4 0xD4 then ⟨[], [], upTo B 2, []⟩
  else if in_ 0xD5 0xD6 then ⟨[A], [], upTo B 2, []⟩
  else if in_ 0xE0 0xE0 then ⟨[], [B], upTo P 6, []⟩
  else if in_ 0xE1 0xE2 || in_ 0xEC 0xEC then engine 9
  else if in_ 0xE3 0xE3 then engine 5
  else if in_ 0xE4 0xE4 then engine 8
  else if in_ 0xE5 0xE5 then engine 4
  else if in_ 0xE6 0xE6 then engine 6
  else if in_ 0xE7 0xE7 then engine 1
  else if in_ 0xE8 0xE8 then engine 14
  else if in_ 0xE9 0xE9 then engine 10
  else if in_ 0xEA 0xEA then engine (if f 0 2 = 2 then 1 else 4)
  else if in_ 0xEB 0xEB then ⟨[], [], [P], upTo B 2⟩
  else ⟨[], [], [], []⟩

/-- Tables 5.3, 6.3, 9.1, 10.1: an instruction with one of these does not look at marked registers first: it has a check of its own before
its operands are read (R59, R97, R147, R217, R293). -/
def checksFirst : Instr → Bool
  | .barrArrive _ => true
  | .barrWait _ => true
  | .barrSync _ => true
  | .rdsr _ _ => true
  | .wrsr _ _ => true
  | .tlbinv _ => true
  | .mma _ _ _ _ => true
  | .narrow _ _ _ => true
  | .widen _ _ _ => true
  | .rnarrow _ _ => true
  | .unnarrow _ _ => true
  | _ => false

/-- R199: the gang `g` takes an engine fault: the marks of the register are cleared, and no others. -/
def FaultsBy (s : State) (c : Cur) (g u : Gang) (i : Instr) (tval : Dword) (slice : Nat) (mask : Nat → Bool) : Prop :=
  g.sup = false → ∃ t h, exec i s = .next t ∧ Entered s t c u h 0x10 tval slice mask ∧
    (g.pend = [] → h.markS = u.markS ∧ h.markV = u.markV)

end Sys2Proof.Claims

/-- R49, R55, R88, R96, R195, R199: the registers an instruction names are those of its word's fields, a parameter block beginning at an
even one; an instruction that names a register its gang does not have is an illegal instruction when it executes, and no word whose pair or
quad is not aligned is an instruction; one that reads a marked status register takes an engine fault with the status word, whose entry
clears the marks of that register alone: of a scalar register with the active lanes, else of a vector register with its marked lanes. That a
marked vector register traps only where a marked lane is active is the model's reading (log entry 70). -/
def Obligations.RegistersChecked : Prop :=
  (∀ s c g i, i.isEvent = false → s.cur = some c → s.gang? c.tile c.slot = some g →
    (∃ n, n ∈ (Instr.regs i).rv ++ (Instr.regs i).wv ∧ g.nv ≤ n) ∨ (∃ n, n ∈ (Instr.regs i).rs ++ (Instr.regs i).ws ∧ g.ns ≤ n) →
    TrapsWhole s c g i 0x01 ((encode i).setWidth 64)) ∧
  (∀ w i, decode w = .ok i → Instr.regs i = fieldRegs w ∧ (0xE0 ≤ w.toNat / 2 ^ 24 → w.toNat / 2 ^ 24 ≤ 0xEC → w.toNat / 2 ^ 8 % 2 = 0) ∧
    ∀ x, x ∈ alignments i → x.1 % x.2 = 0) ∧
  (∀ s c g i, i.isEvent = false → checksFirst i = false → s.cur = some c → s.gang? c.tile c.slot = some g →
    (∀ n, n ∈ (Instr.regs i).rv ++ (Instr.regs i).wv → n < g.nv) → (∀ n, n ∈ (Instr.regs i).rs ++ (Instr.regs i).ws → n < g.ns) →
    (∀ pre n post, (Instr.regs i).rs = pre ++ n :: post → n ∈ g.markS → (∀ m, m ∈ pre → m ∉ g.markS) →
      FaultsBy s c g { g with markS := g.markS.filter fun m => m ≠ n } i ((g.sreg n).setWidth 64) c.slice fun k => decide (k ∈ lanes g c)) ∧
    (∀ pre n post low, (∀ m, m ∈ (Instr.regs i).rs → m ∉ g.markS) → (Instr.regs i).rv = pre ++ n :: post →
      (∃ l, l ∈ lanes g c ∧ n * 32 + l ∈ g.markV) → (∀ m l, m ∈ pre → l ∈ lanes g c → m * 32 + l ∉ g.markV) →
      low < 32 → n * 32 + low ∈ g.markV → (∀ l, l < low → n * 32 + l ∉ g.markV) →
      FaultsBy s c g { g with markV := g.markV.filter fun k => k / 32 ≠ n } i ((g.vreg n low).setWidth 64) (low / 4)
        fun k => decide (n * 32 + k ∈ g.markV)))
end

