-- ==== Sys2Proof/Laws/Sparse.lean ====
section
/-!
SUPPORT. Laws of the sparse stores: a read after a write, a write leaving other keys alone, and that every write keeps the
canonical form.
-/

namespace Sys2Proof

variable {α : Type}

@[simp] theorem Sparse.find?_put_same (m : Sparse α) (k : Nat) (x : α) : Sparse.find? (Sparse.put m k x) k = some x := by
  induction m with
  | nil => simp [Sparse.put, Sparse.find?]
  | cons e m ih =>
    unfold Sparse.put
    split
    · simp [Sparse.find?]
    · split
      · simp [Sparse.find?]
      · rw [Sparse.find?, if_neg ‹_›, ih]

theorem Sparse.find?_put_ne (m : Sparse α) {k j : Nat} (x : α) (h : k ≠ j) :
    Sparse.find? (Sparse.put m k x) j = Sparse.find? m j := by
  induction m with
  | nil => simp [Sparse.put, Sparse.find?, h]
  | cons e m ih =>
    unfold Sparse.put
    split
    · subst_vars; simp [Sparse.find?, h]
    · split
      · simp [Sparse.find?, h]
      · simp only [Sparse.find?, ih]

theorem Sparse.find?_put (m : Sparse α) (k j : Nat) (x : α) :
    Sparse.find? (Sparse.put m k x) j = if k = j then some x else Sparse.find? m j := by
  by_cases h : k = j
  · subst h; simp
  · simp [h, Sparse.find?_put_ne m x h]

theorem Sparse.find?_del (m : Sparse α) (k j : Nat) :
    Sparse.find? (Sparse.del m k) j = if k = j then none else Sparse.find? m j := by
  induction m with
  | nil => simp [Sparse.del, Sparse.find?]
  | cons e m ih =>
    obtain ⟨a, v⟩ := e
    simp only [Sparse.del] at ih ⊢
    by_cases h : a = k
    · subst h
      simp only [List.filter_cons, ne_eq, not_true_eq_false, decide_false, Bool.false_eq_true, if_false, ih, Sparse.find?]
      split <;> simp_all
    · simp only [List.filter_cons, ne_eq, h, not_false_eq_true, decide_true, if_true, Sparse.find?, ih]
      by_cases hj : a = j
      · subst hj; simp [Ne.symm h]
      · simp [hj]

theorem Sparse.find?_write [DecidableEq α] (d : α) (m : Sparse α) (k j : Nat) (x : α) :
    Sparse.find? (Sparse.write d m k x) j = if k = j then (if x = d then none else some x) else Sparse.find? m j := by
  unfold Sparse.write
  split
  · simp_all [Sparse.find?_del]
  · simp_all [Sparse.find?_put]

/-- A read after a write. -/
theorem Sparse.get_write [DecidableEq α] (d : α) (m : Sparse α) (k j : Nat) (x : α) :
    Sparse.get d (Sparse.write d m k x) j = if k = j then x else Sparse.get d m j := by
  unfold Sparse.get
  rw [Sparse.find?_write]
  split
  · split
    · simp_all
    · rfl
  · rfl

theorem Sparse.get_put (d : α) (m : Sparse α) (k j : Nat) (x : α) :
    Sparse.get d (Sparse.put m k x) j = if k = j then x else Sparse.get d m j := by
  unfold Sparse.get
  rw [Sparse.find?_put]
  split <;> rfl

theorem Sparse.find?_update (m : Sparse α) (k j : Nat) (f : α → α) :
    Sparse.find? (Sparse.update m k f) j = if k = j then (Sparse.find? m k).map f else Sparse.find? m j := by
  unfold Sparse.update
  split
  · rw [Sparse.find?_put]; split <;> simp_all
  · split <;> simp_all

@[simp] theorem Sparse.find?_nil (k : Nat) : Sparse.find? ([] : Sparse α) k = none := rfl

@[simp] theorem Sparse.get_nil (d : α) (k : Nat) : Sparse.get d ([] : Sparse α) k = d := rfl

/-! ## The canonical form -/

variable [DecidableEq α]

theorem Sparse.canonFrom_mono (d : α) {a b : Nat} (m : Sparse α) (h : a ≤ b) (hm : Sparse.canonFrom d b m = true) :
    Sparse.canonFrom d a m = true := by
  cases m with
  | nil => rfl
  | cons e m =>
    simp only [Sparse.canonFrom, Bool.and_eq_true, decide_eq_true_eq] at hm ⊢
    exact ⟨⟨by omega, hm.1.2⟩, hm.2⟩

theorem Sparse.canonFrom_put (d : α) (m : Sparse α) {lo k : Nat} (x : α) (hx : x ≠ d) (hlo : lo ≤ k)
    (hm : Sparse.canonFrom d lo m = true) : Sparse.canonFrom d lo (Sparse.put m k x) = true := by
  induction m generalizing lo with
  | nil => simp [Sparse.put, Sparse.canonFrom, hlo, hx]
  | cons e m ih =>
    simp only [Sparse.canonFrom, Bool.and_eq_true, decide_eq_true_eq] at hm
    unfold Sparse.put
    split
    · subst_vars; simp [Sparse.canonFrom, hlo, hx, hm.2]
    · split
      · simp only [Sparse.canonFrom, Bool.and_eq_true, decide_eq_true_eq]
        exact ⟨⟨hlo, hx⟩, ⟨by omega, hm.1.2⟩, hm.2⟩
      · simp only [Sparse.canonFrom, Bool.and_eq_true, decide_eq_true_eq]
        exact ⟨⟨hm.1.1, hm.1.2⟩, ih (by omega) hm.2⟩

theorem Sparse.canonFrom_del (d : α) (m : Sparse α) {lo : Nat} (k : Nat) (hm : Sparse.canonFrom d lo m = true) :
    Sparse.canonFrom d lo (Sparse.del m k) = true := by
  induction m generalizing lo with
  | nil => rfl
  | cons e m ih =>
    simp only [Sparse.canonFrom, Bool.and_eq_true, decide_eq_true_eq] at hm
    have h := ih hm.2
    simp only [Sparse.del, List.filter_cons] at h ⊢
    split
    · simp only [Sparse.canonFrom, Bool.and_eq_true, decide_eq_true_eq]; exact ⟨hm.1, h⟩
    · exact Sparse.canonFrom_mono d _ (by omega) h

/-- Every write keeps the canonical form. -/
theorem Sparse.canon_write (d : α) (m : Sparse α) (k : Nat) (x : α) (hm : Sparse.canon d m = true) :
    Sparse.canon d (Sparse.write d m k x) = true := by
  unfold Sparse.write
  split
  · exact Sparse.canonFrom_del d m k hm
  · exact Sparse.canonFrom_put d m x ‹_› (Nat.zero_le _) hm

/-- A list of writes keeps the canonical form. -/
theorem Sparse.canon_foldl_write {β : Type} (d : α) (key : β → Nat) (val : β → α) (xs : List β) (m : Sparse α)
    (hm : Sparse.canon d m = true) :
    Sparse.canon d (xs.foldl (fun m x => Sparse.write d m (key x) (val x)) m) = true := by
  induction xs generalizing m with
  | nil => exact hm
  | cons x xs ih => exact ih _ (Sparse.canon_write d m _ _ hm)

end Sys2Proof
end

