-- ==== Sys2Proof/Laws/State.lean ====
section
/-!
SUPPORT. What each update of the state leaves unchanged, field by field, and what it writes.
-/

namespace Sys2Proof.Machine

@[simp] theorem State.setGang_cur (s : State) (t n : Nat) (g : Gang) : (s.setGang t n g).cur = s.cur := rfl
@[simp] theorem State.setGang_subject (s : State) (t n : Nat) (g : Gang) : (s.setGang t n g).subject = s.subject := rfl
@[simp] theorem State.setGang_agenda (s : State) (t n : Nat) (g : Gang) : (s.setGang t n g).agenda = s.agenda := rfl
@[simp] theorem State.setGang_gtc (s : State) (t n : Nat) (g : Gang) : (s.setGang t n g).gtc = s.gtc := rfl
@[simp] theorem State.setGang_devnum (s : State) (t n : Nat) (g : Gang) : (s.setGang t n g).devnum = s.devnum := rfl
@[simp] theorem State.setGang_mem (s : State) (t n : Nat) (g : Gang) : (s.setGang t n g).mem = s.mem := rfl
@[simp] theorem State.setGang_homes (s : State) (t n : Nat) (g : Gang) : (s.setGang t n g).homes = s.homes := rfl
@[simp] theorem State.setGang_bad (s : State) (t n : Nat) (g : Gang) : (s.setGang t n g).bad = s.bad := rfl
@[simp] theorem State.setGang_upset (s : State) (t n : Nat) (g : Gang) : (s.setGang t n g).upset = s.upset := rfl
@[simp] theorem State.setGang_l2 (s : State) (t n : Nat) (g : Gang) : (s.setGang t n g).l2 = s.l2 := rfl
@[simp] theorem State.setGang_watches (s : State) (t n : Nat) (g : Gang) : (s.setGang t n g).watches = s.watches := rfl
@[simp] theorem State.setGang_walks (s : State) (t n : Nat) (g : Gang) : (s.setGang t n g).walks = s.walks := rfl
@[simp] theorem State.setGang_tiles (s : State) (t n : Nat) (g : Gang) : (s.setGang t n g).tiles = s.tiles := rfl
@[simp] theorem State.setGang_clusters (s : State) (t n : Nat) (g : Gang) : (s.setGang t n g).clusters = s.clusters := rfl
@[simp] theorem State.setGang_ctxs (s : State) (t n : Nat) (g : Gang) : (s.setGang t n g).ctxs = s.ctxs := rfl
@[simp] theorem State.setGang_launches (s : State) (t n : Nat) (g : Gang) : (s.setGang t n g).launches = s.launches := rfl
@[simp] theorem State.setGang_nextLaunch (s : State) (t n : Nat) (g : Gang) : (s.setGang t n g).nextLaunch = s.nextLaunch := rfl
@[simp] theorem State.setGang_drains (s : State) (t n : Nat) (g : Gang) : (s.setGang t n g).drains = s.drains := rfl
@[simp] theorem State.setGang_links (s : State) (t n : Nat) (g : Gang) : (s.setGang t n g).links = s.links := rfl
@[simp] theorem State.setGang_irqs (s : State) (t n : Nat) (g : Gang) : (s.setGang t n g).irqs = s.irqs := rfl
@[simp] theorem State.setGang_sent (s : State) (t n : Nat) (g : Gang) : (s.setGang t n g).sent = s.sent := rfl
@[simp] theorem State.setGang_hostW (s : State) (t n : Nat) (g : Gang) : (s.setGang t n g).hostW = s.hostW := rfl
@[simp] theorem State.setGang_hostStores (s : State) (t n : Nat) (g : Gang) : (s.setGang t n g).hostStores = s.hostStores := rfl
@[simp] theorem State.setGang_peers (s : State) (t n : Nat) (g : Gang) : (s.setGang t n g).peers = s.peers := rfl
@[simp] theorem State.setGang_ranks (s : State) (t n : Nat) (g : Gang) : (s.setGang t n g).ranks = s.ranks := rfl
@[simp] theorem State.setGang_frames (s : State) (t n : Nat) (g : Gang) : (s.setGang t n g).frames = s.frames := rfl
@[simp] theorem State.setGang_peerings (s : State) (t n : Nat) (g : Gang) : (s.setGang t n g).peerings = s.peerings := rfl
@[simp] theorem State.setGang_answer (s : State) (t n : Nat) (g : Gang) : (s.setGang t n g).answer = s.answer := rfl
@[simp] theorem State.setGang_domain (s : State) (t n : Nat) (g : Gang) : (s.setGang t n g).domain = s.domain := rfl
@[simp] theorem State.setGang_hostPort (s : State) (t n : Nat) (g : Gang) : (s.setGang t n g).hostPort = s.hostPort := rfl
@[simp] theorem State.setGang_domainPort (s : State) (t n : Nat) (g : Gang) : (s.setGang t n g).domainPort = s.domainPort := rfl
@[simp] theorem State.setGang_boot (s : State) (t n : Nat) (g : Gang) : (s.setGang t n g).boot = s.boot := rfl

@[simp] theorem State.modGang_cur (s : State) (t n : Nat) (f : Gang → Gang) : (s.modGang t n f).cur = s.cur := rfl
@[simp] theorem State.modGang_subject (s : State) (t n : Nat) (f : Gang → Gang) : (s.modGang t n f).subject = s.subject := rfl
@[simp] theorem State.modGang_agenda (s : State) (t n : Nat) (f : Gang → Gang) : (s.modGang t n f).agenda = s.agenda := rfl
@[simp] theorem State.modGang_gtc (s : State) (t n : Nat) (f : Gang → Gang) : (s.modGang t n f).gtc = s.gtc := rfl
@[simp] theorem State.modGang_devnum (s : State) (t n : Nat) (f : Gang → Gang) : (s.modGang t n f).devnum = s.devnum := rfl
@[simp] theorem State.modGang_mem (s : State) (t n : Nat) (f : Gang → Gang) : (s.modGang t n f).mem = s.mem := rfl
@[simp] theorem State.modGang_homes (s : State) (t n : Nat) (f : Gang → Gang) : (s.modGang t n f).homes = s.homes := rfl
@[simp] theorem State.modGang_bad (s : State) (t n : Nat) (f : Gang → Gang) : (s.modGang t n f).bad = s.bad := rfl
@[simp] theorem State.modGang_upset (s : State) (t n : Nat) (f : Gang → Gang) : (s.modGang t n f).upset = s.upset := rfl
@[simp] theorem State.modGang_l2 (s : State) (t n : Nat) (f : Gang → Gang) : (s.modGang t n f).l2 = s.l2 := rfl
@[simp] theorem State.modGang_watches (s : State) (t n : Nat) (f : Gang → Gang) : (s.modGang t n f).watches = s.watches := rfl
@[simp] theorem State.modGang_walks (s : State) (t n : Nat) (f : Gang → Gang) : (s.modGang t n f).walks = s.walks := rfl
@[simp] theorem State.modGang_tiles (s : State) (t n : Nat) (f : Gang → Gang) : (s.modGang t n f).tiles = s.tiles := rfl
@[simp] theorem State.modGang_clusters (s : State) (t n : Nat) (f : Gang → Gang) : (s.modGang t n f).clusters = s.clusters := rfl
@[simp] theorem State.modGang_ctxs (s : State) (t n : Nat) (f : Gang → Gang) : (s.modGang t n f).ctxs = s.ctxs := rfl
@[simp] theorem State.modGang_launches (s : State) (t n : Nat) (f : Gang → Gang) : (s.modGang t n f).launches = s.launches := rfl
@[simp] theorem State.modGang_nextLaunch (s : State) (t n : Nat) (f : Gang → Gang) : (s.modGang t n f).nextLaunch = s.nextLaunch := rfl
@[simp] theorem State.modGang_drains (s : State) (t n : Nat) (f : Gang → Gang) : (s.modGang t n f).drains = s.drains := rfl
@[simp] theorem State.modGang_links (s : State) (t n : Nat) (f : Gang → Gang) : (s.modGang t n f).links = s.links := rfl
@[simp] theorem State.modGang_irqs (s : State) (t n : Nat) (f : Gang → Gang) : (s.modGang t n f).irqs = s.irqs := rfl
@[simp] theorem State.modGang_sent (s : State) (t n : Nat) (f : Gang → Gang) : (s.modGang t n f).sent = s.sent := rfl
@[simp] theorem State.modGang_hostW (s : State) (t n : Nat) (f : Gang → Gang) : (s.modGang t n f).hostW = s.hostW := rfl
@[simp] theorem State.modGang_hostStores (s : State) (t n : Nat) (f : Gang → Gang) : (s.modGang t n f).hostStores = s.hostStores := rfl
@[simp] theorem State.modGang_peers (s : State) (t n : Nat) (f : Gang → Gang) : (s.modGang t n f).peers = s.peers := rfl
@[simp] theorem State.modGang_ranks (s : State) (t n : Nat) (f : Gang → Gang) : (s.modGang t n f).ranks = s.ranks := rfl
@[simp] theorem State.modGang_frames (s : State) (t n : Nat) (f : Gang → Gang) : (s.modGang t n f).frames = s.frames := rfl
@[simp] theorem State.modGang_peerings (s : State) (t n : Nat) (f : Gang → Gang) : (s.modGang t n f).peerings = s.peerings := rfl
@[simp] theorem State.modGang_answer (s : State) (t n : Nat) (f : Gang → Gang) : (s.modGang t n f).answer = s.answer := rfl
@[simp] theorem State.modGang_domain (s : State) (t n : Nat) (f : Gang → Gang) : (s.modGang t n f).domain = s.domain := rfl
@[simp] theorem State.modGang_hostPort (s : State) (t n : Nat) (f : Gang → Gang) : (s.modGang t n f).hostPort = s.hostPort := rfl
@[simp] theorem State.modGang_domainPort (s : State) (t n : Nat) (f : Gang → Gang) : (s.modGang t n f).domainPort = s.domainPort := rfl
@[simp] theorem State.modGang_boot (s : State) (t n : Nat) (f : Gang → Gang) : (s.modGang t n f).boot = s.boot := rfl

@[simp] theorem State.dropGang_cur (s : State) (t n : Nat) : (s.dropGang t n).cur = s.cur := rfl
@[simp] theorem State.dropGang_subject (s : State) (t n : Nat) : (s.dropGang t n).subject = s.subject := rfl
@[simp] theorem State.dropGang_agenda (s : State) (t n : Nat) : (s.dropGang t n).agenda = s.agenda := rfl
@[simp] theorem State.dropGang_gtc (s : State) (t n : Nat) : (s.dropGang t n).gtc = s.gtc := rfl
@[simp] theorem State.dropGang_devnum (s : State) (t n : Nat) : (s.dropGang t n).devnum = s.devnum := rfl
@[simp] theorem State.dropGang_mem (s : State) (t n : Nat) : (s.dropGang t n).mem = s.mem := rfl
@[simp] theorem State.dropGang_homes (s : State) (t n : Nat) : (s.dropGang t n).homes = s.homes := rfl
@[simp] theorem State.dropGang_bad (s : State) (t n : Nat) : (s.dropGang t n).bad = s.bad := rfl
@[simp] theorem State.dropGang_upset (s : State) (t n : Nat) : (s.dropGang t n).upset = s.upset := rfl
@[simp] theorem State.dropGang_l2 (s : State) (t n : Nat) : (s.dropGang t n).l2 = s.l2 := rfl
@[simp] theorem State.dropGang_watches (s : State) (t n : Nat) : (s.dropGang t n).watches = s.watches := rfl
@[simp] theorem State.dropGang_walks (s : State) (t n : Nat) : (s.dropGang t n).walks = s.walks := rfl
@[simp] theorem State.dropGang_tiles (s : State) (t n : Nat) : (s.dropGang t n).tiles = s.tiles := rfl
@[simp] theorem State.dropGang_clusters (s : State) (t n : Nat) : (s.dropGang t n).clusters = s.clusters := rfl
@[simp] theorem State.dropGang_ctxs (s : State) (t n : Nat) : (s.dropGang t n).ctxs = s.ctxs := rfl
@[simp] theorem State.dropGang_launches (s : State) (t n : Nat) : (s.dropGang t n).launches = s.launches := rfl
@[simp] theorem State.dropGang_nextLaunch (s : State) (t n : Nat) : (s.dropGang t n).nextLaunch = s.nextLaunch := rfl
@[simp] theorem State.dropGang_drains (s : State) (t n : Nat) : (s.dropGang t n).drains = s.drains := rfl
@[simp] theorem State.dropGang_links (s : State) (t n : Nat) : (s.dropGang t n).links = s.links := rfl
@[simp] theorem State.dropGang_irqs (s : State) (t n : Nat) : (s.dropGang t n).irqs = s.irqs := rfl
@[simp] theorem State.dropGang_sent (s : State) (t n : Nat) : (s.dropGang t n).sent = s.sent := rfl
@[simp] theorem State.dropGang_hostW (s : State) (t n : Nat) : (s.dropGang t n).hostW = s.hostW := rfl
@[simp] theorem State.dropGang_hostStores (s : State) (t n : Nat) : (s.dropGang t n).hostStores = s.hostStores := rfl
@[simp] theorem State.dropGang_peers (s : State) (t n : Nat) : (s.dropGang t n).peers = s.peers := rfl
@[simp] theorem State.dropGang_ranks (s : State) (t n : Nat) : (s.dropGang t n).ranks = s.ranks := rfl
@[simp] theorem State.dropGang_frames (s : State) (t n : Nat) : (s.dropGang t n).frames = s.frames := rfl
@[simp] theorem State.dropGang_peerings (s : State) (t n : Nat) : (s.dropGang t n).peerings = s.peerings := rfl
@[simp] theorem State.dropGang_answer (s : State) (t n : Nat) : (s.dropGang t n).answer = s.answer := rfl
@[simp] theorem State.dropGang_domain (s : State) (t n : Nat) : (s.dropGang t n).domain = s.domain := rfl
@[simp] theorem State.dropGang_hostPort (s : State) (t n : Nat) : (s.dropGang t n).hostPort = s.hostPort := rfl
@[simp] theorem State.dropGang_domainPort (s : State) (t n : Nat) : (s.dropGang t n).domainPort = s.domainPort := rfl
@[simp] theorem State.dropGang_boot (s : State) (t n : Nat) : (s.dropGang t n).boot = s.boot := rfl

@[simp] theorem State.setTile_cur (s : State) (t : Nat) (x : Tile) : (s.setTile t x).cur = s.cur := rfl
@[simp] theorem State.setTile_subject (s : State) (t : Nat) (x : Tile) : (s.setTile t x).subject = s.subject := rfl
@[simp] theorem State.setTile_agenda (s : State) (t : Nat) (x : Tile) : (s.setTile t x).agenda = s.agenda := rfl
@[simp] theorem State.setTile_gtc (s : State) (t : Nat) (x : Tile) : (s.setTile t x).gtc = s.gtc := rfl
@[simp] theorem State.setTile_devnum (s : State) (t : Nat) (x : Tile) : (s.setTile t x).devnum = s.devnum := rfl
@[simp] theorem State.setTile_mem (s : State) (t : Nat) (x : Tile) : (s.setTile t x).mem = s.mem := rfl
@[simp] theorem State.setTile_homes (s : State) (t : Nat) (x : Tile) : (s.setTile t x).homes = s.homes := rfl
@[simp] theorem State.setTile_bad (s : State) (t : Nat) (x : Tile) : (s.setTile t x).bad = s.bad := rfl
@[simp] theorem State.setTile_upset (s : State) (t : Nat) (x : Tile) : (s.setTile t x).upset = s.upset := rfl
@[simp] theorem State.setTile_l2 (s : State) (t : Nat) (x : Tile) : (s.setTile t x).l2 = s.l2 := rfl
@[simp] theorem State.setTile_watches (s : State) (t : Nat) (x : Tile) : (s.setTile t x).watches = s.watches := rfl
@[simp] theorem State.setTile_walks (s : State) (t : Nat) (x : Tile) : (s.setTile t x).walks = s.walks := rfl
@[simp] theorem State.setTile_clusters (s : State) (t : Nat) (x : Tile) : (s.setTile t x).clusters = s.clusters := rfl
@[simp] theorem State.setTile_gangs (s : State) (t : Nat) (x : Tile) : (s.setTile t x).gangs = s.gangs := rfl
@[simp] theorem State.setTile_ctxs (s : State) (t : Nat) (x : Tile) : (s.setTile t x).ctxs = s.ctxs := rfl
@[simp] theorem State.setTile_launches (s : State) (t : Nat) (x : Tile) : (s.setTile t x).launches = s.launches := rfl
@[simp] theorem State.setTile_nextLaunch (s : State) (t : Nat) (x : Tile) : (s.setTile t x).nextLaunch = s.nextLaunch := rfl
@[simp] theorem State.setTile_drains (s : State) (t : Nat) (x : Tile) : (s.setTile t x).drains = s.drains := rfl
@[simp] theorem State.setTile_links (s : State) (t : Nat) (x : Tile) : (s.setTile t x).links = s.links := rfl
@[simp] theorem State.setTile_irqs (s : State) (t : Nat) (x : Tile) : (s.setTile t x).irqs = s.irqs := rfl
@[simp] theorem State.setTile_sent (s : State) (t : Nat) (x : Tile) : (s.setTile t x).sent = s.sent := rfl
@[simp] theorem State.setTile_hostW (s : State) (t : Nat) (x : Tile) : (s.setTile t x).hostW = s.hostW := rfl
@[simp] theorem State.setTile_hostStores (s : State) (t : Nat) (x : Tile) : (s.setTile t x).hostStores = s.hostStores := rfl
@[simp] theorem State.setTile_peers (s : State) (t : Nat) (x : Tile) : (s.setTile t x).peers = s.peers := rfl
@[simp] theorem State.setTile_ranks (s : State) (t : Nat) (x : Tile) : (s.setTile t x).ranks = s.ranks := rfl
@[simp] theorem State.setTile_frames (s : State) (t : Nat) (x : Tile) : (s.setTile t x).frames = s.frames := rfl
@[simp] theorem State.setTile_peerings (s : State) (t : Nat) (x : Tile) : (s.setTile t x).peerings = s.peerings := rfl
@[simp] theorem State.setTile_answer (s : State) (t : Nat) (x : Tile) : (s.setTile t x).answer = s.answer := rfl
@[simp] theorem State.setTile_domain (s : State) (t : Nat) (x : Tile) : (s.setTile t x).domain = s.domain := rfl
@[simp] theorem State.setTile_hostPort (s : State) (t : Nat) (x : Tile) : (s.setTile t x).hostPort = s.hostPort := rfl
@[simp] theorem State.setTile_domainPort (s : State) (t : Nat) (x : Tile) : (s.setTile t x).domainPort = s.domainPort := rfl
@[simp] theorem State.setTile_boot (s : State) (t : Nat) (x : Tile) : (s.setTile t x).boot = s.boot := rfl

@[simp] theorem State.modTile_cur (s : State) (t : Nat) (f : Tile → Tile) : (s.modTile t f).cur = s.cur := rfl
@[simp] theorem State.modTile_subject (s : State) (t : Nat) (f : Tile → Tile) : (s.modTile t f).subject = s.subject := rfl
@[simp] theorem State.modTile_agenda (s : State) (t : Nat) (f : Tile → Tile) : (s.modTile t f).agenda = s.agenda := rfl
@[simp] theorem State.modTile_gtc (s : State) (t : Nat) (f : Tile → Tile) : (s.modTile t f).gtc = s.gtc := rfl
@[simp] theorem State.modTile_devnum (s : State) (t : Nat) (f : Tile → Tile) : (s.modTile t f).devnum = s.devnum := rfl
@[simp] theorem State.modTile_mem (s : State) (t : Nat) (f : Tile → Tile) : (s.modTile t f).mem = s.mem := rfl
@[simp] theorem State.modTile_homes (s : State) (t : Nat) (f : Tile → Tile) : (s.modTile t f).homes = s.homes := rfl
@[simp] theorem State.modTile_bad (s : State) (t : Nat) (f : Tile → Tile) : (s.modTile t f).bad = s.bad := rfl
@[simp] theorem State.modTile_upset (s : State) (t : Nat) (f : Tile → Tile) : (s.modTile t f).upset = s.upset := rfl
@[simp] theorem State.modTile_l2 (s : State) (t : Nat) (f : Tile → Tile) : (s.modTile t f).l2 = s.l2 := rfl
@[simp] theorem State.modTile_watches (s : State) (t : Nat) (f : Tile → Tile) : (s.modTile t f).watches = s.watches := rfl
@[simp] theorem State.modTile_walks (s : State) (t : Nat) (f : Tile → Tile) : (s.modTile t f).walks = s.walks := rfl
@[simp] theorem State.modTile_clusters (s : State) (t : Nat) (f : Tile → Tile) : (s.modTile t f).clusters = s.clusters := rfl
@[simp] theorem State.modTile_gangs (s : State) (t : Nat) (f : Tile → Tile) : (s.modTile t f).gangs = s.gangs := rfl
@[simp] theorem State.modTile_ctxs (s : State) (t : Nat) (f : Tile → Tile) : (s.modTile t f).ctxs = s.ctxs := rfl
@[simp] theorem State.modTile_launches (s : State) (t : Nat) (f : Tile → Tile) : (s.modTile t f).launches = s.launches := rfl
@[simp] theorem State.modTile_nextLaunch (s : State) (t : Nat) (f : Tile → Tile) : (s.modTile t f).nextLaunch = s.nextLaunch := rfl
@[simp] theorem State.modTile_drains (s : State) (t : Nat) (f : Tile → Tile) : (s.modTile t f).drains = s.drains := rfl
@[simp] theorem State.modTile_links (s : State) (t : Nat) (f : Tile → Tile) : (s.modTile t f).links = s.links := rfl
@[simp] theorem State.modTile_irqs (s : State) (t : Nat) (f : Tile → Tile) : (s.modTile t f).irqs = s.irqs := rfl
@[simp] theorem State.modTile_sent (s : State) (t : Nat) (f : Tile → Tile) : (s.modTile t f).sent = s.sent := rfl
@[simp] theorem State.modTile_hostW (s : State) (t : Nat) (f : Tile → Tile) : (s.modTile t f).hostW = s.hostW := rfl
@[simp] theorem State.modTile_hostStores (s : State) (t : Nat) (f : Tile → Tile) : (s.modTile t f).hostStores = s.hostStores := rfl
@[simp] theorem State.modTile_peers (s : State) (t : Nat) (f : Tile → Tile) : (s.modTile t f).peers = s.peers := rfl
@[simp] theorem State.modTile_ranks (s : State) (t : Nat) (f : Tile → Tile) : (s.modTile t f).ranks = s.ranks := rfl
@[simp] theorem State.modTile_frames (s : State) (t : Nat) (f : Tile → Tile) : (s.modTile t f).frames = s.frames := rfl
@[simp] theorem State.modTile_peerings (s : State) (t : Nat) (f : Tile → Tile) : (s.modTile t f).peerings = s.peerings := rfl
@[simp] theorem State.modTile_answer (s : State) (t : Nat) (f : Tile → Tile) : (s.modTile t f).answer = s.answer := rfl
@[simp] theorem State.modTile_domain (s : State) (t : Nat) (f : Tile → Tile) : (s.modTile t f).domain = s.domain := rfl
@[simp] theorem State.modTile_hostPort (s : State) (t : Nat) (f : Tile → Tile) : (s.modTile t f).hostPort = s.hostPort := rfl
@[simp] theorem State.modTile_domainPort (s : State) (t : Nat) (f : Tile → Tile) : (s.modTile t f).domainPort = s.domainPort := rfl
@[simp] theorem State.modTile_boot (s : State) (t : Nat) (f : Tile → Tile) : (s.modTile t f).boot = s.boot := rfl

@[simp] theorem State.setCluster_cur (s : State) (k : Nat) (x : Cluster) : (s.setCluster k x).cur = s.cur := rfl
@[simp] theorem State.setCluster_subject (s : State) (k : Nat) (x : Cluster) : (s.setCluster k x).subject = s.subject := rfl
@[simp] theorem State.setCluster_agenda (s : State) (k : Nat) (x : Cluster) : (s.setCluster k x).agenda = s.agenda := rfl
@[simp] theorem State.setCluster_gtc (s : State) (k : Nat) (x : Cluster) : (s.setCluster k x).gtc = s.gtc := rfl
@[simp] theorem State.setCluster_devnum (s : State) (k : Nat) (x : Cluster) : (s.setCluster k x).devnum = s.devnum := rfl
@[simp] theorem State.setCluster_mem (s : State) (k : Nat) (x : Cluster) : (s.setCluster k x).mem = s.mem := rfl
@[simp] theorem State.setCluster_homes (s : State) (k : Nat) (x : Cluster) : (s.setCluster k x).homes = s.homes := rfl
@[simp] theorem State.setCluster_bad (s : State) (k : Nat) (x : Cluster) : (s.setCluster k x).bad = s.bad := rfl
@[simp] theorem State.setCluster_upset (s : State) (k : Nat) (x : Cluster) : (s.setCluster k x).upset = s.upset := rfl
@[simp] theorem State.setCluster_l2 (s : State) (k : Nat) (x : Cluster) : (s.setCluster k x).l2 = s.l2 := rfl
@[simp] theorem State.setCluster_watches (s : State) (k : Nat) (x : Cluster) : (s.setCluster k x).watches = s.watches := rfl
@[simp] theorem State.setCluster_walks (s : State) (k : Nat) (x : Cluster) : (s.setCluster k x).walks = s.walks := rfl
@[simp] theorem State.setCluster_tiles (s : State) (k : Nat) (x : Cluster) : (s.setCluster k x).tiles = s.tiles := rfl
@[simp] theorem State.setCluster_gangs (s : State) (k : Nat) (x : Cluster) : (s.setCluster k x).gangs = s.gangs := rfl
@[simp] theorem State.setCluster_ctxs (s : State) (k : Nat) (x : Cluster) : (s.setCluster k x).ctxs = s.ctxs := rfl
@[simp] theorem State.setCluster_launches (s : State) (k : Nat) (x : Cluster) : (s.setCluster k x).launches = s.launches := rfl
@[simp] theorem State.setCluster_nextLaunch (s : State) (k : Nat) (x : Cluster) : (s.setCluster k x).nextLaunch = s.nextLaunch := rfl
@[simp] theorem State.setCluster_drains (s : State) (k : Nat) (x : Cluster) : (s.setCluster k x).drains = s.drains := rfl
@[simp] theorem State.setCluster_links (s : State) (k : Nat) (x : Cluster) : (s.setCluster k x).links = s.links := rfl
@[simp] theorem State.setCluster_irqs (s : State) (k : Nat) (x : Cluster) : (s.setCluster k x).irqs = s.irqs := rfl
@[simp] theorem State.setCluster_sent (s : State) (k : Nat) (x : Cluster) : (s.setCluster k x).sent = s.sent := rfl
@[simp] theorem State.setCluster_hostW (s : State) (k : Nat) (x : Cluster) : (s.setCluster k x).hostW = s.hostW := rfl
@[simp] theorem State.setCluster_hostStores (s : State) (k : Nat) (x : Cluster) : (s.setCluster k x).hostStores = s.hostStores := rfl
@[simp] theorem State.setCluster_peers (s : State) (k : Nat) (x : Cluster) : (s.setCluster k x).peers = s.peers := rfl
@[simp] theorem State.setCluster_ranks (s : State) (k : Nat) (x : Cluster) : (s.setCluster k x).ranks = s.ranks := rfl
@[simp] theorem State.setCluster_frames (s : State) (k : Nat) (x : Cluster) : (s.setCluster k x).frames = s.frames := rfl
@[simp] theorem State.setCluster_peerings (s : State) (k : Nat) (x : Cluster) : (s.setCluster k x).peerings = s.peerings := rfl
@[simp] theorem State.setCluster_answer (s : State) (k : Nat) (x : Cluster) : (s.setCluster k x).answer = s.answer := rfl
@[simp] theorem State.setCluster_domain (s : State) (k : Nat) (x : Cluster) : (s.setCluster k x).domain = s.domain := rfl
@[simp] theorem State.setCluster_hostPort (s : State) (k : Nat) (x : Cluster) : (s.setCluster k x).hostPort = s.hostPort := rfl
@[simp] theorem State.setCluster_domainPort (s : State) (k : Nat) (x : Cluster) : (s.setCluster k x).domainPort = s.domainPort := rfl
@[simp] theorem State.setCluster_boot (s : State) (k : Nat) (x : Cluster) : (s.setCluster k x).boot = s.boot := rfl

@[simp] theorem State.modCluster_cur (s : State) (k : Nat) (f : Cluster → Cluster) : (s.modCluster k f).cur = s.cur := rfl
@[simp] theorem State.modCluster_subject (s : State) (k : Nat) (f : Cluster → Cluster) : (s.modCluster k f).subject = s.subject := rfl
@[simp] theorem State.modCluster_agenda (s : State) (k : Nat) (f : Cluster → Cluster) : (s.modCluster k f).agenda = s.agenda := rfl
@[simp] theorem State.modCluster_gtc (s : State) (k : Nat) (f : Cluster → Cluster) : (s.modCluster k f).gtc = s.gtc := rfl
@[simp] theorem State.modCluster_devnum (s : State) (k : Nat) (f : Cluster → Cluster) : (s.modCluster k f).devnum = s.devnum := rfl
@[simp] theorem State.modCluster_mem (s : State) (k : Nat) (f : Cluster → Cluster) : (s.modCluster k f).mem = s.mem := rfl
@[simp] theorem State.modCluster_homes (s : State) (k : Nat) (f : Cluster → Cluster) : (s.modCluster k f).homes = s.homes := rfl
@[simp] theorem State.modCluster_bad (s : State) (k : Nat) (f : Cluster → Cluster) : (s.modCluster k f).bad = s.bad := rfl
@[simp] theorem State.modCluster_upset (s : State) (k : Nat) (f : Cluster → Cluster) : (s.modCluster k f).upset = s.upset := rfl
@[simp] theorem State.modCluster_l2 (s : State) (k : Nat) (f : Cluster → Cluster) : (s.modCluster k f).l2 = s.l2 := rfl
@[simp] theorem State.modCluster_watches (s : State) (k : Nat) (f : Cluster → Cluster) : (s.modCluster k f).watches = s.watches := rfl
@[simp] theorem State.modCluster_walks (s : State) (k : Nat) (f : Cluster → Cluster) : (s.modCluster k f).walks = s.walks := rfl
@[simp] theorem State.modCluster_tiles (s : State) (k : Nat) (f : Cluster → Cluster) : (s.modCluster k f).tiles = s.tiles := rfl
@[simp] theorem State.modCluster_gangs (s : State) (k : Nat) (f : Cluster → Cluster) : (s.modCluster k f).gangs = s.gangs := rfl
@[simp] theorem State.modCluster_ctxs (s : State) (k : Nat) (f : Cluster → Cluster) : (s.modCluster k f).ctxs = s.ctxs := rfl
@[simp] theorem State.modCluster_launches (s : State) (k : Nat) (f : Cluster → Cluster) : (s.modCluster k f).launches = s.launches := rfl
@[simp] theorem State.modCluster_nextLaunch (s : State) (k : Nat) (f : Cluster → Cluster) : (s.modCluster k f).nextLaunch = s.nextLaunch := rfl
@[simp] theorem State.modCluster_drains (s : State) (k : Nat) (f : Cluster → Cluster) : (s.modCluster k f).drains = s.drains := rfl
@[simp] theorem State.modCluster_links (s : State) (k : Nat) (f : Cluster → Cluster) : (s.modCluster k f).links = s.links := rfl
@[simp] theorem State.modCluster_irqs (s : State) (k : Nat) (f : Cluster → Cluster) : (s.modCluster k f).irqs = s.irqs := rfl
@[simp] theorem State.modCluster_sent (s : State) (k : Nat) (f : Cluster → Cluster) : (s.modCluster k f).sent = s.sent := rfl
@[simp] theorem State.modCluster_hostW (s : State) (k : Nat) (f : Cluster → Cluster) : (s.modCluster k f).hostW = s.hostW := rfl
@[simp] theorem State.modCluster_hostStores (s : State) (k : Nat) (f : Cluster → Cluster) : (s.modCluster k f).hostStores = s.hostStores := rfl
@[simp] theorem State.modCluster_peers (s : State) (k : Nat) (f : Cluster → Cluster) : (s.modCluster k f).peers = s.peers := rfl
@[simp] theorem State.modCluster_ranks (s : State) (k : Nat) (f : Cluster → Cluster) : (s.modCluster k f).ranks = s.ranks := rfl
@[simp] theorem State.modCluster_frames (s : State) (k : Nat) (f : Cluster → Cluster) : (s.modCluster k f).frames = s.frames := rfl
@[simp] theorem State.modCluster_peerings (s : State) (k : Nat) (f : Cluster → Cluster) : (s.modCluster k f).peerings = s.peerings := rfl
@[simp] theorem State.modCluster_answer (s : State) (k : Nat) (f : Cluster → Cluster) : (s.modCluster k f).answer = s.answer := rfl
@[simp] theorem State.modCluster_domain (s : State) (k : Nat) (f : Cluster → Cluster) : (s.modCluster k f).domain = s.domain := rfl
@[simp] theorem State.modCluster_hostPort (s : State) (k : Nat) (f : Cluster → Cluster) : (s.modCluster k f).hostPort = s.hostPort := rfl
@[simp] theorem State.modCluster_domainPort (s : State) (k : Nat) (f : Cluster → Cluster) : (s.modCluster k f).domainPort = s.domainPort := rfl
@[simp] theorem State.modCluster_boot (s : State) (k : Nat) (f : Cluster → Cluster) : (s.modCluster k f).boot = s.boot := rfl

@[simp] theorem State.modCtx_cur (s : State) (n : Nat) (f : Ctx → Ctx) : (s.modCtx n f).cur = s.cur := rfl
@[simp] theorem State.modCtx_subject (s : State) (n : Nat) (f : Ctx → Ctx) : (s.modCtx n f).subject = s.subject := rfl
@[simp] theorem State.modCtx_agenda (s : State) (n : Nat) (f : Ctx → Ctx) : (s.modCtx n f).agenda = s.agenda := rfl
@[simp] theorem State.modCtx_gtc (s : State) (n : Nat) (f : Ctx → Ctx) : (s.modCtx n f).gtc = s.gtc := rfl
@[simp] theorem State.modCtx_devnum (s : State) (n : Nat) (f : Ctx → Ctx) : (s.modCtx n f).devnum = s.devnum := rfl
@[simp] theorem State.modCtx_mem (s : State) (n : Nat) (f : Ctx → Ctx) : (s.modCtx n f).mem = s.mem := rfl
@[simp] theorem State.modCtx_homes (s : State) (n : Nat) (f : Ctx → Ctx) : (s.modCtx n f).homes = s.homes := rfl
@[simp] theorem State.modCtx_bad (s : State) (n : Nat) (f : Ctx → Ctx) : (s.modCtx n f).bad = s.bad := rfl
@[simp] theorem State.modCtx_upset (s : State) (n : Nat) (f : Ctx → Ctx) : (s.modCtx n f).upset = s.upset := rfl
@[simp] theorem State.modCtx_l2 (s : State) (n : Nat) (f : Ctx → Ctx) : (s.modCtx n f).l2 = s.l2 := rfl
@[simp] theorem State.modCtx_watches (s : State) (n : Nat) (f : Ctx → Ctx) : (s.modCtx n f).watches = s.watches := rfl
@[simp] theorem State.modCtx_walks (s : State) (n : Nat) (f : Ctx → Ctx) : (s.modCtx n f).walks = s.walks := rfl
@[simp] theorem State.modCtx_tiles (s : State) (n : Nat) (f : Ctx → Ctx) : (s.modCtx n f).tiles = s.tiles := rfl
@[simp] theorem State.modCtx_clusters (s : State) (n : Nat) (f : Ctx → Ctx) : (s.modCtx n f).clusters = s.clusters := rfl
@[simp] theorem State.modCtx_gangs (s : State) (n : Nat) (f : Ctx → Ctx) : (s.modCtx n f).gangs = s.gangs := rfl
@[simp] theorem State.modCtx_launches (s : State) (n : Nat) (f : Ctx → Ctx) : (s.modCtx n f).launches = s.launches := rfl
@[simp] theorem State.modCtx_nextLaunch (s : State) (n : Nat) (f : Ctx → Ctx) : (s.modCtx n f).nextLaunch = s.nextLaunch := rfl
@[simp] theorem State.modCtx_drains (s : State) (n : Nat) (f : Ctx → Ctx) : (s.modCtx n f).drains = s.drains := rfl
@[simp] theorem State.modCtx_links (s : State) (n : Nat) (f : Ctx → Ctx) : (s.modCtx n f).links = s.links := rfl
@[simp] theorem State.modCtx_irqs (s : State) (n : Nat) (f : Ctx → Ctx) : (s.modCtx n f).irqs = s.irqs := rfl
@[simp] theorem State.modCtx_sent (s : State) (n : Nat) (f : Ctx → Ctx) : (s.modCtx n f).sent = s.sent := rfl
@[simp] theorem State.modCtx_hostW (s : State) (n : Nat) (f : Ctx → Ctx) : (s.modCtx n f).hostW = s.hostW := rfl
@[simp] theorem State.modCtx_hostStores (s : State) (n : Nat) (f : Ctx → Ctx) : (s.modCtx n f).hostStores = s.hostStores := rfl
@[simp] theorem State.modCtx_peers (s : State) (n : Nat) (f : Ctx → Ctx) : (s.modCtx n f).peers = s.peers := rfl
@[simp] theorem State.modCtx_ranks (s : State) (n : Nat) (f : Ctx → Ctx) : (s.modCtx n f).ranks = s.ranks := rfl
@[simp] theorem State.modCtx_frames (s : State) (n : Nat) (f : Ctx → Ctx) : (s.modCtx n f).frames = s.frames := rfl
@[simp] theorem State.modCtx_peerings (s : State) (n : Nat) (f : Ctx → Ctx) : (s.modCtx n f).peerings = s.peerings := rfl
@[simp] theorem State.modCtx_answer (s : State) (n : Nat) (f : Ctx → Ctx) : (s.modCtx n f).answer = s.answer := rfl
@[simp] theorem State.modCtx_domain (s : State) (n : Nat) (f : Ctx → Ctx) : (s.modCtx n f).domain = s.domain := rfl
@[simp] theorem State.modCtx_hostPort (s : State) (n : Nat) (f : Ctx → Ctx) : (s.modCtx n f).hostPort = s.hostPort := rfl
@[simp] theorem State.modCtx_domainPort (s : State) (n : Nat) (f : Ctx → Ctx) : (s.modCtx n f).domainPort = s.domainPort := rfl
@[simp] theorem State.modCtx_boot (s : State) (n : Nat) (f : Ctx → Ctx) : (s.modCtx n f).boot = s.boot := rfl

@[simp] theorem State.modLaunch_cur (s : State) (l : Nat) (f : Launch → Launch) : (s.modLaunch l f).cur = s.cur := rfl
@[simp] theorem State.modLaunch_subject (s : State) (l : Nat) (f : Launch → Launch) : (s.modLaunch l f).subject = s.subject := rfl
@[simp] theorem State.modLaunch_agenda (s : State) (l : Nat) (f : Launch → Launch) : (s.modLaunch l f).agenda = s.agenda := rfl
@[simp] theorem State.modLaunch_gtc (s : State) (l : Nat) (f : Launch → Launch) : (s.modLaunch l f).gtc = s.gtc := rfl
@[simp] theorem State.modLaunch_devnum (s : State) (l : Nat) (f : Launch → Launch) : (s.modLaunch l f).devnum = s.devnum := rfl
@[simp] theorem State.modLaunch_mem (s : State) (l : Nat) (f : Launch → Launch) : (s.modLaunch l f).mem = s.mem := rfl
@[simp] theorem State.modLaunch_homes (s : State) (l : Nat) (f : Launch → Launch) : (s.modLaunch l f).homes = s.homes := rfl
@[simp] theorem State.modLaunch_bad (s : State) (l : Nat) (f : Launch → Launch) : (s.modLaunch l f).bad = s.bad := rfl
@[simp] theorem State.modLaunch_upset (s : State) (l : Nat) (f : Launch → Launch) : (s.modLaunch l f).upset = s.upset := rfl
@[simp] theorem State.modLaunch_l2 (s : State) (l : Nat) (f : Launch → Launch) : (s.modLaunch l f).l2 = s.l2 := rfl
@[simp] theorem State.modLaunch_watches (s : State) (l : Nat) (f : Launch → Launch) : (s.modLaunch l f).watches = s.watches := rfl
@[simp] theorem State.modLaunch_walks (s : State) (l : Nat) (f : Launch → Launch) : (s.modLaunch l f).walks = s.walks := rfl
@[simp] theorem State.modLaunch_tiles (s : State) (l : Nat) (f : Launch → Launch) : (s.modLaunch l f).tiles = s.tiles := rfl
@[simp] theorem State.modLaunch_clusters (s : State) (l : Nat) (f : Launch → Launch) : (s.modLaunch l f).clusters = s.clusters := rfl
@[simp] theorem State.modLaunch_gangs (s : State) (l : Nat) (f : Launch → Launch) : (s.modLaunch l f).gangs = s.gangs := rfl
@[simp] theorem State.modLaunch_ctxs (s : State) (l : Nat) (f : Launch → Launch) : (s.modLaunch l f).ctxs = s.ctxs := rfl
@[simp] theorem State.modLaunch_nextLaunch (s : State) (l : Nat) (f : Launch → Launch) : (s.modLaunch l f).nextLaunch = s.nextLaunch := rfl
@[simp] theorem State.modLaunch_drains (s : State) (l : Nat) (f : Launch → Launch) : (s.modLaunch l f).drains = s.drains := rfl
@[simp] theorem State.modLaunch_links (s : State) (l : Nat) (f : Launch → Launch) : (s.modLaunch l f).links = s.links := rfl
@[simp] theorem State.modLaunch_irqs (s : State) (l : Nat) (f : Launch → Launch) : (s.modLaunch l f).irqs = s.irqs := rfl
@[simp] theorem State.modLaunch_sent (s : State) (l : Nat) (f : Launch → Launch) : (s.modLaunch l f).sent = s.sent := rfl
@[simp] theorem State.modLaunch_hostW (s : State) (l : Nat) (f : Launch → Launch) : (s.modLaunch l f).hostW = s.hostW := rfl
@[simp] theorem State.modLaunch_hostStores (s : State) (l : Nat) (f : Launch → Launch) : (s.modLaunch l f).hostStores = s.hostStores := rfl
@[simp] theorem State.modLaunch_peers (s : State) (l : Nat) (f : Launch → Launch) : (s.modLaunch l f).peers = s.peers := rfl
@[simp] theorem State.modLaunch_ranks (s : State) (l : Nat) (f : Launch → Launch) : (s.modLaunch l f).ranks = s.ranks := rfl
@[simp] theorem State.modLaunch_frames (s : State) (l : Nat) (f : Launch → Launch) : (s.modLaunch l f).frames = s.frames := rfl
@[simp] theorem State.modLaunch_peerings (s : State) (l : Nat) (f : Launch → Launch) : (s.modLaunch l f).peerings = s.peerings := rfl
@[simp] theorem State.modLaunch_answer (s : State) (l : Nat) (f : Launch → Launch) : (s.modLaunch l f).answer = s.answer := rfl
@[simp] theorem State.modLaunch_domain (s : State) (l : Nat) (f : Launch → Launch) : (s.modLaunch l f).domain = s.domain := rfl
@[simp] theorem State.modLaunch_hostPort (s : State) (l : Nat) (f : Launch → Launch) : (s.modLaunch l f).hostPort = s.hostPort := rfl
@[simp] theorem State.modLaunch_domainPort (s : State) (l : Nat) (f : Launch → Launch) : (s.modLaunch l f).domainPort = s.domainPort := rfl
@[simp] theorem State.modLaunch_boot (s : State) (l : Nat) (f : Launch → Launch) : (s.modLaunch l f).boot = s.boot := rfl

@[simp] theorem State.modHome_cur (s : State) (l : Nat) (f : Home → Home) : (s.modHome l f).cur = s.cur := rfl
@[simp] theorem State.modHome_subject (s : State) (l : Nat) (f : Home → Home) : (s.modHome l f).subject = s.subject := rfl
@[simp] theorem State.modHome_agenda (s : State) (l : Nat) (f : Home → Home) : (s.modHome l f).agenda = s.agenda := rfl
@[simp] theorem State.modHome_gtc (s : State) (l : Nat) (f : Home → Home) : (s.modHome l f).gtc = s.gtc := rfl
@[simp] theorem State.modHome_devnum (s : State) (l : Nat) (f : Home → Home) : (s.modHome l f).devnum = s.devnum := rfl
@[simp] theorem State.modHome_mem (s : State) (l : Nat) (f : Home → Home) : (s.modHome l f).mem = s.mem := rfl
@[simp] theorem State.modHome_bad (s : State) (l : Nat) (f : Home → Home) : (s.modHome l f).bad = s.bad := rfl
@[simp] theorem State.modHome_upset (s : State) (l : Nat) (f : Home → Home) : (s.modHome l f).upset = s.upset := rfl
@[simp] theorem State.modHome_l2 (s : State) (l : Nat) (f : Home → Home) : (s.modHome l f).l2 = s.l2 := rfl
@[simp] theorem State.modHome_watches (s : State) (l : Nat) (f : Home → Home) : (s.modHome l f).watches = s.watches := rfl
@[simp] theorem State.modHome_walks (s : State) (l : Nat) (f : Home → Home) : (s.modHome l f).walks = s.walks := rfl
@[simp] theorem State.modHome_tiles (s : State) (l : Nat) (f : Home → Home) : (s.modHome l f).tiles = s.tiles := rfl
@[simp] theorem State.modHome_clusters (s : State) (l : Nat) (f : Home → Home) : (s.modHome l f).clusters = s.clusters := rfl
@[simp] theorem State.modHome_gangs (s : State) (l : Nat) (f : Home → Home) : (s.modHome l f).gangs = s.gangs := rfl
@[simp] theorem State.modHome_ctxs (s : State) (l : Nat) (f : Home → Home) : (s.modHome l f).ctxs = s.ctxs := rfl
@[simp] theorem State.modHome_launches (s : State) (l : Nat) (f : Home → Home) : (s.modHome l f).launches = s.launches := rfl
@[simp] theorem State.modHome_nextLaunch (s : State) (l : Nat) (f : Home → Home) : (s.modHome l f).nextLaunch = s.nextLaunch := rfl
@[simp] theorem State.modHome_drains (s : State) (l : Nat) (f : Home → Home) : (s.modHome l f).drains = s.drains := rfl
@[simp] theorem State.modHome_links (s : State) (l : Nat) (f : Home → Home) : (s.modHome l f).links = s.links := rfl
@[simp] theorem State.modHome_irqs (s : State) (l : Nat) (f : Home → Home) : (s.modHome l f).irqs = s.irqs := rfl
@[simp] theorem State.modHome_sent (s : State) (l : Nat) (f : Home → Home) : (s.modHome l f).sent = s.sent := rfl
@[simp] theorem State.modHome_hostW (s : State) (l : Nat) (f : Home → Home) : (s.modHome l f).hostW = s.hostW := rfl
@[simp] theorem State.modHome_hostStores (s : State) (l : Nat) (f : Home → Home) : (s.modHome l f).hostStores = s.hostStores := rfl
@[simp] theorem State.modHome_peers (s : State) (l : Nat) (f : Home → Home) : (s.modHome l f).peers = s.peers := rfl
@[simp] theorem State.modHome_ranks (s : State) (l : Nat) (f : Home → Home) : (s.modHome l f).ranks = s.ranks := rfl
@[simp] theorem State.modHome_frames (s : State) (l : Nat) (f : Home → Home) : (s.modHome l f).frames = s.frames := rfl
@[simp] theorem State.modHome_peerings (s : State) (l : Nat) (f : Home → Home) : (s.modHome l f).peerings = s.peerings := rfl
@[simp] theorem State.modHome_answer (s : State) (l : Nat) (f : Home → Home) : (s.modHome l f).answer = s.answer := rfl
@[simp] theorem State.modHome_domain (s : State) (l : Nat) (f : Home → Home) : (s.modHome l f).domain = s.domain := rfl
@[simp] theorem State.modHome_hostPort (s : State) (l : Nat) (f : Home → Home) : (s.modHome l f).hostPort = s.hostPort := rfl
@[simp] theorem State.modHome_domainPort (s : State) (l : Nat) (f : Home → Home) : (s.modHome l f).domainPort = s.domainPort := rfl
@[simp] theorem State.modHome_boot (s : State) (l : Nat) (f : Home → Home) : (s.modHome l f).boot = s.boot := rfl

@[simp] theorem State.wakeTile_cur (s : State) (t : Nat) : (s.wakeTile t).cur = s.cur := rfl
@[simp] theorem State.wakeTile_subject (s : State) (t : Nat) : (s.wakeTile t).subject = s.subject := rfl
@[simp] theorem State.wakeTile_agenda (s : State) (t : Nat) : (s.wakeTile t).agenda = s.agenda := rfl
@[simp] theorem State.wakeTile_gtc (s : State) (t : Nat) : (s.wakeTile t).gtc = s.gtc := rfl
@[simp] theorem State.wakeTile_devnum (s : State) (t : Nat) : (s.wakeTile t).devnum = s.devnum := rfl
@[simp] theorem State.wakeTile_mem (s : State) (t : Nat) : (s.wakeTile t).mem = s.mem := rfl
@[simp] theorem State.wakeTile_homes (s : State) (t : Nat) : (s.wakeTile t).homes = s.homes := rfl
@[simp] theorem State.wakeTile_bad (s : State) (t : Nat) : (s.wakeTile t).bad = s.bad := rfl
@[simp] theorem State.wakeTile_upset (s : State) (t : Nat) : (s.wakeTile t).upset = s.upset := rfl
@[simp] theorem State.wakeTile_l2 (s : State) (t : Nat) : (s.wakeTile t).l2 = s.l2 := rfl
@[simp] theorem State.wakeTile_watches (s : State) (t : Nat) : (s.wakeTile t).watches = s.watches := rfl
@[simp] theorem State.wakeTile_walks (s : State) (t : Nat) : (s.wakeTile t).walks = s.walks := rfl
@[simp] theorem State.wakeTile_clusters (s : State) (t : Nat) : (s.wakeTile t).clusters = s.clusters := rfl
@[simp] theorem State.wakeTile_gangs (s : State) (t : Nat) : (s.wakeTile t).gangs = s.gangs := rfl
@[simp] theorem State.wakeTile_ctxs (s : State) (t : Nat) : (s.wakeTile t).ctxs = s.ctxs := rfl
@[simp] theorem State.wakeTile_launches (s : State) (t : Nat) : (s.wakeTile t).launches = s.launches := rfl
@[simp] theorem State.wakeTile_nextLaunch (s : State) (t : Nat) : (s.wakeTile t).nextLaunch = s.nextLaunch := rfl
@[simp] theorem State.wakeTile_drains (s : State) (t : Nat) : (s.wakeTile t).drains = s.drains := rfl
@[simp] theorem State.wakeTile_links (s : State) (t : Nat) : (s.wakeTile t).links = s.links := rfl
@[simp] theorem State.wakeTile_irqs (s : State) (t : Nat) : (s.wakeTile t).irqs = s.irqs := rfl
@[simp] theorem State.wakeTile_sent (s : State) (t : Nat) : (s.wakeTile t).sent = s.sent := rfl
@[simp] theorem State.wakeTile_hostW (s : State) (t : Nat) : (s.wakeTile t).hostW = s.hostW := rfl
@[simp] theorem State.wakeTile_hostStores (s : State) (t : Nat) : (s.wakeTile t).hostStores = s.hostStores := rfl
@[simp] theorem State.wakeTile_peers (s : State) (t : Nat) : (s.wakeTile t).peers = s.peers := rfl
@[simp] theorem State.wakeTile_ranks (s : State) (t : Nat) : (s.wakeTile t).ranks = s.ranks := rfl
@[simp] theorem State.wakeTile_frames (s : State) (t : Nat) : (s.wakeTile t).frames = s.frames := rfl
@[simp] theorem State.wakeTile_peerings (s : State) (t : Nat) : (s.wakeTile t).peerings = s.peerings := rfl
@[simp] theorem State.wakeTile_answer (s : State) (t : Nat) : (s.wakeTile t).answer = s.answer := rfl
@[simp] theorem State.wakeTile_domain (s : State) (t : Nat) : (s.wakeTile t).domain = s.domain := rfl
@[simp] theorem State.wakeTile_hostPort (s : State) (t : Nat) : (s.wakeTile t).hostPort = s.hostPort := rfl
@[simp] theorem State.wakeTile_domainPort (s : State) (t : Nat) : (s.wakeTile t).domainPort = s.domainPort := rfl
@[simp] theorem State.wakeTile_boot (s : State) (t : Nat) : (s.wakeTile t).boot = s.boot := rfl

@[simp] theorem State.post_cur (s : State) (n : Nat) (r : FaultRec) : (s.post n r).cur = s.cur := rfl
@[simp] theorem State.post_subject (s : State) (n : Nat) (r : FaultRec) : (s.post n r).subject = s.subject := rfl
@[simp] theorem State.post_agenda (s : State) (n : Nat) (r : FaultRec) : (s.post n r).agenda = s.agenda := rfl
@[simp] theorem State.post_gtc (s : State) (n : Nat) (r : FaultRec) : (s.post n r).gtc = s.gtc := rfl
@[simp] theorem State.post_devnum (s : State) (n : Nat) (r : FaultRec) : (s.post n r).devnum = s.devnum := rfl
@[simp] theorem State.post_mem (s : State) (n : Nat) (r : FaultRec) : (s.post n r).mem = s.mem := rfl
@[simp] theorem State.post_homes (s : State) (n : Nat) (r : FaultRec) : (s.post n r).homes = s.homes := rfl
@[simp] theorem State.post_bad (s : State) (n : Nat) (r : FaultRec) : (s.post n r).bad = s.bad := rfl
@[simp] theorem State.post_upset (s : State) (n : Nat) (r : FaultRec) : (s.post n r).upset = s.upset := rfl
@[simp] theorem State.post_l2 (s : State) (n : Nat) (r : FaultRec) : (s.post n r).l2 = s.l2 := rfl
@[simp] theorem State.post_watches (s : State) (n : Nat) (r : FaultRec) : (s.post n r).watches = s.watches := rfl
@[simp] theorem State.post_walks (s : State) (n : Nat) (r : FaultRec) : (s.post n r).walks = s.walks := rfl
@[simp] theorem State.post_tiles (s : State) (n : Nat) (r : FaultRec) : (s.post n r).tiles = s.tiles := rfl
@[simp] theorem State.post_clusters (s : State) (n : Nat) (r : FaultRec) : (s.post n r).clusters = s.clusters := rfl
@[simp] theorem State.post_gangs (s : State) (n : Nat) (r : FaultRec) : (s.post n r).gangs = s.gangs := rfl
@[simp] theorem State.post_launches (s : State) (n : Nat) (r : FaultRec) : (s.post n r).launches = s.launches := rfl
@[simp] theorem State.post_nextLaunch (s : State) (n : Nat) (r : FaultRec) : (s.post n r).nextLaunch = s.nextLaunch := rfl
@[simp] theorem State.post_drains (s : State) (n : Nat) (r : FaultRec) : (s.post n r).drains = s.drains := rfl
@[simp] theorem State.post_links (s : State) (n : Nat) (r : FaultRec) : (s.post n r).links = s.links := rfl
@[simp] theorem State.post_irqs (s : State) (n : Nat) (r : FaultRec) : (s.post n r).irqs = s.irqs := rfl
@[simp] theorem State.post_sent (s : State) (n : Nat) (r : FaultRec) : (s.post n r).sent = s.sent := rfl
@[simp] theorem State.post_hostW (s : State) (n : Nat) (r : FaultRec) : (s.post n r).hostW = s.hostW := rfl
@[simp] theorem State.post_hostStores (s : State) (n : Nat) (r : FaultRec) : (s.post n r).hostStores = s.hostStores := rfl
@[simp] theorem State.post_peers (s : State) (n : Nat) (r : FaultRec) : (s.post n r).peers = s.peers := rfl
@[simp] theorem State.post_ranks (s : State) (n : Nat) (r : FaultRec) : (s.post n r).ranks = s.ranks := rfl
@[simp] theorem State.post_frames (s : State) (n : Nat) (r : FaultRec) : (s.post n r).frames = s.frames := rfl
@[simp] theorem State.post_peerings (s : State) (n : Nat) (r : FaultRec) : (s.post n r).peerings = s.peerings := rfl
@[simp] theorem State.post_answer (s : State) (n : Nat) (r : FaultRec) : (s.post n r).answer = s.answer := rfl
@[simp] theorem State.post_domain (s : State) (n : Nat) (r : FaultRec) : (s.post n r).domain = s.domain := rfl
@[simp] theorem State.post_hostPort (s : State) (n : Nat) (r : FaultRec) : (s.post n r).hostPort = s.hostPort := rfl
@[simp] theorem State.post_domainPort (s : State) (n : Nat) (r : FaultRec) : (s.post n r).domainPort = s.domainPort := rfl
@[simp] theorem State.post_boot (s : State) (n : Nat) (r : FaultRec) : (s.post n r).boot = s.boot := rfl

@[simp] theorem State.put_cur (s : State) (c : Cur) (g : Gang) : (s.put c g).cur = s.cur := rfl
@[simp] theorem State.put_subject (s : State) (c : Cur) (g : Gang) : (s.put c g).subject = s.subject := rfl
@[simp] theorem State.put_agenda (s : State) (c : Cur) (g : Gang) : (s.put c g).agenda = s.agenda := rfl
@[simp] theorem State.put_gtc (s : State) (c : Cur) (g : Gang) : (s.put c g).gtc = s.gtc := rfl
@[simp] theorem State.put_devnum (s : State) (c : Cur) (g : Gang) : (s.put c g).devnum = s.devnum := rfl
@[simp] theorem State.put_mem (s : State) (c : Cur) (g : Gang) : (s.put c g).mem = s.mem := rfl
@[simp] theorem State.put_homes (s : State) (c : Cur) (g : Gang) : (s.put c g).homes = s.homes := rfl
@[simp] theorem State.put_bad (s : State) (c : Cur) (g : Gang) : (s.put c g).bad = s.bad := rfl
@[simp] theorem State.put_upset (s : State) (c : Cur) (g : Gang) : (s.put c g).upset = s.upset := rfl
@[simp] theorem State.put_l2 (s : State) (c : Cur) (g : Gang) : (s.put c g).l2 = s.l2 := rfl
@[simp] theorem State.put_watches (s : State) (c : Cur) (g : Gang) : (s.put c g).watches = s.watches := rfl
@[simp] theorem State.put_walks (s : State) (c : Cur) (g : Gang) : (s.put c g).walks = s.walks := rfl
@[simp] theorem State.put_tiles (s : State) (c : Cur) (g : Gang) : (s.put c g).tiles = s.tiles := rfl
@[simp] theorem State.put_clusters (s : State) (c : Cur) (g : Gang) : (s.put c g).clusters = s.clusters := rfl
@[simp] theorem State.put_ctxs (s : State) (c : Cur) (g : Gang) : (s.put c g).ctxs = s.ctxs := rfl
@[simp] theorem State.put_launches (s : State) (c : Cur) (g : Gang) : (s.put c g).launches = s.launches := rfl
@[simp] theorem State.put_nextLaunch (s : State) (c : Cur) (g : Gang) : (s.put c g).nextLaunch = s.nextLaunch := rfl
@[simp] theorem State.put_drains (s : State) (c : Cur) (g : Gang) : (s.put c g).drains = s.drains := rfl
@[simp] theorem State.put_links (s : State) (c : Cur) (g : Gang) : (s.put c g).links = s.links := rfl
@[simp] theorem State.put_irqs (s : State) (c : Cur) (g : Gang) : (s.put c g).irqs = s.irqs := rfl
@[simp] theorem State.put_sent (s : State) (c : Cur) (g : Gang) : (s.put c g).sent = s.sent := rfl
@[simp] theorem State.put_hostW (s : State) (c : Cur) (g : Gang) : (s.put c g).hostW = s.hostW := rfl
@[simp] theorem State.put_hostStores (s : State) (c : Cur) (g : Gang) : (s.put c g).hostStores = s.hostStores := rfl
@[simp] theorem State.put_peers (s : State) (c : Cur) (g : Gang) : (s.put c g).peers = s.peers := rfl
@[simp] theorem State.put_ranks (s : State) (c : Cur) (g : Gang) : (s.put c g).ranks = s.ranks := rfl
@[simp] theorem State.put_frames (s : State) (c : Cur) (g : Gang) : (s.put c g).frames = s.frames := rfl
@[simp] theorem State.put_peerings (s : State) (c : Cur) (g : Gang) : (s.put c g).peerings = s.peerings := rfl
@[simp] theorem State.put_answer (s : State) (c : Cur) (g : Gang) : (s.put c g).answer = s.answer := rfl
@[simp] theorem State.put_domain (s : State) (c : Cur) (g : Gang) : (s.put c g).domain = s.domain := rfl
@[simp] theorem State.put_hostPort (s : State) (c : Cur) (g : Gang) : (s.put c g).hostPort = s.hostPort := rfl
@[simp] theorem State.put_domainPort (s : State) (c : Cur) (g : Gang) : (s.put c g).domainPort = s.domainPort := rfl
@[simp] theorem State.put_boot (s : State) (c : Cur) (g : Gang) : (s.put c g).boot = s.boot := rfl

@[simp] theorem State.finish_cur (s : State) (c : Cur) (g : Gang) : (s.finish c g).cur = s.cur := rfl
@[simp] theorem State.finish_subject (s : State) (c : Cur) (g : Gang) : (s.finish c g).subject = s.subject := rfl
@[simp] theorem State.finish_agenda (s : State) (c : Cur) (g : Gang) : (s.finish c g).agenda = s.agenda := rfl
@[simp] theorem State.finish_gtc (s : State) (c : Cur) (g : Gang) : (s.finish c g).gtc = s.gtc := rfl
@[simp] theorem State.finish_devnum (s : State) (c : Cur) (g : Gang) : (s.finish c g).devnum = s.devnum := rfl
@[simp] theorem State.finish_mem (s : State) (c : Cur) (g : Gang) : (s.finish c g).mem = s.mem := rfl
@[simp] theorem State.finish_homes (s : State) (c : Cur) (g : Gang) : (s.finish c g).homes = s.homes := rfl
@[simp] theorem State.finish_bad (s : State) (c : Cur) (g : Gang) : (s.finish c g).bad = s.bad := rfl
@[simp] theorem State.finish_upset (s : State) (c : Cur) (g : Gang) : (s.finish c g).upset = s.upset := rfl
@[simp] theorem State.finish_l2 (s : State) (c : Cur) (g : Gang) : (s.finish c g).l2 = s.l2 := rfl
@[simp] theorem State.finish_watches (s : State) (c : Cur) (g : Gang) : (s.finish c g).watches = s.watches := rfl
@[simp] theorem State.finish_walks (s : State) (c : Cur) (g : Gang) : (s.finish c g).walks = s.walks := rfl
@[simp] theorem State.finish_tiles (s : State) (c : Cur) (g : Gang) : (s.finish c g).tiles = s.tiles := rfl
@[simp] theorem State.finish_clusters (s : State) (c : Cur) (g : Gang) : (s.finish c g).clusters = s.clusters := rfl
@[simp] theorem State.finish_ctxs (s : State) (c : Cur) (g : Gang) : (s.finish c g).ctxs = s.ctxs := rfl
@[simp] theorem State.finish_launches (s : State) (c : Cur) (g : Gang) : (s.finish c g).launches = s.launches := rfl
@[simp] theorem State.finish_nextLaunch (s : State) (c : Cur) (g : Gang) : (s.finish c g).nextLaunch = s.nextLaunch := rfl
@[simp] theorem State.finish_drains (s : State) (c : Cur) (g : Gang) : (s.finish c g).drains = s.drains := rfl
@[simp] theorem State.finish_links (s : State) (c : Cur) (g : Gang) : (s.finish c g).links = s.links := rfl
@[simp] theorem State.finish_irqs (s : State) (c : Cur) (g : Gang) : (s.finish c g).irqs = s.irqs := rfl
@[simp] theorem State.finish_sent (s : State) (c : Cur) (g : Gang) : (s.finish c g).sent = s.sent := rfl
@[simp] theorem State.finish_hostW (s : State) (c : Cur) (g : Gang) : (s.finish c g).hostW = s.hostW := rfl
@[simp] theorem State.finish_hostStores (s : State) (c : Cur) (g : Gang) : (s.finish c g).hostStores = s.hostStores := rfl
@[simp] theorem State.finish_peers (s : State) (c : Cur) (g : Gang) : (s.finish c g).peers = s.peers := rfl
@[simp] theorem State.finish_ranks (s : State) (c : Cur) (g : Gang) : (s.finish c g).ranks = s.ranks := rfl
@[simp] theorem State.finish_frames (s : State) (c : Cur) (g : Gang) : (s.finish c g).frames = s.frames := rfl
@[simp] theorem State.finish_peerings (s : State) (c : Cur) (g : Gang) : (s.finish c g).peerings = s.peerings := rfl
@[simp] theorem State.finish_answer (s : State) (c : Cur) (g : Gang) : (s.finish c g).answer = s.answer := rfl
@[simp] theorem State.finish_domain (s : State) (c : Cur) (g : Gang) : (s.finish c g).domain = s.domain := rfl
@[simp] theorem State.finish_hostPort (s : State) (c : Cur) (g : Gang) : (s.finish c g).hostPort = s.hostPort := rfl
@[simp] theorem State.finish_domainPort (s : State) (c : Cur) (g : Gang) : (s.finish c g).domainPort = s.domainPort := rfl
@[simp] theorem State.finish_boot (s : State) (c : Cur) (g : Gang) : (s.finish c g).boot = s.boot := rfl

@[simp] theorem State.tick_cur (s : State) (n : Nat) : (s.tick n).cur = s.cur := rfl
@[simp] theorem State.tick_subject (s : State) (n : Nat) : (s.tick n).subject = s.subject := rfl
@[simp] theorem State.tick_agenda (s : State) (n : Nat) : (s.tick n).agenda = s.agenda := rfl
@[simp] theorem State.tick_devnum (s : State) (n : Nat) : (s.tick n).devnum = s.devnum := rfl
@[simp] theorem State.tick_mem (s : State) (n : Nat) : (s.tick n).mem = s.mem := rfl
@[simp] theorem State.tick_homes (s : State) (n : Nat) : (s.tick n).homes = s.homes := rfl
@[simp] theorem State.tick_bad (s : State) (n : Nat) : (s.tick n).bad = s.bad := rfl
@[simp] theorem State.tick_upset (s : State) (n : Nat) : (s.tick n).upset = s.upset := rfl
@[simp] theorem State.tick_l2 (s : State) (n : Nat) : (s.tick n).l2 = s.l2 := rfl
@[simp] theorem State.tick_watches (s : State) (n : Nat) : (s.tick n).watches = s.watches := rfl
@[simp] theorem State.tick_walks (s : State) (n : Nat) : (s.tick n).walks = s.walks := rfl
@[simp] theorem State.tick_tiles (s : State) (n : Nat) : (s.tick n).tiles = s.tiles := rfl
@[simp] theorem State.tick_clusters (s : State) (n : Nat) : (s.tick n).clusters = s.clusters := rfl
@[simp] theorem State.tick_gangs (s : State) (n : Nat) : (s.tick n).gangs = s.gangs := rfl
@[simp] theorem State.tick_ctxs (s : State) (n : Nat) : (s.tick n).ctxs = s.ctxs := rfl
@[simp] theorem State.tick_launches (s : State) (n : Nat) : (s.tick n).launches = s.launches := rfl
@[simp] theorem State.tick_nextLaunch (s : State) (n : Nat) : (s.tick n).nextLaunch = s.nextLaunch := rfl
@[simp] theorem State.tick_drains (s : State) (n : Nat) : (s.tick n).drains = s.drains := rfl
@[simp] theorem State.tick_links (s : State) (n : Nat) : (s.tick n).links = s.links := rfl
@[simp] theorem State.tick_irqs (s : State) (n : Nat) : (s.tick n).irqs = s.irqs := rfl
@[simp] theorem State.tick_sent (s : State) (n : Nat) : (s.tick n).sent = s.sent := rfl
@[simp] theorem State.tick_hostW (s : State) (n : Nat) : (s.tick n).hostW = s.hostW := rfl
@[simp] theorem State.tick_hostStores (s : State) (n : Nat) : (s.tick n).hostStores = s.hostStores := rfl
@[simp] theorem State.tick_peers (s : State) (n : Nat) : (s.tick n).peers = s.peers := rfl
@[simp] theorem State.tick_ranks (s : State) (n : Nat) : (s.tick n).ranks = s.ranks := rfl
@[simp] theorem State.tick_frames (s : State) (n : Nat) : (s.tick n).frames = s.frames := rfl
@[simp] theorem State.tick_peerings (s : State) (n : Nat) : (s.tick n).peerings = s.peerings := rfl
@[simp] theorem State.tick_answer (s : State) (n : Nat) : (s.tick n).answer = s.answer := rfl
@[simp] theorem State.tick_domain (s : State) (n : Nat) : (s.tick n).domain = s.domain := rfl
@[simp] theorem State.tick_hostPort (s : State) (n : Nat) : (s.tick n).hostPort = s.hostPort := rfl
@[simp] theorem State.tick_domainPort (s : State) (n : Nat) : (s.tick n).domainPort = s.domainPort := rfl
@[simp] theorem State.tick_boot (s : State) (n : Nat) : (s.tick n).boot = s.boot := rfl

@[simp] theorem State.popTurn_cur (s : State) : (s.popTurn).cur = s.cur := rfl
@[simp] theorem State.popTurn_subject (s : State) : (s.popTurn).subject = s.subject := rfl
@[simp] theorem State.popTurn_gtc (s : State) : (s.popTurn).gtc = s.gtc := rfl
@[simp] theorem State.popTurn_devnum (s : State) : (s.popTurn).devnum = s.devnum := rfl
@[simp] theorem State.popTurn_mem (s : State) : (s.popTurn).mem = s.mem := rfl
@[simp] theorem State.popTurn_homes (s : State) : (s.popTurn).homes = s.homes := rfl
@[simp] theorem State.popTurn_bad (s : State) : (s.popTurn).bad = s.bad := rfl
@[simp] theorem State.popTurn_upset (s : State) : (s.popTurn).upset = s.upset := rfl
@[simp] theorem State.popTurn_l2 (s : State) : (s.popTurn).l2 = s.l2 := rfl
@[simp] theorem State.popTurn_watches (s : State) : (s.popTurn).watches = s.watches := rfl
@[simp] theorem State.popTurn_walks (s : State) : (s.popTurn).walks = s.walks := rfl
@[simp] theorem State.popTurn_tiles (s : State) : (s.popTurn).tiles = s.tiles := rfl
@[simp] theorem State.popTurn_clusters (s : State) : (s.popTurn).clusters = s.clusters := rfl
@[simp] theorem State.popTurn_gangs (s : State) : (s.popTurn).gangs = s.gangs := rfl
@[simp] theorem State.popTurn_ctxs (s : State) : (s.popTurn).ctxs = s.ctxs := rfl
@[simp] theorem State.popTurn_launches (s : State) : (s.popTurn).launches = s.launches := rfl
@[simp] theorem State.popTurn_nextLaunch (s : State) : (s.popTurn).nextLaunch = s.nextLaunch := rfl
@[simp] theorem State.popTurn_drains (s : State) : (s.popTurn).drains = s.drains := rfl
@[simp] theorem State.popTurn_links (s : State) : (s.popTurn).links = s.links := rfl
@[simp] theorem State.popTurn_irqs (s : State) : (s.popTurn).irqs = s.irqs := rfl
@[simp] theorem State.popTurn_sent (s : State) : (s.popTurn).sent = s.sent := rfl
@[simp] theorem State.popTurn_hostW (s : State) : (s.popTurn).hostW = s.hostW := rfl
@[simp] theorem State.popTurn_hostStores (s : State) : (s.popTurn).hostStores = s.hostStores := rfl
@[simp] theorem State.popTurn_peers (s : State) : (s.popTurn).peers = s.peers := rfl
@[simp] theorem State.popTurn_ranks (s : State) : (s.popTurn).ranks = s.ranks := rfl
@[simp] theorem State.popTurn_frames (s : State) : (s.popTurn).frames = s.frames := rfl
@[simp] theorem State.popTurn_peerings (s : State) : (s.popTurn).peerings = s.peerings := rfl
@[simp] theorem State.popTurn_answer (s : State) : (s.popTurn).answer = s.answer := rfl
@[simp] theorem State.popTurn_domain (s : State) : (s.popTurn).domain = s.domain := rfl
@[simp] theorem State.popTurn_hostPort (s : State) : (s.popTurn).hostPort = s.hostPort := rfl
@[simp] theorem State.popTurn_domainPort (s : State) : (s.popTurn).domainPort = s.domainPort := rfl
@[simp] theorem State.popTurn_boot (s : State) : (s.popTurn).boot = s.boot := rfl

/-! ## What an update writes -/

theorem State.gang?_setGang (s : State) (t n t' n' : Nat) (g : Gang) :
    (s.setGang t n g).gang? t' n' = if gkey t n = gkey t' n' then some g else s.gang? t' n' := by
  simp [State.gang?, State.setGang, Sparse.find?_put]

@[simp] theorem State.gang?_setGang_same (s : State) (t n : Nat) (g : Gang) : (s.setGang t n g).gang? t n = some g := by
  simp [State.gang?_setGang]

theorem State.gang?_modGang (s : State) (t n t' n' : Nat) (f : Gang → Gang) :
    (s.modGang t n f).gang? t' n' = if gkey t n = gkey t' n' then (s.gang? t n).map f else s.gang? t' n' := by
  simp [State.gang?, State.modGang, Sparse.find?_update]

theorem State.gang?_dropGang (s : State) (t n t' n' : Nat) :
    (s.dropGang t n).gang? t' n' = if gkey t n = gkey t' n' then none else s.gang? t' n' := by
  simp [State.gang?, State.dropGang, Sparse.find?_del]

theorem State.tile_setTile (s : State) (t u : Nat) (x : Tile) :
    (s.setTile t x).tile u = if t = u then x else s.tile u := by
  simp [State.tile, State.setTile, Sparse.get_put]

theorem State.tile_modTile (s : State) (t u : Nat) (f : Tile → Tile) :
    (s.modTile t f).tile u = if t = u then f (s.tile t) else s.tile u := by
  simp [State.modTile, State.tile_setTile]

theorem State.cluster_modCluster (s : State) (k j : Nat) (f : Cluster → Cluster) :
    (s.modCluster k f).cluster j = if k = j then f (s.cluster k) else s.cluster j := by
  simp [State.modCluster, State.cluster, State.setCluster, Sparse.get_put]

theorem State.ctx_modCtx (s : State) (n m : Nat) (f : Ctx → Ctx) :
    (s.modCtx n f).ctx m = if n = m then f (s.ctx n) else s.ctx m := by
  simp [State.modCtx, State.ctx, Sparse.get_put]

theorem State.launch?_modLaunch (s : State) (n m : Nat) (f : Launch → Launch) :
    (s.modLaunch n f).launch? m = if n = m then (s.launch? n).map f else s.launch? m := by
  simp [State.modLaunch, State.launch?, Sparse.find?_update]

theorem State.home_modHome (s : State) (l k : Nat) (f : Home → Home) :
    (s.modHome l f).home k = if l = k then f (s.home l) else s.home k := by
  simp [State.modHome, State.home, Sparse.get_put]

/-- Whatever reads gangs alone is untouched by other updates. -/
@[simp] theorem State.gang?_modTile (s : State) (t a b : Nat) (f : Tile → Tile) : (s.modTile t f).gang? a b = s.gang? a b := rfl
@[simp] theorem State.gang?_modCluster (s : State) (k a b : Nat) (f : Cluster → Cluster) :
    (s.modCluster k f).gang? a b = s.gang? a b := rfl
@[simp] theorem State.gang?_modCtx (s : State) (n a b : Nat) (f : Ctx → Ctx) : (s.modCtx n f).gang? a b = s.gang? a b := rfl
@[simp] theorem State.gang?_modLaunch (s : State) (n a b : Nat) (f : Launch → Launch) :
    (s.modLaunch n f).gang? a b = s.gang? a b := rfl
@[simp] theorem State.tile_setGang (s : State) (t n u : Nat) (g : Gang) : (s.setGang t n g).tile u = s.tile u := rfl
@[simp] theorem State.tile_modCtx (s : State) (n u : Nat) (f : Ctx → Ctx) : (s.modCtx n f).tile u = s.tile u := rfl
@[simp] theorem State.tile_modCluster (s : State) (k u : Nat) (f : Cluster → Cluster) : (s.modCluster k f).tile u = s.tile u := rfl
@[simp] theorem State.cluster_setGang (s : State) (t n k : Nat) (g : Gang) : (s.setGang t n g).cluster k = s.cluster k := rfl
@[simp] theorem State.cluster_modTile (s : State) (t k : Nat) (f : Tile → Tile) : (s.modTile t f).cluster k = s.cluster k := rfl
@[simp] theorem State.ctx_setGang (s : State) (t n m : Nat) (g : Gang) : (s.setGang t n g).ctx m = s.ctx m := rfl
@[simp] theorem State.ctx_modTile (s : State) (t m : Nat) (f : Tile → Tile) : (s.modTile t f).ctx m = s.ctx m := rfl

end Sys2Proof.Machine
end

