-- ==== Sys2Proof/Laws/Gang.lean ====
section
/-!
SUPPORT. Reads of a gang after each of its updates: slices and groups, registers, predicates, remainder stacks.
-/

namespace Sys2Proof.Machine

/-! ## Slices and groups -/

theorem Gang.lt_of_live {g : Gang} {j : Nat} (h : (g.slice j).live = true) : j < g.slices.length := by
  by_cases hj : j < g.slices.length
  · exact hj
  · simp [Gang.slice, List.getD_eq_getElem?_getD, List.getElem?_eq_none (Nat.le_of_not_lt hj)] at h

theorem Gang.mem_liveSlices {g : Gang} {j : Nat} : j ∈ g.liveSlices ↔ j < 8 ∧ (g.slice j).live = true := by
  simp [Gang.liveSlices]

theorem Gang.mem_group {g : Gang} {i j : Nat} :
    j ∈ g.group i ↔ (j < 8 ∧ (g.slice j).live = true) ∧ (g.slice j).grp = (g.slice i).grp := by
  simp [Gang.group, Gang.mem_liveSlices]

theorem Gang.lt_of_mem_group {g : Gang} {i j : Nat} (h : j ∈ g.group i) : j < g.slices.length :=
  Gang.lt_of_live (Gang.mem_group.mp h).1.2

theorem Gang.slice_mapSlices (g : Gang) (f : Nat → Slice → Slice) (j : Nat) :
    (g.mapSlices f).slice j = if j < g.slices.length then f j (g.slice j) else g.slice j := by
  by_cases h : j < g.slices.length <;> simp [Gang.slice, Gang.mapSlices, List.getD_eq_getElem?_getD, h]

theorem Gang.slice_modSlices (g : Gang) (js : List Nat) (f : Slice → Slice) (j : Nat) :
    (g.modSlices js f).slice j = if j < g.slices.length ∧ j ∈ js then f (g.slice j) else g.slice j := by
  unfold Gang.modSlices
  rw [Gang.slice_mapSlices]
  by_cases h : j < g.slices.length <;> by_cases hj : j ∈ js <;> simp [h, hj]

/-- The group's slices changed by a function. -/
theorem Gang.slice_modGroup (g : Gang) (i : Nat) (f : Slice → Slice) (j : Nat) :
    (g.modSlices (g.group i) f).slice j = if j ∈ g.group i then f (g.slice j) else g.slice j := by
  rw [Gang.slice_modSlices]
  by_cases h : j ∈ g.group i
  · simp [h, Gang.lt_of_mem_group h]
  · simp [h]

@[simp] theorem Gang.length_mapSlices (g : Gang) (f : Nat → Slice → Slice) :
    (g.mapSlices f).slices.length = g.slices.length := by simp [Gang.mapSlices]

@[simp] theorem Gang.length_modSlices (g : Gang) (js : List Nat) (f : Slice → Slice) :
    (g.modSlices js f).slices.length = g.slices.length := by simp [Gang.modSlices]

theorem Gang.slice_advance (g : Gang) (i : Nat) (j : Nat) :
    (g.advance (g.group i)).slice j = if j ∈ g.group i then (g.slice j).advance else g.slice j :=
  Gang.slice_modGroup g i Slice.advance j

/-- Two gangs with the same slices have the same groups. -/
theorem Gang.group_congr {g h : Gang} (e : h.slices = g.slices) (j : Nat) : h.group j = g.group j := by
  simp only [Gang.group, Gang.liveSlices, Gang.slice, e]

/-- A change of slices that keeps them live and in their groups keeps the groups. -/
theorem Gang.group_modSlices (g : Gang) (js : List Nat) (f : Slice → Slice) (hl : ∀ x, (f x).live = x.live)
    (hg : ∀ x, (f x).grp = x.grp) (i : Nat) : (g.modSlices js f).group i = g.group i := by
  have h1 : ∀ j, ((g.modSlices js f).slice j).live = (g.slice j).live := by
    intro j; rw [Gang.slice_modSlices]; split <;> simp [hl]
  have h2 : ∀ j, ((g.modSlices js f).slice j).grp = (g.slice j).grp := by
    intro j; rw [Gang.slice_modSlices]; split <;> simp [hg]
  unfold Gang.group Gang.liveSlices
  simp only [h1, h2]

/-- Slices of the group changed and then past the instruction. -/
theorem Gang.slice_advance_mod (g : Gang) (i : Nat) (f : Slice → Slice) (hl : ∀ x, (f x).live = x.live)
    (hg : ∀ x, (f x).grp = x.grp) (j : Nat) :
    ((g.modSlices (g.group i) f).advance ((g.modSlices (g.group i) f).group i)).slice j =
      if j ∈ g.group i then (f (g.slice j)).advance else g.slice j := by
  rw [Gang.slice_advance, Gang.group_modSlices _ _ _ hl hg, Gang.slice_modGroup]
  split <;> rfl

/-- Flags set before or after passing an instruction. -/
theorem Slice.advance_fl (x : Slice) (fl : Flags) : Slice.advance { x with fl := fl } = { x.advance with fl := fl } := by
  unfold Slice.advance; dsimp only; split <;> rfl

theorem Slice.advance_mode (x : Slice) (m : Word) : Slice.advance { x with mode := m } = { x.advance with mode := m } := by
  unfold Slice.advance; dsimp only; split <;> rfl

@[simp] theorem Slice.advance_live (x : Slice) : x.advance.live = x.live := by unfold Slice.advance; split <;> rfl
@[simp] theorem Slice.advance_grp (x : Slice) : x.advance.grp = x.grp := by unfold Slice.advance; split <;> rfl

@[simp] theorem Gang.group_setS (g : Gang) (n j : Nat) (x : Word) : (g.setS n x).group j = g.group j := rfl
@[simp] theorem Gang.group_setS64 (g : Gang) (n j : Nat) (x : Dword) : (g.setS64 n x).group j = g.group j := rfl
@[simp] theorem Gang.group_setV (g : Gang) (n l j : Nat) (x : Word) : (g.setV n l x).group j = g.group j := rfl
@[simp] theorem Gang.group_setRem (g : Gang) (l j : Nat) (x : List Rem) : (g.setRem l x).group j = g.group j := rfl
@[simp] theorem Gang.slices_setP (g : Gang) (n l : Nat) (x : Bool) : (g.setP n l x).slices = g.slices := by
  unfold Gang.setP; split <;> rfl
@[simp] theorem Gang.group_setP (g : Gang) (n l j : Nat) (x : Bool) : (g.setP n l x).group j = g.group j :=
  Gang.group_congr (by simp) j
@[simp] theorem Gang.slice_setS (g : Gang) (n j : Nat) (x : Word) : (g.setS n x).slice j = g.slice j := rfl
@[simp] theorem Gang.slice_setV (g : Gang) (n l j : Nat) (x : Word) : (g.setV n l x).slice j = g.slice j := rfl
@[simp] theorem Gang.slice_setRem (g : Gang) (l j : Nat) (x : List Rem) : (g.setRem l x).slice j = g.slice j := rfl
@[simp] theorem Gang.slice_setP (g : Gang) (n l j : Nat) (x : Bool) : (g.setP n l x).slice j = g.slice j := by
  simp [Gang.slice]

/-- The lanes that execute lie in slices of the group. -/
theorem Gang.mem_active {g : Gang} {js : List Nat} {l : Nat} :
    l ∈ g.active js ↔ l / 4 ∈ js ∧ g.pred (modeGp (g.slice (l / 4)).mode) l = true := by
  simp only [Gang.active, List.mem_filter, List.mem_flatMap, lanesOf, List.mem_cons, List.not_mem_nil, or_false]
  constructor
  · rintro ⟨⟨j, hj, hl⟩, hp⟩
    have : l / 4 = j := by omega
    subst this
    exact ⟨hj, hp⟩
  · rintro ⟨hj, hp⟩
    exact ⟨⟨l / 4, hj, by omega⟩, hp⟩

theorem Gang.lt_of_mem_active {g : Gang} {i l : Nat} (h : l ∈ g.active (g.group i)) : l < 32 := by
  have := (Gang.mem_group.mp (Gang.mem_active.mp h).1).1.1
  omega

/-! ## Registers -/

@[simp] theorem Gang.sreg_setS (g : Gang) (n m : Nat) (x : Word) : (g.setS n x).sreg m = if n = m then x else g.sreg m := by
  simp [Gang.sreg, Gang.setS, Sparse.get_write]

theorem Gang.sreg_setS64 (g : Gang) (n m : Nat) (x : Dword) :
    (g.setS64 n x).sreg m = if n + 1 = m then x.extractLsb' 32 32 else if n = m then x.extractLsb' 0 32 else g.sreg m := by
  simp [Gang.setS64]

theorem Gang.vreg_setV_key (g : Gang) (n l m k : Nat) (x : Word) :
    (g.setV n l x).vreg m k = if n * 32 + l = m * 32 + k then x else g.vreg m k := by
  simp [Gang.vreg, Gang.setV, Sparse.get_write]

theorem Gang.vreg_setV (g : Gang) {n l m k : Nat} (x : Word) (hl : l < 32) (hk : k < 32) :
    (g.setV n l x).vreg m k = if n = m ∧ l = k then x else g.vreg m k := by
  rw [Gang.vreg_setV_key]
  congr 1
  exact propext ⟨fun h => by omega, fun h => by omega⟩

theorem Gang.pred_setP (g : Gang) {n l m k : Nat} (x : Bool) (hl : l < 32) (hk : k < 32) :
    (g.setP n l x).pred m k = if n = m ∧ n ≠ 0 ∧ l = k then x else g.pred m k := by
  unfold Gang.setP
  by_cases hn : n = 0
  · simp [hn]
  · simp only [hn, if_false, Gang.pred, Sparse.get_write]
    by_cases h : n * 32 + l = m * 32 + k
    · have h1 : n = m := by omega
      have h2 : l = k := by omega
      subst h1; subst h2; simp [hn]
    · have : ¬(n = m ∧ n ≠ 0 ∧ l = k) := by rintro ⟨a, -, b⟩; exact h (by omega)
      simp [h, this]

@[simp] theorem Gang.remOf_setRem (g : Gang) (l k : Nat) (x : List Rem) :
    (g.setRem l x).remOf k = if l = k then x else g.remOf k := by
  simp [Gang.remOf, Gang.setRem, Sparse.get_write]

@[simp] theorem Gang.vreg_setS (g : Gang) (n m l : Nat) (x : Word) : (g.setS n x).vreg m l = g.vreg m l := rfl
@[simp] theorem Gang.pred_setS (g : Gang) (n m l : Nat) (x : Word) : (g.setS n x).pred m l = g.pred m l := rfl
@[simp] theorem Gang.sreg_setV (g : Gang) (n m l : Nat) (x : Word) : (g.setV n l x).sreg m = g.sreg m := rfl
@[simp] theorem Gang.pred_setV (g : Gang) (n m l k : Nat) (x : Word) : (g.setV n l x).pred m k = g.pred m k := rfl
@[simp] theorem Gang.remOf_setV (g : Gang) (n l k : Nat) (x : Word) : (g.setV n l x).remOf k = g.remOf k := rfl
@[simp] theorem Gang.vreg_setRem (g : Gang) (n l k : Nat) (x : List Rem) : (g.setRem k x).vreg n l = g.vreg n l := rfl
@[simp] theorem Gang.sreg_advance (g : Gang) (js : List Nat) (n : Nat) : (g.advance js).sreg n = g.sreg n := rfl
@[simp] theorem Gang.vreg_advance (g : Gang) (js : List Nat) (n l : Nat) : (g.advance js).vreg n l = g.vreg n l := rfl
@[simp] theorem Gang.pred_advance (g : Gang) (js : List Nat) (n l : Nat) : (g.advance js).pred n l = g.pred n l := rfl
@[simp] theorem Gang.remOf_advance (g : Gang) (js : List Nat) (l : Nat) : (g.advance js).remOf l = g.remOf l := rfl
@[simp] theorem Gang.sreg_modSlices (g : Gang) (js : List Nat) (f : Slice → Slice) (n : Nat) :
    (g.modSlices js f).sreg n = g.sreg n := rfl
@[simp] theorem Gang.vreg_modSlices (g : Gang) (js : List Nat) (f : Slice → Slice) (n l : Nat) :
    (g.modSlices js f).vreg n l = g.vreg n l := rfl

@[simp] theorem Gang.pred_modSlices (g : Gang) (js : List Nat) (f : Slice → Slice) (n l : Nat) :
    (g.modSlices js f).pred n l = g.pred n l := rfl
@[simp] theorem Gang.remOf_modSlices (g : Gang) (js : List Nat) (f : Slice → Slice) (l : Nat) :
    (g.modSlices js f).remOf l = g.remOf l := rfl
@[simp] theorem Gang.fpst_modSlices (g : Gang) (js : List Nat) (f : Slice → Slice) : (g.modSlices js f).fpst = g.fpst := rfl
@[simp] theorem Gang.pend_modSlices (g : Gang) (js : List Nat) (f : Slice → Slice) : (g.modSlices js f).pend = g.pend := rfl
@[simp] theorem Gang.remOf_setS (g : Gang) (n l : Nat) (x : Word) : (g.setS n x).remOf l = g.remOf l := rfl
@[simp] theorem Gang.fpst_setS (g : Gang) (n : Nat) (x : Word) : (g.setS n x).fpst = g.fpst := rfl
@[simp] theorem Gang.pend_setS (g : Gang) (n : Nat) (x : Word) : (g.setS n x).pend = g.pend := rfl
@[simp] theorem Gang.fpst_setV (g : Gang) (n l : Nat) (x : Word) : (g.setV n l x).fpst = g.fpst := rfl
@[simp] theorem Gang.pend_setV (g : Gang) (n l : Nat) (x : Word) : (g.setV n l x).pend = g.pend := rfl
@[simp] theorem Gang.fpst_setRem (g : Gang) (l : Nat) (x : List Rem) : (g.setRem l x).fpst = g.fpst := rfl
@[simp] theorem Gang.pend_setRem (g : Gang) (l : Nat) (x : List Rem) : (g.setRem l x).pend = g.pend := rfl
@[simp] theorem Gang.sreg_setRem (g : Gang) (l n : Nat) (x : List Rem) : (g.setRem l x).sreg n = g.sreg n := rfl
@[simp] theorem Gang.pred_setRem (g : Gang) (l n k : Nat) (x : List Rem) : (g.setRem l x).pred n k = g.pred n k := rfl
@[simp] theorem Gang.fpst_advance (g : Gang) (js : List Nat) : (g.advance js).fpst = g.fpst := rfl
@[simp] theorem Gang.pend_advance (g : Gang) (js : List Nat) : (g.advance js).pend = g.pend := rfl
@[simp] theorem Gang.sreg_setP (g : Gang) (n l m : Nat) (x : Bool) : (g.setP n l x).sreg m = g.sreg m := by
  unfold Gang.setP; split <;> rfl
@[simp] theorem Gang.vreg_setP (g : Gang) (n l m k : Nat) (x : Bool) : (g.setP n l x).vreg m k = g.vreg m k := by
  unfold Gang.setP; split <;> rfl
@[simp] theorem Gang.remOf_setP (g : Gang) (n l k : Nat) (x : Bool) : (g.setP n l x).remOf k = g.remOf k := by
  unfold Gang.setP; split <;> rfl
@[simp] theorem Gang.fpst_setP (g : Gang) (n l : Nat) (x : Bool) : (g.setP n l x).fpst = g.fpst := by
  unfold Gang.setP; split <;> rfl
@[simp] theorem Gang.pend_setP (g : Gang) (n l : Nat) (x : Bool) : (g.setP n l x).pend = g.pend := by
  unfold Gang.setP; split <;> rfl

/-! ## What no register write touches -/

@[simp] theorem Gang.core_setS (g : Gang) (n : Nat) (x : Word) : (g.setS n x).core = g.core := rfl
@[simp] theorem Gang.core_setS64 (g : Gang) (n : Nat) (x : Dword) : (g.setS64 n x).core = g.core := by simp [Gang.setS64]
@[simp] theorem Gang.core_setV (g : Gang) (n l : Nat) (x : Word) : (g.setV n l x).core = g.core := rfl
@[simp] theorem Gang.core_setRem (g : Gang) (l : Nat) (x : List Rem) : (g.setRem l x).core = g.core := rfl
@[simp] theorem Gang.core_setP (g : Gang) (n l : Nat) (x : Bool) : (g.setP n l x).core = g.core := by
  unfold Gang.setP; split <;> rfl
@[simp] theorem Gang.core_mapSlices (g : Gang) (f : Nat → Slice → Slice) : (g.mapSlices f).core = g.core := rfl
@[simp] theorem Gang.core_modSlices (g : Gang) (js : List Nat) (f : Slice → Slice) : (g.modSlices js f).core = g.core := rfl
@[simp] theorem Gang.core_advance (g : Gang) (js : List Nat) : (g.advance js).core = g.core := rfl
@[simp] theorem Gang.core_waitAt (g : Gang) (js : List Nat) (w : Wait) : (g.waitAt js w).core = g.core := rfl
@[simp] theorem Gang.core_waitPhase (g : Gang) (js : List Nat) (n : Nat) (w : Wait) : (g.waitPhase js n w).core = g.core := rfl
@[simp] theorem Gang.core_open (g : Gang) (js : List Nat) (n : Nat) (ds : List Dest) (vs : List (Dest × Word)) (r : Bool)
    (l : Option LoadPart) : (g.open js n ds vs r l).core = g.core := rfl
@[simp] theorem Gang.core_modPend (g : Gang) (id : Nat) (f : Pend → Pend) : (g.modPend id f).core = g.core := rfl
@[simp] theorem Gang.core_countWindows (g : Gang) (js : List Nat) (id : Nat) : (g.countWindows js id).core = g.core := rfl
@[simp] theorem Gang.core_closeWindows (g : Gang) (js : List Nat) : (g.closeWindows js).core = g.core := rfl
@[simp] theorem Gang.core_fpst (g : Gang) (x : BitVec 6) : Gang.core { g with fpst := x } = g.core := rfl

/-! ## A window opened (R98) -/

@[simp] theorem Gang.sreg_open (g : Gang) (js : List Nat) (k : Nat) (ds : List Dest) (vs : List (Dest × Word)) (r : Bool)
    (l : Option LoadPart) (n : Nat) : (g.open js k ds vs r l).sreg n = g.sreg n := rfl
@[simp] theorem Gang.vreg_open (g : Gang) (js : List Nat) (k : Nat) (ds : List Dest) (vs : List (Dest × Word)) (r : Bool)
    (l : Option LoadPart) (n i : Nat) : (g.open js k ds vs r l).vreg n i = g.vreg n i := rfl
@[simp] theorem Gang.pred_open (g : Gang) (js : List Nat) (k : Nat) (ds : List Dest) (vs : List (Dest × Word)) (r : Bool)
    (l : Option LoadPart) (n i : Nat) : (g.open js k ds vs r l).pred n i = g.pred n i := rfl
@[simp] theorem Gang.remOf_open (g : Gang) (js : List Nat) (k : Nat) (ds : List Dest) (vs : List (Dest × Word)) (r : Bool)
    (l : Option LoadPart) (i : Nat) : (g.open js k ds vs r l).remOf i = g.remOf i := rfl
@[simp] theorem Gang.fpst_open (g : Gang) (js : List Nat) (k : Nat) (ds : List Dest) (vs : List (Dest × Word)) (r : Bool)
    (l : Option LoadPart) : (g.open js k ds vs r l).fpst = g.fpst := rfl
@[simp] theorem Gang.group_open (g : Gang) (js : List Nat) (k : Nat) (ds : List Dest) (vs : List (Dest × Word)) (r : Bool)
    (l : Option LoadPart) (j : Nat) : (g.open js k ds vs r l).group j = g.group j := rfl
@[simp] theorem Gang.slice_open (g : Gang) (js : List Nat) (k : Nat) (ds : List Dest) (vs : List (Dest × Word)) (r : Bool)
    (l : Option LoadPart) (j : Nat) : (g.open js k ds vs r l).slice j = g.slice j := rfl

/-- p0 reads true whatever has been written (R50). -/
@[simp] theorem Gang.pred_zero (g : Gang) (l : Nat) : g.pred 0 l = true := rfl

/-- A write to p0 is discarded (R50). -/
@[simp] theorem Gang.setP_zero (g : Gang) (l : Nat) (x : Bool) : g.setP 0 l x = g := rfl

end Sys2Proof.Machine
end

