-- ==== Sys2Proof/Laws/Memory.lean ====
section
/-!
SUPPORT. Memory keeps its canonical form: the one operation that applies writes keeps it, and every other shared operation leaves memory
and GTC as they stand (`Still`), up to a trap, the end of a gang and the closing of a banner's phase.
-/

namespace Sys2Proof.Machine

/-! ## The operations that change memory -/

/-- Bytes applied to a line keep the canonical form. -/
theorem Memory.wf_bytes (line : Nat) (bs : Sparse Byte) (m : Sparse Byte) (h : Memory.wf m = true) :
    Memory.wf (bs.foldl (fun m (b : Nat × Byte) => Sparse.write 0 m (line * 64 + b.1) b.2) m) = true :=
  Sparse.canon_foldl_write 0 (fun b : Nat × Byte => line * 64 + b.1) Prod.snd bs m h

/-- Writes applied one after another keep the canonical form. -/
theorem Memory.wf_writes (line : Nat) (ps : List (Nat × Sparse Byte)) (m : Sparse Byte) (h : Memory.wf m = true) :
    Memory.wf (ps.foldl (fun m (p : Nat × Sparse Byte) =>
      p.2.foldl (fun m (b : Nat × Byte) => Sparse.write 0 m (line * 64 + b.1) b.2) m) m) = true := by
  induction ps generalizing m with
  | nil => exact h
  | cons p ps ih => exact ih _ (Memory.wf_bytes line p.2 m h)

/-- A line put into an L2 is all that changes. -/
theorem State.putL2_eq (s : State) (line : Nat) (z : Bool) : ∃ x, s.putL2 line z = { s with l2 := x } := by
  unfold State.putL2
  split
  · exact ⟨s.l2, rfl⟩
  · exact ⟨_, rfl⟩

@[simp] theorem State.putL2_mem (s : State) (line : Nat) (z : Bool) : (s.putL2 line z).mem = s.mem := by
  obtain ⟨x, e⟩ := s.putL2_eq line z; rw [e]

@[simp] theorem State.putL2_gtc (s : State) (line : Nat) (z : Bool) : (s.putL2 line z).gtc = s.gtc := by
  obtain ⟨x, e⟩ := s.putL2_eq line z; rw [e]

@[simp] theorem State.markL2_mem (s : State) (line : Nat) (z : Bool) : (s.markL2 line z).mem = s.mem := by
  unfold State.markL2
  split
  · exact s.putL2_mem line z
  · rfl

/-- R181 step 3: memory takes the writes of a line whose W has come, in their order. -/
theorem State.applyLine_mem (s : State) (line : Nat) : (s.applyLine line).mem =
    ((s.home line).pending.filter fun p => decide (p.1 ≤ s.gtc)).foldl (fun m (p : Nat × Sparse Byte) =>
      p.2.foldl (fun m (b : Nat × Byte) => Sparse.write 0 m (line * 64 + b.1) b.2) m) s.mem := by
  unfold State.applyLine
  simp only [List.partition_eq_filter_filter, State.modHome_mem]
  split <;> simp

/-- R181 step 3: applying a line's writes keeps memory canonical. -/
theorem State.applyLine_memWf (s : State) (line : Nat) (h : s.memWf = true) : (s.applyLine line).memWf = true := by
  rw [State.memWf, State.applyLine_mem]
  exact Memory.wf_writes line _ s.mem h

/-- Memory at reset is canonical. -/
theorem State.reset_memWf : State.reset.memWf = true := rfl

/-- Placing a word keeps memory canonical. -/
theorem State.withFetchWord_memWf (s : State) (n w : Nat) (h : s.memWf = true) : (s.withFetchWord n w).memWf = true :=
  Sparse.canon_foldl_write 0 Prod.fst Prod.snd _ s.mem h

/-! ## Everything else leaves memory and GTC -/

/-- Memory and GTC stand as before. -/
structure Still (s t : State) : Prop where
  mem : t.mem = s.mem
  gtc : t.gtc = s.gtc

theorem Still.refl (s : State) : Still s s := ⟨rfl, rfl⟩

theorem Still.trans {s t u : State} (a : Still s t) (b : Still t u) : Still s u := ⟨b.mem.trans a.mem, b.gtc.trans a.gtc⟩

theorem Still.memWf {s t : State} (a : Still s t) (h : s.memWf = true) : t.memWf = true := by
  rw [State.memWf, a.mem]; exact h

/-- A list of changes none of which moves memory or GTC. -/
theorem Still.foldl {α : Type} (f : State → α → State) (hf : ∀ s x, Still s (f s x)) (xs : List α) (s : State) :
    Still s (xs.foldl f s) := by
  induction xs generalizing s with
  | nil => exact .refl s
  | cons x xs ih => exact (hf s x).trans (ih _)

/-- The same where a value is carried along. -/
theorem Still.foldl_fst {α β : Type} (f : State × β → α → State × β) (hf : ∀ r x, Still r.1 (f r x).1) (xs : List α) (r : State × β) :
    Still r.1 (xs.foldl f r).1 := by
  induction xs generalizing r with
  | nil => exact .refl r.1
  | cons x xs ih => exact (hf r x).trans (ih _)

theorem Still.ite {s t u : State} {p : Prop} [Decidable p] (a : Still s t) (b : Still s u) : Still s (if p then t else u) := by
  split
  · exact a
  · exact b

theorem State.still_setGang (s : State) (t n : Nat) (g : Gang) : Still s (s.setGang t n g) := ⟨rfl, rfl⟩
theorem State.still_modGang (s : State) (t n : Nat) (f : Gang → Gang) : Still s (s.modGang t n f) := ⟨rfl, rfl⟩
theorem State.still_dropGang (s : State) (t n : Nat) : Still s (s.dropGang t n) := ⟨rfl, rfl⟩
theorem State.still_modTile (s : State) (t : Nat) (f : Tile → Tile) : Still s (s.modTile t f) := ⟨rfl, rfl⟩
theorem State.still_modCluster (s : State) (c : Nat) (f : Cluster → Cluster) : Still s (s.modCluster c f) := ⟨rfl, rfl⟩
theorem State.still_modCtx (s : State) (n : Nat) (f : Ctx → Ctx) : Still s (s.modCtx n f) := ⟨rfl, rfl⟩
theorem State.still_modLaunch (s : State) (l : Nat) (f : Launch → Launch) : Still s (s.modLaunch l f) := ⟨rfl, rfl⟩
theorem State.still_modHome (s : State) (l : Nat) (f : Home → Home) : Still s (s.modHome l f) := ⟨rfl, rfl⟩
theorem State.still_put (s : State) (c : Cur) (g : Gang) : Still s (s.put c g) := ⟨rfl, rfl⟩
theorem State.still_finish (s : State) (c : Cur) (g : Gang) : Still s (s.finish c g) := ⟨rfl, rfl⟩
theorem State.still_wakeTile (s : State) (t : Nat) : Still s (s.wakeTile t) := ⟨rfl, rfl⟩
theorem State.still_wakeLine (s : State) (l : Nat) : Still s (s.wakeLine l) := ⟨rfl, rfl⟩
theorem State.still_fire (s : State) (l w : Nat) : Still s (s.fire l w) := ⟨rfl, rfl⟩
theorem State.still_putL2 (s : State) (l : Nat) (z : Bool) : Still s (s.putL2 l z) := ⟨s.putL2_mem l z, s.putL2_gtc l z⟩
theorem State.still_homeWrite (s : State) (l who : Nat) (b : Sparse Byte) (z : Bool) : Still s (s.homeWrite l who b z).1 :=
  have h := s.still_putL2 l (s.zeroLine l)
  ⟨h.mem, h.gtc⟩
theorem State.still_grantLease (s : State) (l who n : Nat) : Still s (s.grantLease l who n).1 :=
  have h := s.still_putL2 l (s.zeroLine l)
  ⟨h.mem, h.gtc⟩
theorem State.still_post (s : State) (n : Nat) (r : FaultRec) : Still s (s.post n r) := ⟨rfl, rfl⟩
theorem State.still_performAtomic (s : State) (who loc op : Nat) (x y : Word) : Still s (s.performAtomic who loc op x y).1 :=
  s.still_homeWrite _ who _ false

theorem State.still_modLaunchOf (s : State) (l : Option Nat) (f : Launch → Launch) : Still s (s.modLaunchOf l f) := by
  cases l
  · exact .refl s
  · exact s.still_modLaunch _ f

theorem State.still_storeHome (s : State) (who loc : Nat) (bs : List Byte) (z : Bool) : Still s (s.storeHome who loc bs z).1 :=
  Still.foldl_fst (fun (r : State × Nat) (l : Nat × Sparse Byte) =>
      ((r.1.homeWrite l.1 who l.2 z).1, max r.2 (r.1.homeWrite l.1 who l.2 z).2))
    (fun r l => r.1.still_homeWrite l.1 who l.2 z) (splitLines loc bs) (s, 0)

theorem State.still_storeAfter (s : State) (who loc : Nat) (bs : List Byte) (after : Nat) (z : Bool) :
    Still s (s.storeAfter who loc bs after z).1 :=
  (Still.foldl _ (fun s l => s.still_modHome l _) _ s).trans (State.still_storeHome _ who loc bs z)

theorem State.still_startDrain (s : State) (d : Drain) (ts : List Nat) (p : Nat → Held → Bool) : Still s (s.startDrain d ts p) :=
  have h := Still.foldl (fun (s : State) (t : Nat) => s.modTile t fun x => { x with det := x.det.filter fun h => !p t h })
    (fun s t => s.still_modTile t _) ts s
  ⟨h.mem, h.gtc⟩

theorem State.still_liftBanner (s : State) (l : Launch) (b : Nat) : Still s (s.liftBanner l b) :=
  Still.foldl _ (fun s t => by
    split
    · exact (s.still_wakeTile t).trans (State.still_modTile _ t _)
    · exact .refl s) _ s

theorem State.still_completePhase (s : State) (l b : Nat) : Still s (s.completePhase l b) := by
  unfold State.completePhase
  split
  · exact .refl s
  · exact ((s.still_modLaunch l _).trans (State.still_liftBanner _ _ b)).trans (Still.foldl _ State.still_wakeTile _ _)

theorem State.still_closePhase (s : State) (l b : Nat) : Still s (s.closePhase l b) := by
  unfold State.closePhase
  split
  · exact .refl s
  · split
    · exact .refl s
    · split
      · exact .refl s
      · exact Still.ite ((s.still_modLaunch l _).trans (State.still_startDrain _ _ _ _))
          (Still.ite (.refl s) (s.still_completePhase l b))

theorem State.still_closePhases (s : State) (l : Nat) : Still s (s.closePhases l) := by
  unfold State.closePhases
  split
  · exact .refl s
  · exact Still.foldl _ (fun s b => s.still_closePhase l b) _ s

theorem State.still_retireSlot (s : State) (t n : Nat) : Still s (s.retireSlot t n) := by
  unfold State.retireSlot
  split
  · exact .refl s
  · exact Still.ite ⟨rfl, rfl⟩ ⟨rfl, rfl⟩

/-- R31: the end of a gang moves neither memory nor GTC. -/
theorem State.still_endGang (s : State) (t n : Nat) : Still s (s.endGang t n) := by
  unfold State.endGang
  split
  · exact .refl s
  · split
    · exact .refl s
    · rename_i g _ _
      have h1 : Still s (match s.successor g with
          | some h => if h.fifo.isEmpty then s.modGang h.tile h.slot Gang.cutWaits else s
          | none => s) := by
        split
        · exact Still.ite (s.still_modGang _ _ _) (.refl s)
        · exact .refl s
      show Still s (match g.launch with
        | some l => State.closePhases _ l
        | none => if _ then State.retireSlot _ t n else _)
      generalize hu : State.modLaunchOf _ g.launch _ = u
      have h2 : Still s u := by
        rw [← hu]
        refine Still.trans ?_ (State.still_modLaunchOf _ _ _)
        exact ⟨h1.mem, h1.gtc⟩
      split
      · exact h2.trans (u.still_closePhases _)
      · exact Still.ite (h2.trans (u.still_retireSlot t n)) h2

/-- R121: so does the end of a grove. -/
theorem State.still_endGrove (s : State) (g : Gang) : Still s (s.endGrove g) :=
  Still.foldl _ (fun s i => by
    split
    · exact s.still_endGang _ _
    · exact .refl s) _ s

/-- R62: a kill by a trap in a handler. -/
theorem State.still_killFaulted (s : State) (g : Gang) (n : Nat) (r : FaultRec) : Still s (s.killFaulted g n r) := by
  unfold State.killFaulted
  have h := (s.still_endGrove g).trans (State.still_modLaunchOf _ g.launch fun l =>
    { l.abandon with faulted := true, cause := if l.faulted then l.cause else n })
  split
  · exact (h.trans (State.still_closePhases _ _)).trans (State.still_post _ _ _)
  · exact h.trans (State.still_post _ _ _)

/-- R61: a trap. -/
theorem State.still_trap (s : State) (c : Cur) (x : TrapInfo) : Still s (s.trap c x) := by
  unfold State.trap
  split
  · exact .refl s
  · split
    · exact s.still_killFaulted _ _ _
    · exact ⟨rfl, rfl⟩

/-- R38: a cancelled instruction moves neither memory nor GTC, and one that is not cancelled no more than its effect does. -/
theorem State.still_shadowed (s : State) (c : Cur) (g : Gang) (i : Instr) {t : State} (h : Still s t) : Still s (s.shadowed c g i t) := by
  unfold State.shadowed
  split
  · exact h
  · exact Still.ite (s.still_trap _ _) h

/-- An outcome that is a next state with memory and GTC as before. -/
def StillNext (s : State) (o : Out) : Prop := ∃ t, o = .next t ∧ Still s t

/-- An instruction whose effect moves neither memory nor GTC does not with its traps either. -/
theorem onGroupIf_still (i : Instr) (s : State) (pre : Cur → Gang → Option TrapInfo) (f : Cur → Gang → State)
    (hf : ∀ c g, Still s (f c g)) : StillNext s (onGroupIf i s pre f) := by
  unfold onGroupIf
  split
  · exact ⟨s, rfl, .refl s⟩
  · split
    · exact ⟨s, rfl, .refl s⟩
    · split
      · exact ⟨_, rfl, s.still_trap _ _⟩
      · split
        · exact ⟨_, rfl, s.still_trap _ _⟩
        · split
          · exact ⟨_, rfl, (s.still_setGang _ _ _).trans (State.still_trap _ _ _)⟩
          · exact ⟨_, rfl, s.still_shadowed _ _ _ (hf _ _)⟩

theorem onGroup_still (i : Instr) (s : State) (f : Cur → Gang → State) (hf : ∀ c g, Still s (f c g)) :
    StillNext s (onGroup i s f) := onGroupIf_still i s noCheck f hf

/-- An event on a gang in a slot. -/
theorem onGang_still (s : State) (t n : Nat) (f : Gang → State) (hf : ∀ g, Still s (f g)) : StillNext s (onGang s t n f) := by
  unfold onGang
  split
  · exact ⟨s, rfl, .refl s⟩
  · exact ⟨_, rfl, hf _⟩

/-! ## Lines of an access, each once -/

theorem distinct_foldl (xs r : List Nat) (h : r.Nodup) :
    (xs.foldl (fun r x => if r.contains x then r else r ++ [x]) r).Nodup ∧
      ∀ y, y ∈ xs.foldl (fun r x => if r.contains x then r else r ++ [x]) r ↔ y ∈ r ∨ y ∈ xs := by
  induction xs generalizing r with
  | nil => simp [h]
  | cons x xs ih =>
    rw [List.foldl_cons]
    split
    · rename_i hx
      refine ⟨(ih r h).1, fun y => (ih r h).2 y |>.trans ⟨fun a => a.imp_right (List.mem_cons_of_mem x), ?_⟩⟩
      rintro (a | a)
      · exact .inl a
      · rcases List.mem_cons.1 a with rfl | a
        · exact .inl (List.contains_iff_mem.1 hx)
        · exact .inr a
    · rename_i hx
      have hn : (r ++ [x]).Nodup := List.nodup_append.2 ⟨h, by simp, by rintro a ha b hb rfl; simp_all⟩
      exact ⟨(ih _ hn).1, fun y => (ih _ hn).2 y |>.trans (by simp [or_assoc])⟩

theorem distinct_nodup (xs : List Nat) : (distinct xs).Nodup := (distinct_foldl xs [] List.nodup_nil).1

@[simp] theorem mem_distinct (xs : List Nat) (y : Nat) : y ∈ distinct xs ↔ y ∈ xs :=
  ((distinct_foldl xs [] List.nodup_nil).2 y).trans (by simp)

/-- Numbers that lie in a range, each listed once, are no more than it. -/
theorem nodup_length_le (n : Nat) : ∀ (xs : List Nat) (a : Nat), xs.Nodup → (∀ x, x ∈ xs → a ≤ x ∧ x < a + n) → xs.length ≤ n := by
  induction n with
  | zero =>
    intro xs a _ h
    cases xs with
    | nil => simp
    | cons x xs => have := h x (List.mem_cons_self ..); omega
  | succ n ih =>
    intro xs a hn h
    have hl : (xs.erase (a + n)).length ≤ n := ih _ a (hn.erase _) fun x hx => by
      have hm := (List.Nodup.mem_erase_iff hn).1 hx
      have := h x hm.2
      have := hm.1
      omega
    have := List.le_length_erase (a := a + n) (l := xs)
    omega

/-- Lines that all lie in a range are no more than it. -/
theorem distinct_length_le (xs : List Nat) (a n : Nat) (h : ∀ x, x ∈ xs → a ≤ x ∧ x < a + n) : (distinct xs).length ≤ n :=
  nodup_length_le n _ a (distinct_nodup xs) fun x hx => h x ((mem_distinct xs x).1 hx)

end Sys2Proof.Machine
end

