-- ==== Sys2Proof/Laws/Ops.lean ====
section
/-!
SUPPORT. What each shared operation of an instruction answers: the checks at issue, the scalar operation, the lane operation, the
long-latency and cross-lane operations.
-/

namespace Sys2Proof.Machine

/-- Only the executing gang's slot is written. -/
theorem OnlyGang.setGang (s : State) (c : Cur) (h : Gang) : OnlyGang s (s.setGang c.tile c.slot h) c h where
  gang := State.gang?_setGang_same ..
  others := fun _ _ hn => by rw [State.gang?_setGang, if_neg (Ne.symm hn)]
  rest := rfl
  bytes := fun _ _ => rfl

theorem OnlyGang.put (s : State) (c : Cur) (h : Gang) : OnlyGang s (s.put c h) c h := OnlyGang.setGang s c h

theorem OnlyGang.finish (s : State) (c : Cur) (h : Gang) : OnlyGang s (s.finish c h) c (h.advance (h.group c.slice)) :=
  OnlyGang.setGang s c _

theorem Gang.regsOk_of_starts {s : State} {c : Cur} {g : Gang} {i : Instr} (h : Starts s c g i) : g.regsOk i = true := by
  simp only [Gang.regsOk, Bool.and_eq_true, List.all_eq_true, decide_eq_true_eq]
  exact ⟨h.vregs, h.sregs⟩

theorem Gang.engineFault_of_starts {s : State} {c : Cur} {g : Gang} {i : Instr} (h : Starts s c g i) :
    g.engineFault? c i = none := by
  have h1 : (Instr.regs i).rs.find? g.markS.contains = none := by
    simp only [List.find?_eq_none, List.contains_iff_mem]
    exact h.cleanS
  have h2 : (Instr.regs i).rv.find? (fun n => (g.active (g.group c.slice)).any fun l => g.markV.contains (n * 32 + l)) = none := by
    simp only [List.find?_eq_none, List.any_eq_true, List.contains_iff_mem, not_exists, not_and]
    exact h.cleanV
  simp only [Gang.engineFault?, h1, h2]

/-- R38: without a differing shadow an instruction is not cancelled. -/
theorem State.shadowed_agree {s : State} (h : s.upset = 0) (c : Cur) (g : Gang) (i : Instr) (t : State) : s.shadowed c g i t = t := by
  simp [State.shadowed, State.mismatch?, h]

/-- A group that starts an instruction whose own check passes has the instruction's effect. -/
theorem onGroupIf_starts {s : State} {c : Cur} {g : Gang} {i : Instr} (h : Starts s c g i)
    (pre : Cur → Gang → Option TrapInfo) (f : Cur → Gang → State) (hp : pre c g = none) :
    onGroupIf i s pre f = .next (f c g) := by
  simp only [onGroupIf, h.cur, h.gang, Gang.regsOk_of_starts h, hp, Gang.engineFault_of_starts h, Bool.not_true,
    Bool.false_eq_true, if_false, State.shadowed_agree h.agree]

theorem onGroup_starts {s : State} {c : Cur} {g : Gang} {i : Instr} (h : Starts s c g i) (f : Cur → Gang → State) :
    onGroup i s f = .next (f c g) := onGroupIf_starts h noCheck f rfl

/-- Every instruction of a group answers a next state. -/
theorem onGroupIf_next (i : Instr) (s : State) (pre : Cur → Gang → Option TrapInfo) (f : Cur → Gang → State) :
    ∃ t, onGroupIf i s pre f = .next t := by
  unfold onGroupIf
  repeat' split
  all_goals exact ⟨_, rfl⟩

/-- R96: a register that the gang lacks traps as an illegal instruction. -/
theorem onGroupIf_illegal {s : State} {c : Cur} {g : Gang} {i : Instr} (hc : s.cur = some c)
    (hg : s.gang? c.tile c.slot = some g) (hr : g.regsOk i = false) (pre : Cur → Gang → Option TrapInfo) (f : Cur → Gang → State) :
    onGroupIf i s pre f = .next (s.trap c (g.illegal c i)) := by
  simp [onGroupIf, hc, hg, hr]

/-- The check of an instruction traps before its operands are read. -/
theorem onGroupIf_pre {s : State} {c : Cur} {g : Gang} {i : Instr} {t : TrapInfo} (hc : s.cur = some c)
    (hg : s.gang? c.tile c.slot = some g) (hr : g.regsOk i = true) (pre : Cur → Gang → Option TrapInfo) (f : Cur → Gang → State)
    (hp : pre c g = some t) : onGroupIf i s pre f = .next (s.trap c t) := by
  simp [onGroupIf, hc, hg, hr, hp]

/-! ## The scalar operation -/

/-- The group past an instruction whose effect keeps the slices as they were. -/
theorem Past.finish {g k : Gang} {c : Cur} (e : k.slices = g.slices) : Past g (k.advance (k.group c.slice)) c := by
  intro j
  rw [Gang.slice_advance, Gang.group_congr e]
  simp only [Gang.slice, e]

/-- What a scalar operation leaves: its result, its flags, the group past it, all else of the gang as before. -/
theorem scalarOp_starts {s : State} {c : Cur} {g : Gang} {i : Instr} (h : Starts s c g i) (d : Option Nat)
    (f : Gang → Flags → Word × Flags) :
    ∃ t h, scalarOp i d s f = .next t ∧ OnlyGang s t c h ∧ PastWith g h c (fun fl => (f g fl).2) ∧
      Left g h (match d with | some d => g.sregWith d (f g (g.slice c.slice).fl).1 | none => g.sreg) g.vreg g.pred g.remOf g.fpst
        g.pend := by
  let F : Slice → Slice := fun x => { x with fl := (f g x.fl).2 }
  cases d with
  | none =>
    let k := g.modSlices (g.group c.slice) F
    refine ⟨s.finish c k, k.advance (k.group c.slice), onGroup_starts h _, OnlyGang.finish .., fun j => ?_, ?_⟩
    · exact (Gang.slice_advance_mod g c.slice F (fun _ => rfl) (fun _ => rfl) j).trans (by simp only [F, Slice.advance_fl])
    · constructor <;> intros <;> simp [k]
  | some d =>
    generalize hr : (f g (g.slice c.slice).fl).1 = r
    let k := (g.setS d r).modSlices (g.group c.slice) F
    have e : scalarOp i (some d) s f = .next (s.finish c k) := by
      unfold scalarOp
      rw [onGroup_starts h]
      simp only [hr]
      rfl
    refine ⟨s.finish c k, k.advance (k.group c.slice), e, OnlyGang.finish .., fun j => ?_, ?_⟩
    · exact (Gang.slice_advance_mod (g.setS d r) c.slice F (fun _ => rfl) (fun _ => rfl) j).trans
        (by simp only [F, Slice.advance_fl, Gang.group_setS, Gang.slice_setS])
    · constructor <;> intros <;> simp [k, Gang.sregWith, eq_comm]

/-! ## Lane operations -/

/-- R24: each lane executes once. -/
theorem Gang.nodup_active (g : Gang) (i : Nat) : (g.active (g.group i)).Nodup := by
  have h8 : (g.group i).Pairwise (· < ·) := (List.pairwise_lt_range.filter _).filter _
  unfold Gang.active
  apply List.Pairwise.filter
  rw [List.pairwise_flatMap]
  constructor
  · intro j _
    simp [lanesOf]
  · refine h8.imp ?_
    intro j k hjk a ha b hb
    simp only [lanesOf, List.mem_cons, List.not_mem_nil, or_false] at ha hb
    omega

theorem lanesTrap?_none {xs : List (Nat × Nat × Dword)} : lanesTrap? xs = none ↔ xs = [] := by
  cases xs <;> simp [lanesTrap?]

/-- R35: no lane faults, so the instruction does not trap. -/
theorem resTrap?_none {m : Word} {rs : List (Nat × LaneRes)} (h : ∀ r, r ∈ rs → laneFault? m r.2 = none) : resTrap? m rs = none := by
  unfold resTrap?
  rw [lanesTrap?_none, List.filterMap_eq_nil_iff]
  intro r hr
  simp [h r hr]

/-- A result without flags and without an entry never traps. -/
@[simp] theorem laneFault?_word (m w : Word) : laneFault? m (.word w) = none := by simp [laneFault?, LaneRes.word, enabledFlags]

theorem Gang.writeLane_reads (g : Gang) (d : Nat) (r : Nat × LaneRes) (hr : r.1 < 32) :
    (∀ n l, l < 32 → (g.writeLane d r).vreg n l = if n = d ∧ l = r.1 then r.2.val else g.vreg n l) ∧
    (∀ l, (g.writeLane d r).remOf l =
      if l = r.1 then (match r.2.push with | some p => p.entry :: g.remOf l | none => g.remOf l) else g.remOf l) ∧
    (∀ n, (g.writeLane d r).sreg n = g.sreg n) ∧ (∀ n l, (g.writeLane d r).pred n l = g.pred n l) ∧
    (g.writeLane d r).fpst = g.fpst ∧ (g.writeLane d r).pend = g.pend ∧ (g.writeLane d r).core = g.core ∧
    (g.writeLane d r).slices = g.slices := by
  unfold Gang.writeLane
  cases hp : r.2.push with
  | none =>
    refine ⟨fun n l hl => ?_, fun l => by simp, fun n => rfl, fun n l => rfl, rfl, rfl, rfl, rfl⟩
    simp only [Gang.vreg_setV g r.2.val hr hl, eq_comm]
  | some p =>
    refine ⟨fun n l hl => ?_, fun l => ?_, fun n => rfl, fun n l => rfl, rfl, rfl, rfl, rfl⟩
    · simp only [Gang.vreg_setRem, Gang.vreg_setV g r.2.val hr hl, eq_comm]
    · simp only [Gang.remOf_setRem, Gang.remOf_setV]
      by_cases h : r.1 = l
      · subst h; simp
      · simp [h, Ne.symm h]

/-- The results of lanes written one after another. -/
theorem Gang.foldl_writeLane (d : Nat) (f : Nat → LaneRes) (ls : List Nat) (hl : ∀ i, i ∈ ls → i < 32) (hn : ls.Nodup) (g : Gang) :
    (∀ n l, l < 32 → ((ls.map fun i => (i, f i)).foldl (fun g r => g.writeLane d r) g).vreg n l =
      g.vregWith ls d (fun i => (f i).val) n l) ∧
    (∀ l, ((ls.map fun i => (i, f i)).foldl (fun g r => g.writeLane d r) g).remOf l =
      if l ∈ ls then (match (f l).push with | some p => p.entry :: g.remOf l | none => g.remOf l) else g.remOf l) ∧
    (∀ n, ((ls.map fun i => (i, f i)).foldl (fun g r => g.writeLane d r) g).sreg n = g.sreg n) ∧
    (∀ n l, ((ls.map fun i => (i, f i)).foldl (fun g r => g.writeLane d r) g).pred n l = g.pred n l) ∧
    ((ls.map fun i => (i, f i)).foldl (fun g r => g.writeLane d r) g).fpst = g.fpst ∧
    ((ls.map fun i => (i, f i)).foldl (fun g r => g.writeLane d r) g).pend = g.pend ∧
    ((ls.map fun i => (i, f i)).foldl (fun g r => g.writeLane d r) g).core = g.core ∧
    ((ls.map fun i => (i, f i)).foldl (fun g r => g.writeLane d r) g).slices = g.slices := by
  induction ls generalizing g with
  | nil => simp [Gang.vregWith]
  | cons a ls ih =>
    have ⟨hv, hr, hs, hp, hf, hd, hc, hsl⟩ := g.writeLane_reads d (a, f a) (hl a (by simp))
    have hna := (List.nodup_cons.mp hn).1
    have ⟨iv, ir, is, ip, if_, id_, ic, isl⟩ := ih (fun i hi => hl i (by simp [hi])) (List.nodup_cons.mp hn).2 (g.writeLane d (a, f a))
    simp only [List.map_cons, List.foldl_cons]
    refine ⟨fun n l h => ?_, fun l => ?_, fun n => by rw [is, hs], fun n l => by rw [ip, hp], by rw [if_, hf], by rw [id_, hd],
      by rw [ic, hc], by rw [isl, hsl]⟩
    · rw [iv n l h]
      simp only [Gang.vregWith, List.mem_cons, hv n l h]
      by_cases h1 : n = d <;> by_cases h2 : l = a <;> by_cases h3 : l ∈ ls <;> simp_all
    · rw [ir l, hr l]
      by_cases h2 : l = a
      · subst h2; simp [hna]
      · simp [h2]

/-- R33: the lanes of a group write their results together. -/
theorem Gang.writeLanes_left (g : Gang) (d : Nat) (f : Nat → LaneRes) (ls : List Nat) (hl : ∀ i, i ∈ ls → i < 32) (hn : ls.Nodup) :
    Left g (g.writeLanes d (ls.map fun i => (i, f i))) g.sreg (g.vregWith ls d fun i => (f i).val) g.pred
      (fun l => if l ∈ ls then (match (f l).push with | some p => p.entry :: g.remOf l | none => g.remOf l) else g.remOf l)
      (g.fpst ||| joinFlags (ls.map fun i => (i, (f i).fl))) g.pend ∧
    (g.writeLanes d (ls.map fun i => (i, f i))).slices = g.slices := by
  have ⟨iv, ir, is, ip, if_, id_, ic, isl⟩ := Gang.foldl_writeLane d f ls hl hn g
  refine ⟨⟨is, iv, fun n l _ => ip n l, ir, ?_, id_, ?_⟩, isl⟩
  · show ((ls.map fun i => (i, f i)).foldl (fun g r => g.writeLane d r) g).fpst ||| _ = _
    rw [if_]
    simp [flagsOf, Function.comp_def]
  · exact (Gang.core_fpst _ _).trans ic

/-- What passes an instruction leaves the registers. -/
theorem Left.advance {g h : Gang} {sr : Nat → Word} {vr : Nat → Nat → Word} {pr : Nat → Nat → Bool} {rm : Nat → List Rem}
    {fp : BitVec 6} {pd : List Pend} (l : Left g h sr vr pr rm fp pd) (js : List Nat) : Left g (h.advance js) sr vr pr rm fp pd :=
  ⟨l.sreg, l.vreg, l.pred, l.rem, l.fpst, l.pend, (Gang.core_advance h js).trans l.core⟩

/-- R24, R33: an unlinked lane operation whose lanes raise no enabled exception. -/
theorem laneOp_unlinked {s : State} {c : Cur} {g : Gang} {i : Instr} (h : Starts s c g i) (d a : Nat) (b : OpB)
    (f : Gang → Word → Nat → Word → Word → Word → LaneRes) (pre : Cur → Gang → Option TrapInfo) (hp : pre c g = none)
    (r : Nat → LaneRes) (hr : r = fun l => f g (g.slice c.slice).mode l (g.vreg a l) (g.opB b l) (g.vreg d l))
    (hok : ∀ l, l ∈ lanes g c → laneFault? (g.slice c.slice).mode (r l) = none) :
    ∃ t h, laneOp i d a b 0 s f pre = .next t ∧ OnlyGang s t c h ∧ Past g h c ∧
      Left g h g.sreg (g.vregWith (lanes g c) d fun l => (r l).val) g.pred
        (fun l => if l ∈ lanes g c then (match (r l).push with | some p => p.entry :: g.remOf l | none => g.remOf l) else g.remOf l)
        (g.fpst ||| joinFlags ((lanes g c).map fun l => (l, (r l).fl))) g.pend := by
  subst hr
  have hl : ∀ i, i ∈ lanes g c → i < 32 := fun i hi => Gang.lt_of_mem_active hi
  have ⟨w, ws⟩ := g.writeLanes_left d (fun l => f g (g.slice c.slice).mode l (g.vreg a l) (g.opB b l) (g.vreg d l)) (lanes g c) hl
    (g.nodup_active c.slice)
  have e : laneOp i d a b 0 s f pre = .next (s.finish c (g.writeLanes d ((lanes g c).map fun l =>
      (l, f g (g.slice c.slice).mode l (g.vreg a l) (g.opB b l) (g.vreg d l))))) := by
    unfold laneOp
    rw [onGroupIf_starts h pre _ hp]
    simp only [State.runLanes, if_true, State.commitLanes]
    rw [resTrap?_none]
    intro r hr
    obtain ⟨l, hl, rfl⟩ := List.mem_map.mp hr
    exact hok l hl
  exact ⟨_, _, e, OnlyGang.finish .., Past.finish ws, w.advance _⟩

/-- R130: an unlinked lane operation that raises no flag and pushes no entry. -/
theorem laneOp_word {s : State} {c : Cur} {g : Gang} {i : Instr} (h : Starts s c g i) (d a : Nat) (b : OpB)
    (f : Gang → Word → Nat → Word → Word → Word → Word) :
    ∃ t h, laneOp i d a b 0 s (fun g m l x y z => .word (f g m l x y z)) = .next t ∧ OnlyGang s t c h ∧ Past g h c ∧
      Left g h g.sreg (g.vregWith (lanes g c) d fun l => f g (g.slice c.slice).mode l (g.vreg a l) (g.opB b l) (g.vreg d l)) g.pred
        g.remOf g.fpst g.pend := by
  obtain ⟨t, k, e, o, p, w⟩ := laneOp_unlinked h d a b (fun g m l x y z => .word (f g m l x y z)) noCheck rfl _ rfl
    (fun l _ => laneFault?_word _ _)
  refine ⟨t, k, e, o, p, ⟨w.sreg, w.vreg, w.pred, fun l => (w.rem l).trans (by simp [LaneRes.word]), w.fpst.trans ?_, w.pend, w.core⟩⟩
  have : ∀ (ls : List Nat) (a : Num.Flags), (ls.map fun l => (l, (0 : Num.Flags))).foldl (fun a (x : Nat × Num.Flags) => a ||| x.2) a = a := by
    intro ls; induction ls with
    | nil => intro a; rfl
    | cons x xs ih => intro a; rw [List.map_cons, List.foldl_cons]; simpa using ih a
  simp only [LaneRes.word, joinFlags, this]
  simp

/-- The lanes' results written to predicates. -/
theorem Gang.foldl_setP (d : Nat) (f : Nat → Bool × Num.Flags) (ls : List Nat) (hl : ∀ i, i ∈ ls → i < 32) (g : Gang) :
    let h := (ls.map fun i => (i, f i)).foldl (fun g (r : Nat × Bool × Num.Flags) => g.setP d r.1 r.2.1) g
    (∀ n l, l < 32 → h.pred n l = if n = d ∧ d ≠ 0 ∧ l ∈ ls then (f l).1 else g.pred n l) ∧
    (∀ n, h.sreg n = g.sreg n) ∧ (∀ n l, h.vreg n l = g.vreg n l) ∧ (∀ l, h.remOf l = g.remOf l) ∧ h.fpst = g.fpst ∧
    h.pend = g.pend ∧ h.core = g.core ∧ h.slices = g.slices := by
  induction ls generalizing g with
  | nil => simp
  | cons a ls ih =>
    have ha : a < 32 := hl a (by simp)
    have ⟨ip, is, iv, ir, if_, id_, ic, isl⟩ := ih (fun i hi => hl i (by simp [hi])) (g.setP d a (f a).1)
    simp only [List.map_cons, List.foldl_cons]
    refine ⟨fun n l h => ?_, fun n => by rw [is]; simp, fun n l => by rw [iv]; simp, fun l => by rw [ir]; simp,
      by rw [if_]; simp, by rw [id_]; simp, by rw [ic]; simp, by rw [isl]; simp⟩
    rw [ip n l h, Gang.pred_setP g _ ha h]
    by_cases h2 : a = l
    · subst h2
      by_cases h1 : d = n
      · subst h1; by_cases h0 : d = 0 <;> simp [h0]
      · simp [h1, Ne.symm h1]
    · simp [h2, Ne.symm h2]

/-- R137, R144: a compare whose lanes raise no enabled exception. -/
theorem predOp_starts {s : State} {c : Cur} {g : Gang} {i : Instr} (h : Starts s c g i) (d a b : Nat)
    (f : Word → Word → Word → Bool × Num.Flags) (r : Nat → Bool × Num.Flags)
    (hr : r = fun l => f (g.slice c.slice).mode (g.vreg a l) (g.vreg b l))
    (hok : ∀ l, l ∈ lanes g c → enabledFlags (g.slice c.slice).mode (r l).2 = 0) :
    ∃ t h, predOp i d a b s f = .next t ∧ OnlyGang s t c h ∧ Past g h c ∧
      Left g h g.sreg g.vreg (fun n l => if n = d ∧ d ≠ 0 ∧ l ∈ lanes g c then (r l).1 else g.pred n l) g.remOf
        (g.fpst ||| joinFlags ((lanes g c).map fun l => (l, (r l).2))) g.pend := by
  subst hr
  have hl : ∀ i, i ∈ lanes g c → i < 32 := fun i hi => Gang.lt_of_mem_active hi
  have w := Gang.foldl_setP d (fun l => f (g.slice c.slice).mode (g.vreg a l) (g.vreg b l)) (lanes g c) hl g
  generalize hk : ((lanes g c).map fun i => (i, f (g.slice c.slice).mode (g.vreg a i) (g.vreg b i))).foldl
    (fun g (r : Nat × Bool × Num.Flags) => g.setP d r.1 r.2.1) g = k at w
  obtain ⟨ip, is, iv, ir, if_, id_, ic, isl⟩ := w
  let fl := joinFlags ((lanes g c).map fun l => (l, (f (g.slice c.slice).mode (g.vreg a l) (g.vreg b l)).2))
  let k' : Gang := { k with fpst := k.fpst ||| fl }
  have e : predOp i d a b s f = .next (s.finish c k') := by
    unfold predOp
    rw [onGroup_starts h]
    have hn : fpTrap? (g.slice c.slice).mode
        (((lanes g c).map fun i => (i, f (g.slice c.slice).mode (g.vreg a i) (g.vreg b i))).map fun r => (r.1, r.2.2)) = none := by
      unfold fpTrap?
      rw [lanesTrap?_none, List.map_eq_nil_iff, List.filter_eq_nil_iff]
      intro x hx
      simp only [List.mem_map] at hx
      obtain ⟨y, ⟨l, hl, rfl⟩, rfl⟩ := hx
      simp [hok l hl]
    simp only at hn ⊢
    rw [hn]
    simp only [hk, List.map_map, Function.comp_def]
    rfl
  have w : Left g k' g.sreg g.vreg (fun n l => if n = d ∧ d ≠ 0 ∧ l ∈ lanes g c then
      (f (g.slice c.slice).mode (g.vreg a l) (g.vreg b l)).1 else g.pred n l) g.remOf (g.fpst ||| fl) g.pend :=
    ⟨is, fun n l _ => iv n l, fun n l h => ip n l h, ir, by show k.fpst ||| fl = _; rw [if_], id_, (Gang.core_fpst _ _).trans ic⟩
  exact ⟨_, _, e, OnlyGang.finish .., Past.finish isl, w.advance _⟩

/-! ## Long-latency operations (R98, R99, R150) -/

/-- What an instruction that opens a window leaves: the registers as they were, one result more awaited. -/
theorem finish_open (s : State) (c : Cur) (g k : Gang) (n : Nat) (ds : List Dest) (vs : List (Dest × Word)) (l : Option LoadPart)
    (hs : k.slices = g.slices) (hi : k.nextId = g.nextId) (hd : ds ≠ [])
    {sr : Nat → Word} {vr : Nat → Nat → Word} {pr : Nat → Nat → Bool} {rm : Nat → List Rem} {fp : BitVec 6}
    (w : Left g k sr vr pr rm fp g.pend) :
    ∃ h p, OnlyGang s (s.finish c (k.open (g.group c.slice) n ds vs false l)) c h ∧ Past g h c ∧ Opened g c n p ds vs l ∧
      Left g h sr vr pr rm fp (g.pend ++ [p]) := by
  let p : Pend :=
    { id := k.nextId, slices := g.group c.slice, dests := ds, vals := vs, returned := false, load := l
      left := (List.range 8).map fun j => if (g.group c.slice).contains j then n else 0
      ended := List.replicate 8 k.nextId }
  have w' : Left g (k.open (g.group c.slice) n ds vs false l) sr vr pr rm fp (g.pend ++ [p]) := by
    refine ⟨w.sreg, w.vreg, w.pred, w.rem, w.fpst, ?_, (Gang.core_open ..).trans w.core⟩
    show (if ds.isEmpty then k.pend else k.pend ++ [p]) = _
    rw [w.pend]
    cases ds with
    | nil => exact absurd rfl hd
    | cons => rfl
  refine ⟨_, p, OnlyGang.finish .., Past.finish hs, ⟨hi, rfl, fun j hj => ?_, rfl, rfl, rfl, rfl, rfl, rfl, rfl⟩, w'.advance _⟩
  simp [p, List.getD_eq_getElem?_getD, hj]

/-- A gang as it stands. -/
theorem Left.refl (g : Gang) : Left g g g.sreg g.vreg g.pred g.remOf g.fpst g.pend :=
  ⟨fun _ => rfl, fun _ _ _ => rfl, fun _ _ _ => rfl, fun _ => rfl, rfl, rfl, rfl⟩

/-- R150: a cross-lane instruction that writes something opens one window. -/
theorem crossOp_starts {s : State} {c : Cur} {g : Gang} {i : Instr} (h : Starts s c g i) (n : BitVec 4)
    (f : Gang → Word → List Nat → List (Dest × Word)) (hne : f g (g.slice c.slice).mode (lanes g c) ≠ []) :
    ∃ t h p, crossOp i n s f = .next t ∧ OnlyGang s t c h ∧ Past g h c ∧
      Opened g c n.toNat p ((f g (g.slice c.slice).mode (lanes g c)).map Prod.fst) (f g (g.slice c.slice).mode (lanes g c)) none ∧
      Left g h g.sreg g.vreg g.pred g.remOf g.fpst (g.pend ++ [p]) := by
  have ⟨k, p, o, q, r, w⟩ := finish_open s c g g n.toNat ((f g (g.slice c.slice).mode (lanes g c)).map Prod.fst)
    (f g (g.slice c.slice).mode (lanes g c)) none rfl rfl (by simpa using hne) (Left.refl g)
  exact ⟨_, k, p, onGroup_starts h _, o, q, r, w⟩

end Sys2Proof.Machine
end

