-- ==== Sys2Proof/Laws/Trap.lean ====
section
/-!
SUPPORT. Taking a trap (R61): what the one shared operation leaves of the gang and of the state.
-/

namespace Sys2Proof.Machine

/-- A mask holds exactly its lanes. -/
theorem getLsbD_maskOf (ls : List Nat) (k : Nat) (hk : k < 32) : (maskOf ls).getLsbD k = decide (k ∈ ls) := by
  have h : ∀ (ls : List Nat) (m : Word), (ls.foldl (fun (m : Word) i => m ||| (1 <<< i)) m).getLsbD k = (m.getLsbD k || decide (k ∈ ls)) := by
    intro ls
    induction ls with
    | nil => simp
    | cons a ls ih =>
      intro m
      have e : (((1 <<< a : Nat) : Word)).getLsbD k = decide (k = a) := by
        show (BitVec.ofNat 32 (1 <<< a)).getLsbD k = _
        rw [BitVec.getLsbD_ofNat, Nat.one_shiftLeft, Nat.testBit_two_pow]
        simp [hk, eq_comm]
      rw [List.foldl_cons, ih, BitVec.getLsbD_or, e]
      by_cases h : k = a <;> simp [h]
  simpa [maskOf] using h ls 0

theorem Settled.refl (g : Gang) : Settled g g where
  slices := rfl
  sreg := fun _ _ => rfl
  vreg := fun _ _ _ _ => rfl
  pred := fun _ _ => rfl
  rem := fun _ => rfl
  fpst := rfl
  trap := rfl
  slgrp := rfl
  adv := fun _ => rfl
  core := rfl
  pend := fun q h => ⟨q, h, fun _ h => h⟩

theorem Settled.trans {g h k : Gang} (a : Settled g h) (b : Settled h k) : Settled g k where
  slices := b.slices.trans a.slices
  sreg := fun n hn => (b.sreg n fun q hq hd => by
    obtain ⟨p, hp, hs⟩ := a.pend q hq
    exact hn p hp (hs _ hd)).trans (a.sreg n hn)
  vreg := fun n l hl hn => (b.vreg n l hl fun q hq hd => by
    obtain ⟨p, hp, hs⟩ := a.pend q hq
    exact hn p hp (hs _ hd)).trans (a.vreg n l hl hn)
  pred := fun n l => (b.pred n l).trans (a.pred n l)
  rem := fun l => (b.rem l).trans (a.rem l)
  fpst := b.fpst.trans a.fpst
  trap := b.trap.trans a.trap
  slgrp := b.slgrp.trans a.slgrp
  adv := fun hn => (b.adv fun q hq hd => by
    obtain ⟨p, hp, hs⟩ := a.pend q hq
    exact hn p hp (hs _ hd)).trans (a.adv hn)
  core := by rw [← a.core, ← b.core]
  pend := fun q hq => by
    obtain ⟨r, hr, h1⟩ := b.pend q hq
    obtain ⟨p, hp, h2⟩ := a.pend r hr
    exact ⟨p, hp, fun d hd => h2 d (h1 d hd)⟩

/-- A write to one destination. -/
theorem Gang.settled_write (g : Gang) (d : Dest) (x : Word) (hd : ∃ p, p ∈ g.pend ∧ d ∈ p.dests) : Settled g (g.write d x) := by
  obtain ⟨p, hp, hm⟩ := hd
  cases d with
  | vreg key =>
    refine ⟨rfl, fun _ _ => rfl, fun n l hl hn => ?_, fun _ _ => rfl, fun _ => rfl, rfl, rfl, rfl, fun _ => rfl, rfl,
      fun q h => ⟨q, h, fun _ h => h⟩⟩
    show (g.setV (key / 32) (key % 32) x).vreg n l = _
    rw [Gang.vreg_setV g x (Nat.mod_lt _ (by decide)) hl, if_neg]
    rintro ⟨rfl, rfl⟩
    exact hn p hp (by rwa [Nat.div_add_mod'])
  | sreg key =>
    refine ⟨rfl, fun n hn => ?_, fun _ _ _ _ => rfl, fun _ _ => rfl, fun _ => rfl, rfl, rfl, rfl, fun _ => rfl, rfl,
      fun q h => ⟨q, h, fun _ h => h⟩⟩
    show (g.setS key x).sreg n = _
    rw [Gang.sreg_setS, if_neg]
    rintro rfl
    exact hn p hp hm
  | adv =>
    exact ⟨rfl, fun _ _ => rfl, fun _ _ _ _ => rfl, fun _ _ => rfl, fun _ => rfl, rfl, rfl, rfl,
      fun hn => absurd hm (hn p hp), rfl, fun q h => ⟨q, h, fun _ h => h⟩⟩

theorem Gang.settled_mark (g : Gang) (d : Dest) (x : Word) : Settled g (g.mark d x) := by
  unfold Gang.mark
  split
  · exact Settled.refl g
  · cases d <;>
      exact ⟨rfl, fun _ _ => rfl, fun _ _ _ _ => rfl, fun _ _ => rfl, fun _ => rfl, rfl, rfl, rfl, fun _ => rfl, rfl,
        fun q h => ⟨q, h, fun _ h => h⟩⟩

theorem Gang.settled_pend (g : Gang) (f : List Pend) (h : ∀ q, q ∈ f → ∃ p, p ∈ g.pend ∧ ∀ d, d ∈ q.dests → d ∈ p.dests) :
    Settled g { g with pend := f } :=
  ⟨rfl, fun _ _ => rfl, fun _ _ _ _ => rfl, fun _ _ => rfl, fun _ => rfl, rfl, rfl, rfl, fun _ => rfl, rfl, h⟩

theorem Gang.writable_mem {g : Gang} {p : Pend} {d : Dest} (h : g.writable = some (p, d)) : p ∈ g.pend ∧ d ∈ p.dests := by
  unfold Gang.writable at h
  obtain ⟨q, hq, e⟩ := List.exists_of_findSome?_eq_some h
  split at e
  · cases hf : q.dests.find? fun d => q.due d && !g.before q d with
    | none => simp [hf] at e
    | some d' =>
      simp only [hf, Option.map_some, Option.some.injEq, Prod.mk.injEq] at e
      obtain ⟨rfl, rfl⟩ := e
      exact ⟨hq, List.mem_of_find?_eq_some hf⟩
  · exact absurd e (by simp)

@[simp] theorem Gang.pend_write (g : Gang) (d : Dest) (x : Word) : (g.write d x).pend = g.pend := by cases d <;> rfl

@[simp] theorem Gang.pend_mark (g : Gang) (d : Dest) (x : Word) : (g.mark d x).pend = g.pend := by
  unfold Gang.mark
  split
  · rfl
  · cases d <;> rfl

theorem Gang.settled_writeOne (g : Gang) (p : Pend) (d : Dest) (hd : ∃ p, p ∈ g.pend ∧ d ∈ p.dests) : Settled g (g.writeOne p d) := by
  unfold Gang.writeOne
  extract_lets h k
  have hh : Settled g h ∧ h.pend = g.pend := by
    unfold h
    split
    · split
      · exact ⟨(g.settled_write d _ hd).trans (Gang.settled_mark _ d _), by simp⟩
      · exact ⟨g.settled_write d _ hd, by simp⟩
    · exact ⟨Settled.refl g, rfl⟩
  have hk : Settled h k ∧ k.pend = g.pend := by
    unfold k
    split
    · exact ⟨h.settled_write d _ (hh.2 ▸ hd), by simp [hh.2]⟩
    · exact ⟨Settled.refl h, hh.2⟩
  refine (hh.1.trans hk.1).trans (Gang.settled_pend _ _ fun q hq => ?_)
  obtain ⟨hq, -⟩ := List.mem_filter.mp hq
  obtain ⟨r, hr, rfl⟩ := List.mem_map.mp hq
  refine ⟨r, hr, fun x hx => ?_⟩
  split at hx
  · exact (List.mem_filter.mp hx).1
  · exact hx

theorem Gang.settled_settleN (n : Nat) (g : Gang) : Settled g (Gang.settleN n g) := by
  induction n generalizing g with
  | zero => exact Settled.refl g
  | succ n ih =>
    unfold Gang.settleN
    split
    · rename_i p d e
      exact (g.settled_writeOne p d ⟨p, Gang.writable_mem e⟩).trans (ih _)
    · exact Gang.settled_pend _ _ fun q hq => ⟨q, (List.mem_filter.mp hq).1, fun _ h => h⟩

theorem Gang.settled_settle (g : Gang) : Settled g g.settle := Gang.settled_settleN _ g

theorem Gang.settled_closeWindows (g : Gang) (js : List Nat) : Settled g (g.closeWindows js) :=
  ⟨rfl, fun _ _ => rfl, fun _ _ _ _ => rfl, fun _ _ => rfl, fun _ => rfl, rfl, rfl, rfl, fun _ => rfl, rfl, fun q hq => by
    obtain ⟨p, hp, rfl⟩ := List.mem_map.mp hq
    exact ⟨p, hp, fun _ h => h⟩⟩

theorem Gang.settled_unshut (g : Gang) : Settled g g.unshut :=
  Gang.settled_pend _ _ fun q hq => by
    obtain ⟨p, hp, rfl⟩ := List.mem_map.mp hq
    exact ⟨p, hp, fun _ h => h⟩

theorem Gang.settled_countWindows (g : Gang) (js : List Nat) (id : Nat) : Settled g (g.countWindows js id) :=
  ⟨rfl, fun _ _ => rfl, fun _ _ _ _ => rfl, fun _ _ => rfl, fun _ => rfl, rfl, rfl, rfl, fun _ => rfl, rfl, fun q hq => by
    obtain ⟨p, hp, rfl⟩ := List.mem_map.mp hq
    refine ⟨p, hp, fun _ h => ?_⟩
    split at h <;> exact h⟩

/-- R61: a trap outside a handler. -/
theorem State.trap_entered {s : State} {c : Cur} {g : Gang} (x : TrapInfo) (hg : s.gang? c.tile c.slot = some g) (hs : g.sup = false) :
    ∃ h, Entered s (s.trap c x) c g h x.cause x.tval x.slice fun k => x.mask.getLsbD k := by
  have e : s.trap c x =
      ({ s with watches := s.watches.filter fun w => !(w.launch.isNone && w.tile == c.tile && w.slot == c.slot) } : State).setGang
        c.tile c.slot (g.enterTrap (s.ctx g.ctx).tbase c.slice x) := by
    unfold State.trap
    rw [hg]
    simp only [hs]
    rfl
  rw [e]
  unfold Gang.enterTrap
  simp only
  generalize hk : Gang.settle _ = k
  have st := hk ▸ ((Gang.settled_unshut _).trans (Gang.settled_closeWindows _ (List.range 8))).trans (Gang.settled_settle _)
  have sl : ∀ j, k.slice j = g.slice j := fun j => by unfold Gang.slice; rw [st.slices]
  refine ⟨_, ⟨State.gang?_setGang_same .., fun t sl hn => ?_, rfl, rfl, ?_, ?_, ?_, ?_, ?_, ?_, ?_, ?_, ?_, st.sreg, st.vreg, st.pred,
    st.rem, st.fpst, st.adv, ?_⟩⟩
  · rw [State.gang?_setGang, if_neg (Ne.symm hn)]
    rfl
  · exact congrArg Trap.tpc st.trap
  · exact congrArg Trap.tcause st.trap
  · exact congrArg Trap.tval st.trap
  · intro n _
    exact congrArg (fun t : Trap => t.tmask.getLsbD n) st.trap
  · exact congrArg Trap.tmode st.trap
  · exact congrArg Trap.tscc st.trap
  · intro j hj
    have := (Gang.mem_liveSlices.mp hj)
    refine (congrArg (fun t : Trap => t.slicepc.getD j 0) st.trap).trans ?_
    simp [List.getD_eq_getElem?_getD, this.1, this.2]
  · exact st.slgrp
  · intro j hj
    refine (Gang.slice_mapSlices ..).trans ?_
    simp only [sl, Gang.mem_liveSlices, hj, true_and]
    by_cases hl : (g.slice j).live = true
    · have : j < k.slices.length := by rw [st.slices]; exact Gang.lt_of_live hl
      simp only [this, hl, if_true]
      rfl
    · simp [hl]
  · have := congrArg (fun k : Gang => { k with trap := g.trap, sup := g.sup, slgrp := g.slgrp, adv := g.adv }) st.core
    exact this

end Sys2Proof.Machine
end

