-- ==== Sys2Proof/Tests/Slice0.lean ====
section
/-!
SUPPORT. Tests: ill-formed terms refused, words of the manual decoded, single steps with results the manual gives, and for every
statement with hypotheses a state and operands that meet them (the theorems `witness_...`).
-/

open Sys2Proof Sys2Proof.Machine Sys2Proof.Claims

namespace Sys2Proof.Tests

set_option Elab.async false

/-! ## States that the tests use -/

/-- The executing group: slice 0 of slot 0 of tile 0. -/
def c0 : Cur := ⟨0, 0, 0⟩

/-- A gang of one slice with every register, at address 0x1000. -/
def gang0 : Gang :=
  { tile := 0, slot := 0, ctx := 0, nsl := 1, nv := 64, ns := 512, pos := some 0, slices := [{ pc := 0x1000 }] }

/-- A gang of two slices. -/
def gang2 : Gang := { gang0 with nsl := 2, slices := [{ pc := 0x1000 }, { pc := 0x1000 }] }

/-- A gang of two slices in two issue groups. -/
def parted2 : Gang := { gang2 with slices := [{ pc := 0x1000 }, { pc := 0x2000, grp := 1 }] }

/-- `gang0` with a MODE word. -/
def moded (m : Word) : Gang := { gang0 with slices := [{ pc := 0x1000, mode := m }] }

/-- `gang0` in its trap handler. -/
def handler0 : Gang := { gang0 with sup := true }

/-- The device with the gang in slot 0 of tile 0, executing, its context running. -/
def at0 (g : Gang) : State :=
  ({ State.reset with cur := some c0, gangs := [(0, g)] } : State).modCtx 0 fun c => { c with st := .running, tiles := [0] }

/-- The registers that an instruction names exist. -/
def fits (g : Gang) (i : Instr) : Bool :=
  let r := Instr.regs i
  (r.rv ++ r.wv).all (fun n => decide (n < g.nv)) && (r.rs ++ r.ws).all fun n => decide (n < g.ns)

theorem starts_of {s : State} {g : Gang} {i : Instr} (hc : s.cur = some c0) (hg : s.gang? 0 0 = some g) (hs : g.markS = [])
    (hv : g.markV = []) (h : fits g i = true) (hu : s.upset = 0 := by rfl) : Starts s c0 g i := by
  simp only [fits, Bool.and_eq_true, List.all_eq_true, decide_eq_true_eq] at h
  exact ⟨hc, hg, h.1, h.2, fun n _ => by simp [hs], fun n _ l _ => by simp [hv], hu⟩

/-- A gang without marks in slot 0 starts any instruction whose registers it has. -/
theorem starts0 {g : Gang} {i : Instr} (h : fits g i = true) (hs : g.markS = [] := by rfl) (hv : g.markV = [] := by rfl) :
    Starts (at0 g) c0 g i :=
  starts_of rfl rfl hs hv h

theorem starts_list {g : Gang} {l : List Instr} (h : l.all (fits g) = true) (hs : g.markS = [] := by rfl)
    (hv : g.markV = [] := by rfl) : ∀ i ∈ l, Starts (at0 g) c0 g i :=
  fun i hi => starts0 (List.all_eq_true.1 h i hi) hs hv

theorem starts_all {g : Gang} {l : List Instr} {P : Instr → Bool} (h : l.all (fun i => fits g i && P i) = true)
    (hs : g.markS = [] := by rfl) (hv : g.markV = [] := by rfl) : ∀ i ∈ l, Starts (at0 g) c0 g i ∧ P i = true := by
  intro i hi
  have := List.all_eq_true.1 h i hi
  rw [Bool.and_eq_true] at this
  exact ⟨starts0 this.1 hs hv, this.2⟩

/-- The outcome's state. -/
def got (o : Out) : State := match o with | .next t => t | _ => State.reset

/-- The gang in slot 0 after an outcome. -/
def gotGang (o : Out) : Gang := ((got o).gang? 0 0).getD gang0

/-! ## Encoding (spec/05_encoding.md) -/

/-- One ill-formed term for each check, each refused. -/
theorem test_ill_formed_refused : ∀ i ∈ [Instr.bCond 15 0, .jmp 3, .rdsr 4 6, .rdsr 5 0x30, .wrsr 5 4, .lnch 1 3, .tlbinv 5, .selCond 1 2 14,
      .iaddVs 1 2 3 2, .isubVs 1 2 3 3, .imulVs 1 2 3 2, .imulhVs 1 2 3 2, .imulhNVs 1 2 3 2, .imadVs 1 2 3 2, .iandVs 1 2 3 2, .iorVs 1 2 3 2,
      .ixorVs 1 2 3 2, .iandnVs 1 2 3 2, .ishlVs 1 2 3 2, .ishrVs 1 2 3 2, .israVs 1 2 3 2, .iminVs 1 2 3 2, .imaxVs 1 2 3 2, .iminNVs 1 2 3 2,
      .imaxNVs 1 2 3 2, .iselVs 1 2 3 4 2, .icmp 10 1 2 3, .cvt 5 1 2 2, .cvt 2 1 2 2, .cvt 0 1 2 1, .faddVs 1 2 3 2, .fsubVs 1 2 3 2,
      .fmulVs 1 2 3 2, .ffmaVs 1 2 3 2, .ffmsVs 1 2 3 2, .fnmaVs 1 2 3 2, .fminVs 1 2 3 2, .fmaxVs 1 2 3 2, .fcmp 8 1 2 3],
    i.wellFormed = false := by decide +kernel

theorem test_ill_formed_refused_2 : ∀ i ∈ [Instr.rng 0 2 2 4, .rng 0 4 3 4, .rng 0 4 2 5, .rimul 1 2 3 2, .ldB 0 1 2 3 0, .ldBs 0 1 2 4 2,
      .ldH 0 1 2 4 2, .ldHs 0 1 2 4 2, .ldW 0 1 2 4 2, .ldAcqW 0 1 2 3, .ldD 0 1 2 4 0, .ldQ 0 2 2 4 0, .stB 1 2 3 0, .stH 1 2 4 2, .stW 1 2 4 2,
      .stRelW 1 2 3, .stD 1 2 4 0, .stQ 2 2 4 0, .sldW 0 1 2 4 1, .sldAcq 0 1 2 3, .sldWPhys 0 1 2 3, .sldD 0 2 2 4 2, .sstW 1 2 4 1, .sstRel 1 2 3,
      .sstWPhys 1 2 3, .sstD 2 2 4 2, .atom 0 2 3 0 0 0, .atom 1 2 2 0 0 0, .atom 0 2 2 0 11 0, .atom 0 3 2 0 9 0, .satom 0 2 0 0 3 0, .fenceRel 5,
      .fenceAcq 5, .fenceAr 5, .wata 1 2 3, .wake 3, .zfill 1 3, .pf 1 3, .pfL2 1 3],
    i.wellFormed = false := by decide +kernel

theorem test_ill_formed_refused_3 : ∀ i ∈ [Instr.cpy4 0 0 3 1, .cpy8 0 0 3 1, .cpy16 0 0 3 1, .bcpy 0 0 3 1, .wcpy 0 0 3 1, .mcast 0 0 3 1,
      .gath 0 0 3 1, .czero 0 0 3 1, .wldS 0 0 3 1, .wldG 0 0 3 1, .mma 0 0 3 1, .mloop 0 0 3 1, .mrec 0 0 3 1, .accrd 0 0 3 1, .accwr 0 0 3 1,
      .accz 0 0 3 1, .mstat 0 3 2, .mstat 0 2 3, .collAr 0 0 3 1, .collRs 0 0 3 1, .collAg 0 0 3 1, .pnset 0 1, .pnclr 0],
    i.wellFormed = false := by decide +kernel

/-- Words that chapters 5 to 10 work out bit by bit (Tables 5.2, 6.3, 7.9, 8.4, 9.7, 10.10), one family after the other. -/
theorem test_word_iadd_link : decode 0x4000C227 = .ok (.iaddV 3 2 9 3) := rfl
theorem test_word_iadd_scalar : decode 0x4010C21C = .ok (.iaddVs 3 2 7 0) := rfl
theorem test_word_ffma : decode 0x83010719 = .ok (.ffmaV 4 7 6 1) := rfl
theorem test_word_add : decode 0x20960445 = .ok (.add 300 17 5) := rfl
theorem test_word_addi : decode 0x3A027FFD = .ok (.addi 4 0x7FFD) := rfl
theorem test_word_branch : decode 0x031FFFFD = .ok (.bCond 1 0xFFFFD) := rfl
theorem test_word_regang : decode 0x080A0540 = .ok (.regang 20 21) := rfl
theorem test_word_rep : decode 0x011F2000 = .ok (.rep 7 6 1) := rfl
theorem test_word_rdsr : decode 0x14028010 = .ok (.rdsr 5 0x10) := rfl
theorem test_word_lnch : decode 0x17010280 = .ok (.lnch 2 10) := rfl
theorem test_word_cvt : decode 0x70304208 = .ok (.cvt 3 1 2 2) := rfl
theorem test_word_rng : decode 0x94340220 = .ok (.rng 3 16 2 8) := rfl
theorem test_word_ballot : decode 0x6300C200 = .ok (.ballot 0 3 2) := rfl
theorem test_word_rfma : decode 0xB201061F = .ok (.rfma 4 6 7 3) := rfl
theorem test_word_ld : decode 0xC4220210 = .ok (.ldW 2 8 2 4 0) := rfl
theorem test_word_atom : decode 0xD0118A41 = .ok (.atom 1 6 10 1 0 1) := rfl
theorem test_word_cpy : decode 0xE0042852 = .ok (.cpy16 0 2 40 20) := rfl
theorem test_word_mstat : decode 0xEB100C28 = .ok (.mstat 1 12 10) := rfl
theorem test_word_coll : decode 0xEC00402D = .ok (.collRs 0 0 64 11) := rfl
theorem test_word_reserved : decode 0x1C000000 = .error .reservedOpcode := rfl
theorem test_word_must_be_zero : decode 0x02000001 = .error .reservedField := rfl
theorem test_word_broken_rule : decode 0x03F00000 = .error .brokenRule := rfl
/-- Table 7.9 prints 0x5221_C600 beside `ineg v7, v6`; its own fields give 0x5321_C600, and 0x52 is `icmp`. -/
theorem test_word_ineg : decode 0x5321C600 = .ok (.ineg 7 6) := rfl

/-- A table row's word in a byte stream: little-endian, the rest left. -/
theorem test_word_bytes : decodeBytes [0x45, 0x04, 0x96, 0x20, 0x55] = .ok (.add 300 17 5, [0x55]) := rfl

theorem witness_DecodeOfEncode : Instr.isEvent (.mstat 1 12 10) = false ∧ Instr.wellFormed (.mstat 1 12 10) = true := ⟨rfl, rfl⟩

/-! ## Scalar operations -/

theorem witness_ScalarArithmetic :
    ∀ i ∈ [Instr.add 1 2 3, .sub 1 2 3, .addi 1 0x7FFF, .mul 1 2 3, .mulh 1 2 3, .mulhN 1 2 3],
      Starts (at0 gang0) c0 gang0 i ∧ (arith gang0 i).isSome = true := starts_all (by decide +kernel)

theorem witness_ScalarLogic :
    ∀ i ∈ [Instr.and 1 2 3, .or 1 2 3, .xor 1 2 3, .andn 1 2 3, .andi 1 2, .ori 1 2, .xori 1 2, .shl 1 2 3, .shr 1 2 3, .sra 1 2 3,
        .rol 1 2 3, .bfx 1 2 3, .bfi 1 2 3],
      Starts (at0 gang0) c0 gang0 i ∧ (logic gang0 i).isSome = true := starts_all (by decide +kernel)

theorem witness_ScalarCounts :
    ∀ i ∈ [Instr.min 1 2 3, .max 1 2 3, .minN 1 2 3, .maxN 1 2 3, .popc 1 2, .clz 1 2, .ctz 511 2],
      Starts (at0 gang0) c0 gang0 i ∧ (count gang0 i).isSome = true := starts_all (by decide +kernel)

theorem witness_ScalarDivision :
    ∀ i ∈ [Instr.div 1 2 3, .divN 1 2 3, .rem 1 2 3, .remN 1 2 63], Starts (at0 gang0) c0 gang0 i :=
  starts_list (by decide +kernel)

theorem witness_ScalarCompare : ∀ i ∈ [Instr.cmp 1 2, .cmpi 1 2], Starts (at0 gang0) c0 gang0 i :=
  starts_list (by decide +kernel)

theorem witness_ScalarMoves : ∀ i ∈ [Instr.mov 1 2, .ldi 1 2, .ldlo 1 2, .ldhi 1 2, .selCond 1 2 13],
    Starts (at0 gang0) c0 gang0 i := starts_list (by decide +kernel)

theorem witness_ScalarMoves_condition :
    condition 1 (gang0.slice c0.slice).fl ∧ ¬condition 0 (gang0.slice c0.slice).fl :=
  ⟨rfl, fun h => by cases h⟩

/-- `gang0` with two scalar registers set. -/
def sregs (x y : Word) : Gang := { gang0 with sregs := [(2, x), (3, y)] }

theorem test_add_carry : (gotGang (exec (.add 1 2 3) (at0 (sregs 0xFFFFFFFF 1)))).sreg 1 = 0 ∧
    ((gotGang (exec (.add 1 2 3) (at0 (sregs 0xFFFFFFFF 1)))).slice 0).fl = ⟨true, false, true, false⟩ := by decide
theorem test_sub_borrow : ((gotGang (exec (.sub 1 2 3) (at0 (sregs 0 1)))).slice 0).fl = ⟨false, true, false, false⟩ := by decide
theorem test_div_toward_zero : (gotGang (exec (.div 1 2 3) (at0 (sregs 0xFFFFFFF9 2)))).sreg 1 = 0xFFFFFFFD := by decide
theorem test_div_by_zero : (gotGang (exec (.div 1 2 3) (at0 (sregs 7 0)))).sreg 1 = 0xFFFFFFFF ∧
    (gotGang (exec (.div 1 2 3) (at0 (sregs 7 0)))).fpst = 2 := by decide
theorem test_rem_by_zero : (gotGang (exec (.rem 1 2 3) (at0 (sregs 7 0)))).sreg 1 = 7 := by decide
theorem test_div_overflow : (gotGang (exec (.div 1 2 3) (at0 (sregs 0x80000000 0xFFFFFFFF)))).sreg 1 = 0x80000000 := by decide
theorem test_mulh_signed : (gotGang (exec (.mulh 1 2 3) (at0 (sregs 0xFFFFFFFF 2)))).sreg 1 = 0xFFFFFFFF := by decide
theorem test_shl_by_32 : (gotGang (exec (.shl 1 2 3) (at0 (sregs 1 32)))).sreg 1 = 0 := by decide
theorem test_sra_by_40 : (gotGang (exec (.sra 1 2 3) (at0 (sregs 0x80000000 40)))).sreg 1 = 0xFFFFFFFF := by decide
theorem test_rol : (gotGang (exec (.rol 1 2 3) (at0 (sregs 0x80000001 33)))).sreg 1 = 3 := by decide
theorem test_bfx : (gotGang (exec (.bfx 1 2 3) (at0 (sregs 0x12345678 0x0708)))).sreg 1 = 0x56 := by decide
theorem test_cmp_signed_less : ((gotGang (exec (.cmp 2 3) (at0 (sregs 0xFFFFFFFF 1)))).slice 0).fl = ⟨false, true, true, false⟩ := by
  decide
theorem test_ldhi_keeps_low : (gotGang (exec (.ldhi 2 0x1234) (at0 (sregs 0xABCD 0)))).sreg 2 = 0x1234ABCD := by decide
theorem test_pc_advances : ((gotGang (exec (.mov 1 2) (at0 gang0))).slice 0).pc = 0x1004 := by decide

/-! ## Vector operations -/

theorem witness_LinkableIntegerResults :
    ∀ i ∈ [Instr.iaddV 1 2 3 0, .iaddVs 1 2 3 0, .isubV 1 2 3 0, .isubVs 1 2 3 0, .imulV 1 2 3 0, .imulVs 1 2 3 0, .imulhV 1 2 3 0,
        .imulhVs 1 2 3 0, .imulhNV 1 2 3 0, .imulhNVs 1 2 3 0, .imadV 1 2 3 0, .imadVs 1 2 3 0, .iandV 1 2 3 0, .iandVs 1 2 3 0,
        .iorV 1 2 3 0, .iorVs 1 2 3 0, .ixorV 1 2 3 0, .ixorVs 1 2 3 0, .iandnV 1 2 3 0, .iandnVs 1 2 3 0, .ishlV 1 2 3 0,
        .ishlVs 1 2 3 0, .ishrV 1 2 3 0, .ishrVs 1 2 3 0, .israV 1 2 3 0, .israVs 1 2 3 0, .iminV 1 2 3 0, .iminVs 1 2 3 0,
        .imaxV 1 2 3 0, .imaxVs 1 2 3 0, .iminNV 1 2 3 0, .iminNVs 1 2 3 0, .imaxNV 1 2 3 0, .imaxNVs 1 2 3 0, .iselV 1 2 3 4 0,
        .iselVs 1 2 3 4 0],
      Starts (at0 gang0) c0 gang0 i ∧ ∃ f, intForm i = some f ∧ f.link = 0 := by
  intro i hi
  refine ⟨starts0 (by revert i; decide +kernel), ?_⟩
  simp only [List.mem_cons, List.not_mem_nil, or_false] at hi
  rcases hi with rfl | rfl | rfl | rfl | rfl | rfl | rfl | rfl | rfl | rfl | rfl | rfl | rfl | rfl | rfl | rfl | rfl | rfl | rfl |
    rfl | rfl | rfl | rfl | rfl | rfl | rfl | rfl | rfl | rfl | rfl | rfl | rfl | rfl | rfl | rfl | rfl <;> exact ⟨_, rfl, rfl⟩

theorem witness_VectorUnaryResults :
    ∀ i ∈ [Instr.inot 1 2, .iabs 1 2, .ineg 1 2, .ipopc 1 2, .iclz 1 2, .lanei 1, .ibfx 1 2 3, .ibfi 1 2 3, .vbc 1 2, .fabs 1 2,
        .fneg 1 2, .fclass 1 2],
      Starts (at0 gang0) c0 gang0 i ∧ ∃ f, plainForm i = some f := by
  intro i hi
  refine ⟨starts0 (by revert i; decide +kernel), ?_⟩
  simp only [List.mem_cons, List.not_mem_nil, or_false] at hi
  rcases hi with rfl | rfl | rfl | rfl | rfl | rfl | rfl | rfl | rfl | rfl | rfl | rfl <;> exact ⟨_, rfl⟩

theorem witness_VectorFloatResults :
    ∀ i ∈ [Instr.faddV 1 2 3 0, .faddVs 1 2 3 0, .fsubV 1 2 3 0, .fsubVs 1 2 3 0, .fmulV 1 2 3 0, .fmulVs 1 2 3 0, .ffmaV 1 2 3 0,
        .ffmaVs 1 2 3 0, .ffmsV 1 2 3 0, .ffmsVs 1 2 3 0, .fnmaV 1 2 3 0, .fnmaVs 1 2 3 0, .fminV 1 2 3 0, .fminVs 1 2 3 0,
        .fmaxV 1 2 3 0, .fmaxVs 1 2 3 0],
      Starts (at0 gang0) c0 gang0 i ∧ ∃ f, floatForm i = some f ∧ f.link = 0 ∧
        ∀ l, l ∈ lanes gang0 c0 → enabled (modeOf gang0 c0) (f.result gang0 c0 l).fl = false := by
  intro i hi
  refine ⟨starts0 (by revert i; decide +kernel), ?_⟩
  simp only [List.mem_cons, List.not_mem_nil, or_false] at hi
  rcases hi with rfl | rfl | rfl | rfl | rfl | rfl | rfl | rfl | rfl | rfl | rfl | rfl | rfl | rfl | rfl | rfl <;>
    exact ⟨_, rfl, rfl, by decide⟩

/-- MODE enables IV, and lane 1 of v2 holds a signalling NaN. -/
def signalling : Gang := { moded 0x01000000 with v := [(65, 0x7F800001)] }

theorem witness_VectorFloatResults_trap : Starts (at0 signalling) c0 signalling (.faddV 1 2 3 0) ∧ signalling.sup = false ∧
    ∃ f, floatForm (.faddV 1 2 3 0) = some f ∧ 1 ∈ lanes signalling c0 ∧
      enabled (modeOf signalling c0) (f.result signalling c0 1).fl = true ∧
      ∀ k, k ∈ lanes signalling c0 → k < 1 → enabled (modeOf signalling c0) (f.result signalling c0 k).fl = false :=
  ⟨starts0 (by decide +kernel), rfl, _, rfl, by decide, by decide, by decide⟩

/-- MODE.ET = 32, the first binary8 format. -/
theorem witness_VectorConversions :
    ∀ i ∈ [Instr.frnd 1 2, .cvt 2 1 2 0, .cvt 2 1 2 1, .cvt 2 1 2 3, .cvt 2 1 2 4, .cvt 0 1 2 2, .cvt 1 1 2 2, .cvt 3 1 2 2,
        .cvt 4 1 2 2, .narrow 3 1 2, .widen 3 1 2],
      Starts (at0 (moded 0x100)) c0 (moded 0x100) i ∧ ∃ f, otherFloat (modeOf (moded 0x100) c0) i = some f := by
  intro i hi
  refine ⟨starts0 (by revert i; decide +kernel), ?_⟩
  simp only [List.mem_cons, List.not_mem_nil, or_false] at hi
  rcases hi with rfl | rfl | rfl | rfl | rfl | rfl | rfl | rfl | rfl | rfl | rfl <;> exact ⟨_, rfl⟩

theorem witness_VectorConversions_illegal : Num.narrowable ((modeOf gang0 c0).toNat / 8 % 64) = false ∧ gang0.sup = false ∧
    Starts (at0 gang0) c0 gang0 (.narrow 0 1 2) ∧ Starts (at0 gang0) c0 gang0 (.widen 0 1 2) :=
  ⟨by decide, rfl, starts0 (by decide +kernel), starts0 (by decide +kernel)⟩

theorem witness_VectorCompares : Starts (at0 gang0) c0 gang0 (.icmp 9 1 2 3) ∧ Starts (at0 gang0) c0 gang0 (.icmp 0 0 2 3) ∧
    Starts (at0 gang0) c0 gang0 (.fcmp 7 1 2 3) ∧ Starts (at0 gang0) c0 gang0 (.fcmp 0 0 2 3) :=
  ⟨starts0 (by decide +kernel), starts0 (by decide +kernel), starts0 (by decide +kernel),
    starts0 (by decide +kernel)⟩

theorem witness_VectorFloatCompare_trap : Starts (at0 signalling) c0 signalling (.fcmp 2 1 2 2) ∧ signalling.sup = false ∧
    enabled (modeOf signalling c0) (compareFloat 2 (modeOf signalling c0) (signalling.vreg 2 1) (signalling.vreg 2 1)).2 = true :=
  ⟨starts0 (by decide +kernel), rfl, by decide⟩

/-- `gang0` with lane 0 of v2 and v3 set. -/
def vregs (m x y : Word) : Gang := { moded m with v := [(64, x), (96, y)] }

theorem test_iadd_saturates : (gotGang (exec (.iaddV 1 2 3 0) (at0 (vregs 0x1000 0x7FFFFFFF 1)))).vreg 1 0 = 0x7FFFFFFF := by decide
theorem test_iadd_wraps : (gotGang (exec (.iaddV 1 2 3 0) (at0 (vregs 0 0x7FFFFFFF 1)))).vreg 1 0 = 0x80000000 := by decide
theorem test_iabs_of_least : (gotGang (exec (.iabs 1 2) (at0 (vregs 0 0x80000000 0)))).vreg 1 0 = 0x80000000 := by decide
theorem test_icmp_p0_discarded : (gotGang (exec (.icmp 1 0 2 2) (at0 gang0))).pred 0 0 = true := by decide
theorem test_fadd : (gotGang (exec (.faddV 1 2 3 0) (at0 (vregs 0 0x3F800000 0x40000000)))).vreg 1 0 = 0x40400000 := by decide
theorem test_fadd_inf_minus_inf : (gotGang (exec (.faddV 1 2 3 0) (at0 (vregs 0 0x7F800000 0xFF800000)))).vreg 1 0 = 0x7FC00000 ∧
    (gotGang (exec (.faddV 1 2 3 0) (at0 (vregs 0 0x7F800000 0xFF800000)))).fpst &&& 1 = 1 := by decide
theorem test_fmul_by_half : (gotGang (exec (.fmulV 1 2 3 0) (at0 (vregs 0 0x40400000 0x3F000000)))).vreg 1 0 = 0x3FC00000 := by decide
theorem test_masked_lane_kept : (gotGang (exec (.lanei 1) (at0 { moded 1 with p := [(33, false)] }))).vreg 1 1 = 0xFFFFFFFF := by decide
theorem test_round_ties : Num.roundAt .rne false 20 0 3 = (2, true) ∧ Num.roundAt .rna false 20 0 3 = (3, true) ∧
    Num.roundAt .rd true 17 0 3 = (3, true) := by decide

/-- Every clause of FloatValuesAreExact has operands. -/
theorem witness_FloatValuesAreExact : isFinite 0x7F7FFFFF = true ∧ isFinite 0x80000000 = true ∧ isNan 0x7FC00000 = true ∧
    isNan 0xFF800001 = true ∧ isInf 0x7F800000 = true ∧ isInf 0xFF800000 = true ∧ magnitude 0x80000000 = 0 ∧
    (0x7F800000 : Word).msb ≠ (0xFF800000 : Word).msb ∧ units 0x3F800000 = 2 ^ 149 ∧ number 0xC0000000 = -(2 ^ 150) := by decide

/-- The product 1 + 2^-11 + 2^-24 is not rounded before the sum with -(1 + 2^-11). -/
theorem test_ffma_rounds_once : (gotGang (exec (.ffmaV 1 2 3 0)
      (at0 { gang0 with v := [(32, 0xBF801000), (64, 0x3F800800), (96, 0x3F800800)] }))).vreg 1 0 = 0x33800000 := by decide +kernel
theorem test_fadd_zero_signs : (gotGang (exec (.faddV 1 2 3 0) (at0 (vregs 0x400 0x3F800000 0xBF800000)))).vreg 1 0 = 0x80000000 ∧
    (gotGang (exec (.faddV 1 2 3 0) (at0 (vregs 0 0x3F800000 0xBF800000)))).vreg 1 0 = 0 := by decide +kernel

/-! ## Links -/

theorem witness_LinkedChain :
    ∀ i ∈ [Instr.iaddV 1 2 3 1, .iaddV 1 2 3 2, .iaddVs 1 2 3 1, .faddV 1 2 3 2, .fmaxVs 1 2 3 1],
      Starts (at0 gang2) c0 gang2 i ∧ (Instr.wellFormed i && decide ((linkForm i).map (·.link) = some 1 ∨
        (linkForm i).map (·.link) = some 2)) = true := starts_all (by decide +kernel)

theorem witness_LinkedChain_leads : Leads gang2 c0 := rfl

/-- The chain of R25: a running sum through the lanes. -/
theorem test_linked_sum : (gotGang (exec (.iaddV 1 2 3 1) (at0 { gang0 with v := [(64, 5), (96, 1), (97, 2), (98, 3), (99, 4)] }))).vreg 1 3
    = 15 := by decide

/-- The first and the second gang of a grove, with what stands in their FIFOs. -/
def first (f : List (Option Word)) : Gang := { gang0 with launch := some 0, ngang := 2, fifo := f }
def second (f : List (Option Word)) : Gang := { gang0 with slot := 1, launch := some 0, ngang := 2, gidx := 1, fifo := f }
def grove (a b : Gang) : State :=
  { at0 a with gangs := [(0, a), (1, b)] }

theorem starts_grove {a b : Gang} {i : Instr} (h : fits a i = true) (hs : a.markS = [] := by rfl) (hv : a.markV = [] := by rfl) :
    Starts (grove a b) c0 a i := starts_of rfl rfl hs hv h

theorem witness_HandOn_parted : Instr.wellFormed (.iaddV 1 2 3 3) = true ∧ Starts (at0 parted2) c0 parted2 (.iaddV 1 2 3 3) ∧
    Leads parted2 c0 ∧ (∃ f, linkForm (.iaddV 1 2 3 3) = some f ∧ f.link = 3) ∧ parted2.parted = true ∧ parted2.sup = false :=
  ⟨rfl, starts0 (by decide +kernel), rfl, ⟨_, rfl, rfl⟩, by decide, rfl⟩

/-- The second gang of the grove executes, its FIFO empty while its predecessor lives. -/
def later : State := { grove (first []) (second []) with cur := some ⟨0, 1, 0⟩ }

theorem witness_HandOn_waits : Starts later ⟨0, 1, 0⟩ (second []) (.iaddV 1 2 3 3) ∧ (second []).parted = false ∧
    ¬mayTake later (second []) :=
  ⟨⟨rfl, rfl, by decide, by decide, fun n _ => by simp [second, gang0], fun n _ l _ => by simp [second, gang0], rfl⟩, by decide,
    by unfold mayTake; decide⟩

/-- Its predecessor has exited: the released instruction takes a cut, whatever has come since. -/
theorem witness_HandOn_released :
    let g : Gang := { second [some 7] with slices := [{ pc := 0x1000, cut := true }] }
    cutOff g = true ∧ taken g = none ∧ taken (second [some 7]) = some 7 := by decide

theorem witness_HandOn_successor_full :
    let b := second [none, none, none, none]
    let s := grove (first []) b
    Starts s c0 (first []) (.iaddV 1 2 3 3) ∧ s.predecessor (first []) = none ∧ s.successor (first []) = some b ∧ ¬b.fifo.length < 4 :=
  ⟨starts_grove (by decide +kernel), by decide, by decide, by decide⟩

theorem witness_HandOn_hands_on :
    let b := second [some 7]
    let s := grove (first []) b
    Starts s c0 (first []) (.iaddV 1 2 3 3) ∧ (first []).parted = false ∧ s.predecessor (first []) = none ∧
      s.successor (first []) = some b ∧ b.fifo.length < 4 ∧ s.gang? b.tile b.slot = some b ∧ gkey b.tile b.slot ≠ gkey 0 0 :=
  ⟨starts_grove (by decide +kernel), by decide, by decide, by decide, by decide, by decide, by decide⟩

theorem witness_HandOn_last : Starts (at0 gang0) c0 gang0 (.iaddV 1 2 3 3) ∧ gang0.parted = false ∧
    (at0 gang0).predecessor gang0 = none ∧ (at0 gang0).successor gang0 = none :=
  ⟨starts0 (by decide +kernel), by decide, by decide, by decide⟩

/-! ## Long-latency results -/

theorem witness_LongLatencyOpens :
    ∀ i ∈ [Instr.frcp 2 1 2, .frsq 2 1 2, .fsqrt 2 1 2, .fexp2 2 1 2, .flog2 2 1 2, .fexp 2 1 2, .flog 2 1 2, .fsinpi 2 1 2,
        .fcospi 2 1 2],
      Starts (at0 gang0) c0 gang0 i ∧ (special i).isSome = true := starts_all (by decide +kernel)

theorem witness_LongLatencyOpens_others :
    Starts (at0 gang0) c0 gang0 (.fdiv 15 1 2 3) ∧ Starts (at0 gang0) c0 gang0 (.rng 3 4 2 6) :=
  ⟨starts0 (by decide +kernel), starts0 (by decide +kernel)⟩

theorem witness_CrossLaneResults :
    ∀ i ∈ [Instr.shfl 1 2 3 4, .bcast 1 2 3 4, .vget 1 2 3 4, .ballot 1 2 3, .matchv 1 2 3, .isect 1 2 3 4],
      Starts (at0 gang0) c0 gang0 i := starts_list (by decide +kernel)

/-- A result for s5 whose window has `n` instructions to go in slice 0. -/
def awaited (n : Nat) : Pend := { id := 3, slices := [0], left := n :: List.replicate 7 0, dests := [.sreg 5], vals := [(.sreg 5, 9)] }
def awaiting (n : Nat) : State :=
  { at0 { gang0 with pend := [awaited n] } with cur := none, subject := { part := 3 } }

theorem witness_LongLatencyReturns : ∀ n, n = 0 ∨ n = 2 → ∃ g p, (awaiting n).gang? 0 0 = some g ∧
    g.pend.find? (fun p => p.id == (awaiting n).subject.part) = some p ∧ p.load = none ∧ p.returned = false ∧
      (∀ d, d ∈ p.dests → ∃ v, v ∈ p.vals ∧ v.1 = d) ∧ g.pend = [p] ∧ p.engine = false ∧ (∀ d, d ∈ p.dests → p.due d = decide (n = 0)) := by
  rintro n (rfl | rfl) <;>
    exact ⟨_, _, rfl, rfl, rfl, rfl, fun d hd => ⟨_, List.mem_singleton.2 rfl, (List.mem_singleton.1 hd).symm⟩, rfl, rfl, by decide⟩

/-- R116: while the tile switches the result is kept. -/
theorem test_result_kept_in_switch :
    let s := (awaiting 0).modTile 0 fun t => { t with switching := some (true, 9, 0) }
    (s.tile 0).switching ≠ none ∧ (gotGang (exec .longLatencyResultReturn s)).sreg 5 = 0xFFFFFFFF ∧
      (gotGang (exec .longLatencyResultReturn s)).pend.map Pend.returned = [true] := by decide

theorem test_result_written : (gotGang (exec .longLatencyResultReturn (awaiting 0))).sreg 5 = 9 ∧
    (gotGang (exec .longLatencyResultReturn (awaiting 2))).sreg 5 = 0xFFFFFFFF := by decide
theorem test_fsqrt_of_4 : ((gotGang (exec (.fsqrt 2 1 2) (at0 (vregs 0 0x40800000 0)))).pend.headD (awaited 0)).vals.head?
    = some (.vreg 32, 0x40000000) := by decide +kernel

/-! ## Reversible instructions -/

theorem witness_ReversibleForward :
    ∀ i ∈ [Instr.rfadd 1 2 3 0, .rfmul 1 2 3 1, .rfma 1 2 3 2, .rnarrow 1 2, .rshr 1 2 3, .rimul 1 2 3 0, .riadd 1 2 3 0, .rmax0 1 2],
      Starts (at0 (moded 0x100)) c0 (moded 0x100) i ∧
        (Instr.wellFormed i && ((forward (modeOf (moded 0x100) c0) i).map (·.link)).any fun l => decide (l ≠ 3)) = true :=
  starts_all (by decide +kernel)

theorem witness_ReversibleForward_room : Leads (moded 0x100) c0 ∧ hasRoom (moded 0x100) c0 ∧ ((moded 0x100).sreg 3).getLsbD 0 = true :=
  ⟨rfl, by unfold hasRoom; decide, by decide⟩

theorem witness_ReversibleForward_even : ((sregs 0 2).sreg 3).getLsbD 0 = false ∧ (sregs 0 2).sup = false ∧
    Starts (at0 (sregs 0 2)) c0 (sregs 0 2) (.rimul 1 2 3 0) ∧ Starts (at0 (sregs 0 2)) c0 (sregs 0 2) (.unimul 1 2 3) :=
  ⟨by decide, rfl, starts0 (by decide +kernel), starts0 (by decide +kernel)⟩

/-- With a hand-on link, at the head of a grove whose second gang's FIFO has room. -/
theorem witness_ReversibleForward_handon :
    ∀ i ∈ [Instr.rfadd 1 2 3 3, .rfmul 1 2 3 3, .rfma 1 2 3 3, .riadd 1 2 3 3],
      Starts (grove (first []) (second [])) c0 (first []) i ∧ Instr.wellFormed i = true ∧
        (forward (modeOf (first []) c0) i).map (·.link) = some 3 :=
  fun i hi => ⟨starts_grove (by revert i; decide +kernel), by revert i; decide +kernel, by revert i; decide +kernel⟩

theorem witness_ReversibleForward_handon_takes : Leads (first []) c0 ∧ hasRoom (first []) c0 ∧ (first []).parted = false ∧
    mayTake (grove (first []) (second [])) (first []) :=
  ⟨rfl, by unfold hasRoom; decide, by decide, .inr (.inr (by decide))⟩

/-- MODE.ERL set: a lossy entry traps. -/
theorem witness_ReversibleForward_lossy :
    let g : Gang := { moded 0x20000000 with v := [(64, 0x7F800000), (65, 0x7F800000), (66, 0x7F800000), (67, 0x7F800000)] }
    g.sup = false ∧ ∃ f, forward (modeOf g c0) (.rfadd 1 2 2 0) = some f ∧
      (forwardFault (modeOf g c0) f.cls (f.result g c0 none 0)).isSome = true :=
  ⟨rfl, _, rfl, by decide⟩

/-- Each lane's stack with one entry of a class. -/
def stacked (cls : Nat) : Gang := { moded 0x100 with rem := (List.range 4).map fun l => (l, [⟨0, cls⟩]) }

theorem witness_ReversibleUndo :
    ∀ x ∈ [(1, Instr.unfadd 1 2 3), (2, .unfmul 1 2 3), (3, .unfma 1 2 3), (4, .unnarrow 1 2), (5, .unshr 1 2 3), (7, .unniadd 1 2 3),
        (8, .unmax0 1 2)],
      Starts (at0 (stacked x.1)) c0 (stacked x.1) x.2 ∧ onHand (stacked x.1) c0 ∧
        (undo (modeOf (stacked x.1) c0) x.2).any (fun f => (lanes (stacked x.1) c0).all fun l =>
          (popFault f.cls none ((stacked x.1).remOf l)).isNone) = true :=
  fun x hx => ⟨starts0 (by revert x; decide +kernel), .inl rfl, by revert x; decide +kernel⟩

theorem witness_ReversibleUndo_others :
    (Starts (at0 (stacked 6)) c0 (stacked 6) (.unimul 1 2 3) ∧ ((stacked 6).sreg 3).getLsbD 0 = true ∧ onHand (stacked 6) c0 ∧
      ∀ l, l ∈ lanes (stacked 6) c0 → popFault 6 none ((stacked 6).remOf l) = none) ∧
    (∃ g : Gang, g.sreg 3 = 0 ∧ Starts (at0 g) c0 g (.unmark 3) ∧ onHand g c0 ∧
      ∀ l, l ∈ lanes g c0 → popFault 0x1E (some (g.sreg 3 &&& 0x07FFFFFF)) (g.remOf l) = none) :=
  ⟨⟨starts0 (by decide +kernel), by decide, .inl rfl, by decide⟩,
    { stacked 0x1E with sregs := [(3, 0)] }, by decide, starts0 (by decide +kernel), .inl rfl, by decide⟩

theorem witness_ReversibleUndo_trap : Starts (at0 gang0) c0 gang0 (.unfadd 1 2 3) ∧ onHand gang0 c0 ∧ gang0.sup = false ∧
    popFault 1 none (gang0.remOf 0) = some (0x06, 0x100) := ⟨starts0 (by decide +kernel), .inl rfl, rfl, by decide⟩

theorem witness_IntegerPairsRestore :
    (∀ i ∈ [Instr.riadd 1 2 3 0, .rshr 1 2 3, .rmax0 1 2, .rimul 1 2 3 0], Starts (at0 gang0) c0 gang0 i) ∧
      (gang0.sreg 3).getLsbD 0 = true ∧ hasRoom gang0 c0 ∧ gang0.markV = [] ∧ gang0.nv = 64 ∧ (modeOf gang0 c0).getLsbD 24 = false :=
  ⟨starts_list (by decide +kernel), by decide, by unfold hasRoom; decide, rfl, rfl, by decide⟩

theorem test_rfadd_keeps_lost_bits : (rfaddRes 0 0x3F800000 0x4C800000).push = some ⟨⟨0x3F800000, 1⟩, 1⟩ := by decide +kernel
theorem witness_FloatPairsRestore : (∃ e, (rfaddRes 0 0x3F800000 0x4C800000).push = some ⟨⟨e, 1⟩, 1⟩) ∧
    (∃ e, (rfmulRes 0 0x3F800000 0x3F800000).push = some ⟨⟨e, 2⟩, 2⟩) ∧
    (∃ e, (rfmaRes 0 0x3F800000 0x3F800000 0x3F800000).push = some ⟨⟨e, 3⟩, 3⟩) ∧
    (∃ e, (rfmaRes 0 0x3F800001 0x3F800001 0).push = some ⟨⟨e, 3⟩, 3⟩ ∧ magnitude e ≠ 0) ∧
    ∃ e, (rnarrowRes 0x100 0x3F800000).push = some ⟨⟨e, 4⟩, 4⟩ :=
  ⟨⟨0x3F800000, test_rfadd_keeps_lost_bits⟩, ⟨0, by decide +kernel⟩, ⟨0, by decide +kernel⟩, ⟨0x28800000, by decide +kernel⟩,
    ⟨0, by decide +kernel⟩⟩

/-- Each lane's stack with a mark of s3 = 0xFFFFFFFF under one entry. -/
def marked : Gang := { gang0 with rem := (List.range 4).map fun l => (l, [⟨5, 1⟩, ⟨0x07FFFFFF, 0x1E⟩, ⟨6, 2⟩]) }

theorem witness_RemainderMarks : (∀ i ∈ [Instr.rsmark 3, .rsdep 1], Starts (at0 gang0) c0 gang0 i) ∧ hasRoom gang0 c0 ∧
    Starts (at0 marked) c0 marked (.rsdrop 3) ∧ Readable (at0 marked) marked c0 (fun _ => 0) ∧ ((at0 marked).tile 0).sq = [] ∧
    (∀ l, l ∈ lanes marked c0 → marked.remOf l = [⟨5, 1⟩] ++ ⟨marked.sreg 3 &&& 0x07FFFFFF, 0x1E⟩ :: [⟨6, 2⟩] ∧
      (⟨marked.sreg 3 &&& 0x07FFFFFF, 0x1E⟩ : Rem) ∉ ([⟨5, 1⟩] : List Rem)) :=
  ⟨starts_list (by decide +kernel), by unfold hasRoom; decide, starts0 (by decide +kernel),
    fun o ho => absurd ho (by rw [show marked.rsdepth = 0 from rfl]; omega), rfl, by decide⟩

theorem witness_RemainderMarks_trap : Starts (at0 gang0) c0 gang0 (.rsdrop 3) ∧ gang0.sup = false ∧ 0 ∈ lanes gang0 c0 ∧
    (⟨gang0.sreg 3 &&& 0x07FFFFFF, 0x1E⟩ : Rem) ∉ gang0.remOf 0 := ⟨starts0 (by decide +kernel), rfl, by decide, by decide⟩

theorem test_rsmark_pushes : (gotGang (exec (.rsmark 3) (at0 gang0))).remOf 0 = [⟨0x07FFFFFF, 0x1E⟩] := by decide
theorem test_rsdrop_frees : (gotGang (exec (.rsdrop 3) (at0 marked))).remOf 2 = [⟨6, 2⟩] := by decide
/-- The sum handed on: lane 3's word goes to the successor's FIFO. -/
theorem test_riadd_hands_on : (((got (exec (.riadd 1 2 3 3)
      (let a : Gang := { first [] with v := [(64, 5), (65, 1), (66, 2), (67, 3), (96, 4)] }; grove a (second [])))).gang? 0 1).getD gang0).fifo =
    [some 15] := by decide +kernel
theorem test_riadd_pushes : (gotGang (exec (.riadd 1 2 3 0) (at0 (vregs 0 0xFFFFFFFF 3)))).vreg 1 0 = 2 ∧
    (gotGang (exec (.riadd 1 2 3 0) (at0 (vregs 0 0xFFFFFFFF 3)))).remOf 0 = [⟨0, 7⟩] := by decide
theorem test_unniadd_of_wrong_class : (gotGang (exec (.unniadd 1 2 3) (at0 (stacked 5)))).trap.tcause = 0x06 ∧
    (gotGang (exec (.unniadd 1 2 3) (at0 (stacked 5)))).trap.tval = 0x705 := by decide

/-! ## Memory -/

/-- Virtual page 0x10000 at 0x20000, of context 0. -/
def page0 : Xlat := { ctx := 0, va := 0x10000, pa := 0x20000, size := 16, r := true, w := true, x := true, sc := false, zh := false }

/-- Lane `l` of v1 holds 16 l and s4 holds 512, offsets; s2:s3 = 0x10000, s6:s7 = 0, s8:s9 = 1, s10:s11 = 0x50000; the grove holds 4 KiB
of scratchpad; v2:v3 hold 0x10000 + 16 l, s14:s15 hold 0x10200; s12:s13 the first accumulator window. -/
def memGang : Gang :=
  { gang0 with
    sregs := [(2, 0x10000), (3, 0), (4, 512), (5, 0), (6, 0), (7, 0), (8, 1), (9, 0), (10, 0x50000), (11, 0), (12, 0), (13, 0xF001),
      (14, 0x10200), (15, 0)]
    v := [(32, 0), (33, 16), (34, 32), (35, 48), (64, 0x10000), (65, 0x10010), (66, 0x10020), (67, 0x10030), (96, 0), (97, 0), (98, 0),
      (99, 0)]
    scratch := 4096 }

/-- The device with that page in the tile's TLB. -/
def memState (g : Gang) : State := (at0 g).modTile 0 fun t => { t with tlb := [page0] }

theorem starts_mem {g : Gang} {i : Instr} (h : fits g i = true) (hs : g.markS = [] := by rfl) (hv : g.markV = [] := by rfl) :
    Starts (memState g) c0 g i := starts_of rfl rfl hs hv h

theorem starts_mem_all {g : Gang} {l : List Instr} {P : Instr → Bool} (h : l.all (fun i => fits g i && P i) = true)
    (hs : g.markS = [] := by rfl) (hv : g.markV = [] := by rfl) : ∀ i ∈ l, Starts (memState g) c0 g i ∧ P i = true := by
  intro i hi
  have := List.all_eq_true.1 h i hi
  rw [Bool.and_eq_true] at this
  exact ⟨starts_mem this.1 hs hv, this.2⟩

/-- Lane `l` of an access stands at 0x20000 + 16 l; of a scratchpad access at 16 l. -/
def placed (need : Nat) (f : MemForm) : Bool :=
  (f.addrs memGang c0).all fun x =>
    if f.scratch then decide (inScratch memGang f.width x.2 = .at_ (16 * x.1) false)
    else decide ((memState memGang).placeOf memGang 0 f.width need x.2 = .at_ (0x20000 + 16 * x.1) false)

theorem witness_LoadsIssue :
    ∀ i ∈ [Instr.ldB 1 5 1 2 0, .ldBs 1 5 1 2 0, .ldH 1 5 1 2 1, .ldHs 1 5 1 2 0, .ldW 1 5 1 2 0, .ldD 1 8 1 2 0, .ldQ 1 8 1 2 0,
        .ldAcqW 1 5 1 2, .sldW 1 5 4 2 0, .sldD 1 16 4 2 0, .sldAcq 1 5 4 2, .sldWPhys 1 5 4 2, .ldB 1 5 1 6 3, .ldBs 1 5 1 6 3,
        .ldH 1 5 1 6 3, .ldHs 1 5 1 6 3, .ldW 1 5 1 6 3, .ldD 1 8 1 6 3, .ldQ 1 8 1 6 3],
      Starts (memState memGang) c0 memGang i ∧ (loadForm memGang.sup i).any (placed 1) = true := starts_mem_all (by decide +kernel)

theorem witness_LoadsIssue_unlogged : unlogged (memState memGang) memGang ∧ lanesAt 1 2 memGang c0 ≠ [] := ⟨rfl, by decide⟩

/-- A load of line 0x800 that has not read it yet, and a store of another gang of the tile to the same bytes. -/
def unread : Pend :=
  { id := 0, slices := [0], left := List.replicate 8 0, dests := [.sreg 9], load := some { reg := 9, lanes := [], width := 4, signed := false, need := [0x800] } }
theorem witness_LoadsIssue_behind :
    (let g := { memGang with pend := [unread] };
      Starts (memState g) c0 g (.ldW 1 5 1 2 0) ∧ behindLoad g 4 (fun l => some (0x20000 + 16 * l)) (lanesAt 1 2 g c0)) ∧
    ∃ e : SqEntry, let s := (memState memGang).modTile 0 fun t => { t with sq := [e] };
      Starts s c0 memGang (.ldAcqW 1 5 1 2) ∧ behindOwn s memGang 4 (fun l => some (0x20000 + 16 * l)) (lanesAt 1 2 memGang c0) :=
  ⟨⟨starts_mem (by decide +kernel), (0, 0x10000), 0x20000, 0, by decide, rfl, by decide, unread, _, List.mem_singleton.2 rfl, by decide, rfl,
      by decide⟩,
    { seq := 0, slot := 3, gen := 0, launch := none, line := 0x800, req := .store [(0, 7)] false }, starts_of rfl rfl rfl rfl (by decide +kernel),
    (0, 0x10000), 0x20000, 0, _, by decide, rfl, by decide, List.mem_singleton.2 rfl, by decide, rfl⟩

theorem witness_StoresIssue :
    ∀ i ∈ [Instr.stB 5 1 2 0, .stH 5 1 2 0, .stW 5 1 2 1, .stD 8 1 2 0, .stQ 8 1 2 0, .stRelW 5 1 2, .sstW 5 4 2 0, .sstD 16 4 2 0,
        .sstRel 5 4 2, .sstWPhys 5 4 2, .stB 5 1 6 3, .stH 5 1 6 3, .stW 5 1 6 3, .stD 8 1 6 3, .stQ 8 1 6 3],
      Starts (memState memGang) c0 memGang i ∧ (storeForm memGang.sup i).any (placed 2) = true := starts_mem_all (by decide +kernel)

theorem witness_StoresIssue_room : Placed memGang c0 ∧ (∀ w, w ∈ [1, 2, 4, 8, 16] → ∀ l, l < 33 → (0x20000 + 16 * l) % w = 0) ∧
    ((memState memGang).tile 0).sqUsed + lineCount (lanesAt 1 2 memGang c0) (fun l => 0x20000 + 16 * l) ≤ 64 ∧
    (memGang.slice 0).phase = 0 := ⟨⟨rfl, rfl⟩, by decide, by decide, rfl⟩

/-- A release store that has passed its fence, and a store queue of 64 lines. -/
theorem witness_StoresIssue_full :
    let g : Gang := { memGang with slices := [{ pc := 0x1000, phase := 1 }] }
    let s := (memState g).modTile 0 fun t => { t with sq := (List.range 64).map fun n => { seq := n, slot := 0, gen := 0, launch := none, line := n, req := .store [] false } }
    Starts s c0 g (.stRelW 5 1 2) ∧ (g.slice 0).phase ≠ 0 ∧
      64 < (s.tile 0).sqUsed + lineCount (lanesAt 1 2 g c0) (fun l => 0x20000 + 16 * l) :=
  ⟨starts_of rfl rfl rfl rfl (by decide +kernel), by decide, by decide +kernel⟩

/-- The other lane row has stored at this tick, or at an earlier one. -/
theorem witness_StoresIssue_rows : memGang.pos.getD 0 < 4 ∧
    (((memState memGang).modTile 0 fun t => { t with rowOne := (0, [16]) }).tile 0).rowOne.1 = (memState memGang).gtc ∧
    ((memState memGang).tile 0).rowOne.1 ≠ { memState memGang with gtc := 5 }.gtc := by decide

/-- R244: bytes that lane row 1 has stored at this tick stay under a store of lane row 0. -/
theorem test_row_one_stays : ((got (exec (.stB 2 1 6 3) ((memState memGang).modTile 0 fun t => { t with rowOne := (0, [16]) }))).tile 0).scratchByte 16 = 0 ∧
    ((got (exec (.stB 1 1 6 3) ((memState memGang).modTile 0 fun t => { t with rowOne := (0, []) }))).tile 0).scratchByte 16 = 16 := by
  decide +kernel

theorem witness_AccessFaults :
    let s := memState memGang
    (Starts s c0 memGang (.ldW 1 5 1 8 0) ∧ lanesAt 1 8 memGang c0 = [] ++ (0, 1) :: (lanesAt 1 8 memGang c0).tail ∧
      s.placeOf memGang 0 4 1 1 = .fault 3 ∧ (∀ x, x ∈ lanesAt 1 8 memGang c0 → ∃ k, s.placeOf memGang 0 4 1 x.2 = .fault k)) ∧
    (Starts s c0 memGang (.stW 5 1 10 0) ∧ s.placeOf memGang 0 4 2 0x50000 = .miss 0x50000 false) ∧
    (Starts s c0 memGang (.ldW 1 5 1 2 3) ∧ inScratch memGang 4 0x10000 = .fault 5) :=
  ⟨⟨starts_mem (by decide +kernel), by decide, by decide, fun x hx => ⟨3, by revert x; decide⟩⟩,
    ⟨starts_mem (by decide +kernel), by decide⟩, starts_mem (by decide +kernel), by decide⟩

/-- The handler's gang, for the physical forms. -/
def handlerMem : Gang := { memGang with sup := true }

theorem witness_PhysicalAccess : handlerMem.sup = true ∧ Placed handlerMem c0 ∧
    (∀ i ∈ [Instr.sldWPhys 1 5 4 2, .sstWPhys 5 4 2, .sldWPhys 1 5 5 12, .sstWPhys 5 5 12],
      Starts (memState handlerMem) c0 handlerMem i ∧ true = true) ∧
    (let x := (handlerMem.sreg 3 ++ handlerMem.sreg 2) + (handlerMem.sreg 4).signExtend 64;
      x.toNat % 2 ^ 48 % 4 = 0 ∧ x.toNat < hbmSize) ∧
    (let x := (handlerMem.sreg 13 ++ handlerMem.sreg 12) + (handlerMem.sreg 5).signExtend 64;
      x.toNat % 2 ^ 48 % 4 = 0 ∧ isAccWindow (x.toNat % 2 ^ 48) = true) ∧ ((memState handlerMem).tile 0).sqUsed < 64 :=
  ⟨rfl, ⟨rfl, rfl⟩, starts_mem_all (by decide +kernel), by decide, by decide, by decide⟩

/-- s16:s17 name register v0 of slot 0 through tile 0's window, s18:s19 an offset there that names nothing, s20:s21 the same page but one. -/
def windowGang : Gang := { handlerMem with sregs := handlerMem.sregs ++ [(16, 0), (17, 0xF000), (18, 0x60000), (19, 0xF000), (20, 1), (21, 0)] }
def v0 : Dword := 0x0000F00000000000
theorem windowGang_at : (windowGang.sreg 17 ++ windowGang.sreg 16) + (windowGang.sreg 5).signExtend 64 = v0 := by decide

theorem witness_PhysicalAccess_windows :
    (∀ i ∈ [Instr.sldWPhys 1 5 5 16, .sstWPhys 4 5 16, .sldWPhys 1 5 5 18, .sstWPhys 5 5 18],
      Starts (memState windowGang) c0 windowGang i ∧ true = true) ∧
    v0.toNat % 2 ^ 48 % 4 = 0 ∧ isTileWindow (v0.toNat % 2 ^ 48) = true ∧ windowNamed v0 ∧
    (memState windowGang).windowPending v0 = false ∧ (memState windowGang).holds 0 = false ∧ windowKept (memState windowGang) v0 = true ∧
    windowKept (memState windowGang) (v0 + 0x8000) = false ∧ noRegion (v0 + 0x60000) ∧ windowGang.ended = false :=
  ⟨starts_mem_all (by decide +kernel), by decide, by decide, .inl (by decide), by decide, by decide, by decide, by decide,
    by unfold noRegion windowNamed; decide, rfl⟩

def pendingV0 : Gang := { windowGang with pend := [{ awaited 0 with dests := [.vreg 0], vals := [] }] }
def switchState : State := (memState windowGang).modTile 0 fun t => { t with switching := some (true, 9, 0) }

/-- A result for v0 whose window has ended, and a tile that switches. -/
theorem witness_PhysicalAccess_waits :
    Starts (memState pendingV0) c0 pendingV0 (.sldWPhys 1 5 5 16) ∧ (memState pendingV0).windowPending v0 = true ∧
    Starts (memState pendingV0) c0 pendingV0 (.sstWPhys 4 5 16) ∧ windowKept (memState pendingV0) v0 = true ∧
    windowWaits (memState pendingV0) c0 pendingV0 v0 ∧ ¬windowWaits (memState windowGang) c0 windowGang v0 ∧
    Starts switchState c0 windowGang (.sstWPhys 4 5 16) ∧ switchState.holds 0 = true :=
  ⟨starts_mem (by decide +kernel), by decide, starts_mem (by decide +kernel), by decide,
    ⟨0, .vreg 0, _, rfl, rfl, _, List.mem_singleton.2 rfl, List.mem_singleton.2 rfl, .inl rfl⟩,
    (fun ⟨slot, d, q, h, hq, p, hp, _⟩ => by cases h; cases hq; cases hp), starts_of rfl rfl rfl rfl (by decide +kernel), by decide⟩
/-- R13: the write stands over the result once this has come. -/
theorem test_window_write_waits :
    let g := { windowGang with pend := [{ awaited 0 with dests := [.vreg 0], vals := [(.vreg 0, 77)] }] };
    (gotGang (exec (.sstWPhys 4 5 16) (memState g))).vreg 0 0 = g.vreg 0 0 ∧
      (gotGang (exec (.sstWPhys 4 5 16) (memState g))).pend.map Pend.after = [[(.vreg 0, 512)]] := by decide +kernel

theorem test_window_write : (gotGang (exec (.sstWPhys 4 5 16) (memState windowGang))).vreg 0 0 = 512 ∧
    ((got (exec (.sstWPhys 4 5 16) ((memState windowGang).modTile 0 fun t => { t with slotGen := [(0, 7)] }))).tile 0).drop = 1 := by
  decide +kernel

theorem witness_AtomicsIssue :
    ∀ i ∈ [Instr.atom 0 4 2 0 0 1, .atom 3 4 2 1 9 1, .satom 0 16 0 0 14 0, .satom 1 16 1 9 14 0],
      Starts (memState memGang) c0 memGang i ∧ ((atomForm i).any fun f => (f.addrs memGang c0).all fun x =>
        decide ((memState memGang).placeOf memGang 0 4 3 x.2 = .at_ (0x20000 + 16 * x.1) false ∧ x.2.toNat < 2 ^ 51)) = true :=
  starts_mem_all (by decide +kernel)

theorem witness_AtomicsIssue_room : Placed memGang c0 ∧ ((memState memGang).tile 0).det.length + 4 ≤ 4096 ∧
    isHost (0x20000 + 16 * 32) = false ∧ unlogged (memState memGang) memGang ∧ covers 1 0x10000 0x20000 :=
  ⟨⟨rfl, rfl⟩, by decide, by decide, rfl, by unfold covers; decide⟩

/-- In DET mode an atomic without `.ret` is held. -/
theorem witness_AtomicsIssue_held :
    let g := { memGang with det := true }
    Starts (memState g) c0 g (.atom 0 4 2 0 0 1) ∧ (atomForm (.atom 0 4 2 0 0 1)).any (fun f => holds g f 0x20000) = true :=
  ⟨starts_mem (by decide +kernel), by decide⟩

theorem witness_OrderingAndHints :
    ∀ i ∈ [Instr.fenceRel 2, .fenceAcq 4, .fenceAr 3, .wata 5 4 2, .wake 2, .zfill 1 2, .pf 1 2, .pfL2 1 2],
      Starts (memState memGang) c0 memGang i ∧ true = true := starts_mem_all (by decide +kernel)

theorem witness_OrderingAndHints_places :
    let s := memState memGang
    (memGang.slice 0).phase = 0 ∧ isHost 0x20000 = false ∧ s.placeOf memGang 0 4 1 0x10000 = .at_ 0x20000 false ∧
      memGang.sreg 3 ++ memGang.sreg 2 = (0x10000 : Dword) ∧ s.placeOf memGang 0 1 1 0x10000 = .at_ 0x20000 false ∧
      (∀ x, x ∈ lanesAt 1 2 memGang c0 → s.placeOf memGang 0 1 2 x.2 = .at_ (0x20000 + 16 * x.1) false) ∧
      (∀ x, x ∈ lanesAt 1 2 memGang c0 → s.placeOf memGang 0 1 1 x.2 = .at_ (0x20000 + 16 * x.1) false) ∧
      s.readable 0 0x20000 1 = true ∧ ((s.modTile 0 fun t => { t with clist := [(0x800, 9)] }).readable 0 0x20000 1 = false) ∧
      s.homeWord s.gtc 0x20000 = memGang.sreg 5 ∧ s.homeWord s.gtc 0x20000 ≠ memGang.sreg 4 ∧ s.watchFull 0x20000 = false ∧
      unlogged s memGang ∧ (memGang.slice 0).budget = [] :=
  ⟨rfl, by decide, by decide, by decide, by decide, by decide, by decide, by decide, by decide, by decide, by decide, by decide, rfl, rfl⟩

/-- `wake` at a page that reads as zeros, and a `wata` whose kept budget has run out. -/
theorem witness_OrderingAndHints_zeros :
    let s := (at0 memGang).modTile 0 fun t => { t with tlb := [{ page0 with zh := true }] }
    Starts s c0 memGang (.wake 2) ∧ s.placeOf memGang 0 1 1 0x10000 = .zero ∧ s.framePlace memGang 0 0x10000 = some 0x20000 ∧
    ∃ e, (({ (gang0.slice 0) with budget := [(0x2000, 7), (0x1000, 0)] } : Slice).budget.find? fun b => b.1 == 0x1000).map Prod.snd = some e ∧ e ≤ s.gtc :=
  ⟨starts_of rfl rfl rfl rfl (by decide +kernel), by decide, by decide, 0, rfl, Nat.le_refl _⟩

theorem witness_OrderingAndHints_fenced :
    let g : Gang := { gang0 with slices := [{ pc := 0x1000, phase := 1 }] }
    Starts (at0 g) c0 g (.fenceAr 4) ∧ (g.slice 0).phase ≠ 0 := ⟨starts0 (by decide +kernel), by decide⟩

/-- The bytes of v4 that a store leaves in the queue, little-endian, the higher lane last. -/
theorem test_store_queued : ((got (exec (.stH 2 1 2 0) (memState memGang))).tile 0).sqByte 0x20011 = some (some 0) ∧
    ((got (exec (.stH 2 1 2 0) (memState memGang))).tile 0).sqByte 0x20010 = some (some 0x10) ∧
    ((got (exec (.stH 2 1 2 0) (memState memGang))).tile 0).sqByte 0x20012 = none := by decide +kernel
theorem test_scratch_store : ((got (exec (.stB 2 1 6 3) (memState memGang))).tile 0).scratchByte 32 = 0x20 := by decide +kernel
theorem test_misaligned_traps : (gotGang (exec (.ldW 1 5 1 8 0) (memState memGang))).trap.tcause = 0x03 ∧
    (gotGang (exec (.ldW 1 5 1 8 0) (memState memGang))).trap.tmask = 0xF := by decide +kernel
theorem test_wata_passes : ((gotGang (exec (.wata 5 4 2) (memState memGang))).slice 0).pc = 0x1004 := by decide +kernel
theorem test_wata_parks : ((gotGang (exec (.wata 5 5 2) (memState memGang))).slice 0).wait = .wata := by decide +kernel
/-- R190: a store serialised before the home read, its W at 90, ends the wait. -/
theorem test_wata_sees_coming_store :
    (got (exec (.wata 5 5 2) { memState memGang with homes := [(0x800, { lastW := 90, pending := [(80, [(60, 7)]), (90, [(0, 1)])] })] })).watches.map
      Watch.fired = [some 80] := by decide +kernel

/-! ## What the memory system does -/

/-- Tile 0 with one request of `gang0`, to line 16, under sequence number 3. -/
def requested (r : Req) (w : Option Nat) : SqEntry := { seq := 3, slot := 0, gen := 0, launch := none, line := 16, req := r, w := w }
def sending (e : SqEntry) : State :=
  { (at0 gang0).modTile 0 fun t => { t with sq := [e], nextSeq := 4 } with cur := none, subject := { slot := 3 }, gtc := 10 }

theorem witness_HomeActions :
    ∀ r ∈ [Req.store [(4, 7)] false, .wake, .atomic 0 5 0 4 none none],
      ((sending (requested r none)).tile 0).entry? 3 = some (requested r none) ∧
        (sending (requested r none)).canArrive 0 (requested r none) = true := by decide

theorem test_store_arrives : (got (exec .storeHomeArrival (sending (requested (.store [(4, 7)] false) none)))).homeByte 11 1028 = 7 ∧
    (got (exec .storeHomeArrival (sending (requested (.store [(4, 7)] false) none)))).homeByte 10 1028 = 0 := by decide +kernel
theorem test_atomic_add : (got (exec .atomicHome (sending (requested (.atomic 0 5 0 4 none none) none)))).homeByte 11 1028 = 5 := by
  decide +kernel

/-- Line 16 with two writes formed, one of them due. -/
def formed : State :=
  { State.reset with gtc := 10, subject := { unit := 16 }, homes := [(16, { lastW := 12, pending := [(9, [(4, 7)]), (12, [(5, 8)])] })] }

theorem witness_StoreApplyKeepsValues : (formed.home 16).pending.Pairwise (fun a b => a.1 ≤ b.1) ∧
    (∀ p, p ∈ (formed.home 16).pending → ∀ b, b ∈ p.2 → b.1 < 64) ∧
    (∀ p, p ∈ (formed.home 16).pending → (p.2.map Prod.fst).Nodup) := by decide

theorem witness_CompletionReturns :
    let e := requested (.store [(4, 7)] false) (some 11)
    ((sending e).tile 0).entry? 3 = some e ∧ e.w = some 11 ∧ (∀ x, x ∈ ((sending e).tile 0).sq → x.line = e.line → e.seq ≤ x.seq) ∧
      (sending e).gang? 0 0 = some gang0 ∧ gang0.gen = e.gen ∧ gang0.ended = false := by decide

/-- A load of two bytes at 1028 and one of a word with its bytes, for s5. -/
def loadPart (need : List Nat) : LoadPart :=
  { reg := 5, lanes := [⟨32, some 1028, 1028⟩], width := 4, signed := false, got := [(1028, 1), (1029, 2), (1030, 3), (1031, 4)], need := need,
    acquire := true, time := 8 }
def loading (need : List Nat) : Pend :=
  { id := 3, slices := [0], left := List.replicate 8 0, dests := [.sreg 5], load := some { loadPart need with got := if need = [] then (loadPart need).got else [] } }
def loadingState (need : List Nat) : State :=
  { at0 { gang0 with pend := [loading need] } with cur := none, subject := { part := 3, item := 16 }, gtc := 10 }

theorem witness_LoadsComplete_reads : ∃ g p l, (loadingState [16]).gang? 0 0 = some g ∧ g.pend.find? (fun p => p.id == 3) = some p ∧
    p.load = some l ∧ 16 ∈ l.need ∧ g.tile = 0 ∧ g.slot = 0 ∧
      ((loadingState [16]).tile 0).mayReadAt 10 16 l.since = true ∧ g.earlierLoad p.id 16 = false ∧
      (loadingState [16]).carries (16 * 64) = true ∧ (loadingState [16]).inTurn 16 0 = true ∧ 16 ∉ l.keep ∧ 16 ∈ { l with keep := [16] }.keep ∧
      ((loadingState [16]).tile 0).l1 = [] ∧ ((loadingState [16]).tile 0).sq = [] :=
  ⟨_, _, _, rfl, rfl, rfl, by decide, rfl, rfl, by decide, by decide, by decide, by decide, by decide, by decide, rfl, rfl⟩

theorem witness_LoadsComplete_returns : ∃ g p l, (loadingState []).gang? 0 0 = some g ∧ g.pend.find? (fun p => p.id == 3) = some p ∧
    p.load = some l ∧ p.returned = false ∧ l.need = [] ∧ g.pend = [p] ∧ p.engine = false ∧
      p.dests = loadKeys l.reg l.width (l.lanes.map fun x => (x.lane, x.addr)) ∧ (l.lanes.map LaneAt.lane).Nodup ∧
      (∀ x, x ∈ l.lanes → x.lane ≤ 32) ∧ (∀ d, d ∈ p.dests → p.due d = true) :=
  ⟨_, _, _, rfl, rfl, rfl, rfl, rfl, rfl, rfl, by decide, by decide, by decide, by decide⟩

/-- R233: a tile with a lower number than the last requester of this tick waits for the next one. -/
theorem test_requester_order :
    let s := (loadingState [16]).modHome 16 fun h => h.took 10 5
    (s.inTurn 16 5, s.inTurn 16 0, { s with gtc := 11 }.inTurn 16 0) = (true, false, true) := by decide

theorem test_load_little_endian : (gotGang (exec .loadReturn (loadingState []))).sreg 5 = 0x04030201 := by decide +kernel

/-- The gang's code page is translated and its line is not in the cluster's cache, or is, with `word` first. -/
def codePage : Xlat := { ctx := 0, va := 0, pa := 0, size := 16, r := true, w := false, x := true, sc := false, zh := false }
def fetching (g : Gang) (lines : List CacheLine) : State :=
  (at0 g).modCluster 0 fun k => { k with tlb := [codePage], icache := lines }

theorem witness_CopiesAndInstructionLines :
    let s := { fetching gang0 [] with cur := none }
    s.gang? 0 0 = some gang0 ∧ Leads gang0 c0 ∧ s.fetches gang0 0 = true ∧
      s.place 0 (gang0.walked.filter fun w => w.slice == 0) gang0.ctx (s.fetchAddr gang0 0) 4 = .at_ 0x1000 false ∧ isHost 0x1000 = false ∧
      cacheHit (s.cluster 0).icache (0x1000 / 64) s.gtc = none ∧ s.carries 0x1000 = true ∧ s.inTurn (0x1000 / 64) 0 = true := by
  decide +kernel

def walking (clear : Bool) (from_ : Option Nat) (entry : Option (Nat × Dword)) : State :=
  { at0 gang0 with cur := none, walks := [{ ctx := 0, va := 0x10000, clear := clear, waiters := [c0], from_ := from_, entry := entry }], gtc := 5 }

theorem witness_WalksAndClearing : (∃ w, (walking false none none).walks[0]? = some w ∧ w.clear = false ∧ c0 ∈ w.waiters ∧
      (walking false none none).gang? 0 0 = some gang0 ∧ (walking false none none).walkRuns 0 = true) ∧
    (∃ w, (walking true none none).walks[0]? = some w ∧ w.clear = true ∧ w.from_ = none) ∧
    ∀ e ∈ [none, some (0x130008, 0)], ∃ w, (walking true (some 5) e).walks[0]? = some w ∧ w.clear = true ∧ w.from_ = some 5 ∧
      5 ≤ (walking true (some 5) e).gtc ∧ w.entry = e :=
  ⟨⟨_, rfl, rfl, by decide, rfl, by decide⟩, ⟨_, rfl, rfl, rfl⟩, fun _ _ => ⟨_, rfl, rfl, rfl, Nat.le_refl 5, rfl⟩⟩

/-- A page table of four levels in memory that maps page 0x10000 to 0x50000, readable, writable, with the zero hint (Tables 17.2, 17.3). -/
def tables : Sparse Byte :=
  [(0x100000, 0x01), (0x100001, 0x00), (0x100002, 0x11), (0x110000, 0x01), (0x110002, 0x12), (0x120000, 0x01), (0x120002, 0x13),
    (0x130008, 0x2F), (0x13000A, 0x05)]
def tabled : State := { (walking true none none).modCtx 0 fun k => { k with root := 0x100000 } with mem := tables }

theorem witness_WalksAndClearing_page : ∃ x entry, tabled.walkTable 0 0x10000 = .ok x ∧
    tabled.leafAt 0x10000 4 (tabled.ctx 0).root = some entry ∧ x.zh = true ∧ x.pa % 64 = 0 :=
  ⟨{ ctx := 0, va := 0x10000, pa := 0x50000, size := 16, r := true, w := true, x := false, sc := false, zh := true }, 0x130008,
    by decide +kernel, by decide +kernel, rfl, rfl⟩

/-- R306: once the frame's zeros are in force, the hint is cleared in the entry that still holds what the walk read. -/
def hinted (old : Dword) : State := got (exec .zeroPageClear { walking true (some 5) (some (0x130008, old)) with mem := tables })
theorem test_clearing_clears_the_hint :
    (hinted 0x5002F).homeByte 100 0x130008 = 0x0F ∧ (hinted 0x5002E).homeByte 100 0x130008 = 0x2F := by decide +kernel

/-- The gang's slice 0 waits; what came before a fence is what precedes `mark`. -/
def waiting (w : Wait) (b : List (Dword × Nat)) : Gang := { gang0 with slices := [{ pc := 0x1000, wait := w, budget := b, mark := (4, 0) }] }
def waitState (g : Gang) : State := { at0 g with cur := none, gtc := 20 }

theorem witness_WaitsEnd_fence : ∀ n, n ≤ 4 →
    waitOver (waitState (waiting (.fence n true) [])) (waiting (.fence n true) []) n (4, 0) ∧
      (waiting (.fence n true) []).pos ≠ none ∧ (waitState (waiting (.fence n true) [])).runs (waiting (.fence n true) []) = true :=
  fun n _ => ⟨⟨nofun, fun _ => ⟨nofun, by show 0 + _ ≤ 20; split <;> decide⟩, fun _ => nofun⟩, nofun, rfl⟩

theorem witness_WaitsEnd_wata :
    let g := waiting .wata [(0x1000, 15)]
    let s := { waitState g with watches := [{ line := 16, since := 3, tile := 0, slot := 0, slice := 0, fired := some 12 }] }
    s.gang? 0 0 = some g ∧ (g.slice 0).wait = .wata ∧ (g.slice 0).budget.find? (fun b => b.1 == (g.slice 0).pc) = some ((g.slice 0).pc, 15) ∧ 15 ≤ s.gtc ∧
      ∃ w t, w ∈ s.watches ∧ w.launch = none ∧ w.tile = 0 ∧ w.slot = 0 ∧ w.slice = 0 ∧ w.fired = some t ∧ t ≤ s.gtc :=
  ⟨rfl, rfl, rfl, by decide, _, _, List.mem_singleton.2 rfl, rfl, rfl, rfl, rfl, rfl, by decide⟩

/-- The tile is awake. -/
theorem witness_WaitsEnd_awake : ((waitState gang0).tile 0).dorm ≠ .dormant ∧ ((waitState gang0).tile 0).dorm ≠ .waking := by decide

theorem witness_WaitsEnd_handon : ((waiting .handon []).slice 0).wait = .handon ∧
    mayTake (waitState (waiting .handon [])) (waiting .handon []) := ⟨rfl, .inr (.inr (by decide))⟩

/-- Window addresses of tile 0 (R11): v1 of lane 2 and s5 in slot 0; generation `gen`. -/
def windowV (gen : BitVec 16) : Dword := gen ++ (0xF00000000000 + 128 + 8 : BitVec 48)
def windowS (gen : BitVec 16) : Dword := gen ++ (0xF00000000000 + 0x40000 + 20 : BitVec 48)

theorem witness_WindowsAndHost : isTileWindow ((windowV 0).toNat % 2 ^ 48) = true ∧ (windowV 0).toNat % 2 ^ 48 % 4 = 0 ∧
    (at0 gang0).holds 0 = false ∧ (waitState gang0).cur = none ∧ (waitState gang0).holds 0 = false ∧
    (waitState gang0).windowOk 0 ((windowV 0).extractLsb' 48 16) (windowPart ((windowV 0).toNat % 2 ^ 48 % 0x100000)) = true ∧
    (waitState gang0).windowOk 0 ((windowS 0).extractLsb' 48 16) (windowPart ((windowS 0).toNat % 2 ^ 48 % 0x100000)) = true ∧
    (waitState gang0).windowOk 0 ((windowV 1).extractLsb' 48 16) (windowPart ((windowV 1).toNat % 2 ^ 48 % 0x100000)) = false ∧
    ((waitState gang0).modTile 0 fun t => { t with switching := some (true, 1, 0) }).holds 0 = true ∧
    (at0 gang0).windowOk 0 ((windowV 0).extractLsb' 48 16) (windowPart ((windowV 0).toNat % 2 ^ 48 % 0x100000)) = true ∧
    windowPart ((windowV 0).toNat % 2 ^ 48 % 0x100000) = .vector 0 1 2 ∧
    (at0 gang0).windowOk 0 ((windowS 0).extractLsb' 48 16) (windowPart ((windowS 0).toNat % 2 ^ 48 % 0x100000)) = true ∧
    windowPart ((windowS 0).toNat % 2 ^ 48 % 0x100000) = .scalar 0 5 ∧
    (at0 gang0).windowOk 0 ((windowV 1).extractLsb' 48 16) (windowPart ((windowV 1).toNat % 2 ^ 48 % 0x100000)) = false ∧
    ((at0 gang0).modTile 0 fun t => { t with switching := some (true, 1, 0) }).holds 0 = true ∧
    (((at0 gang0).modTile 0 fun t => { t with dorm := .sealing }).tile 0).dorm ≠ .active := by decide

theorem witness_WindowsAndHost_host : ∃ h : HostStore, h.tile = 0 ∧ h.slot = 0 ∧ h.w = some 3 ∧ 3 ≤ (waitState gang0).gtc :=
  ⟨{ tile := 0, slot := 0, gen := 0, launch := none, seq := 1, line := 0, w := some 3 }, rfl, rfl, rfl, by decide⟩

/-- A result for v1 of lane 2, and one for s5, whose windows have ended; none for others. -/
theorem witness_WindowsAndHost_after :
    (let g : Gang := { gang0 with pend := [{ awaited 0 with dests := [.vreg 34, .sreg 5], vals := [] }] };
      inFlight g [] (.vreg (1 * 32 + 2)) ∧ inFlight g [] (.sreg 5)) ∧ ¬inFlight gang0 [] (.vreg (1 * 32 + 2)) ∧ ¬inFlight gang0 [] (.sreg 5) :=
  ⟨⟨⟨_, List.mem_singleton.2 rfl, by decide, .inl rfl⟩, _, List.mem_singleton.2 rfl, by decide, fun j hj => .inl (by
    revert j; decide)⟩, fun ⟨p, hp, _⟩ => (by cases hp), fun ⟨p, hp, _⟩ => by cases hp⟩

/-- A word of an allocation of tile 0's scratchpad, of its granule's generation. -/
def windowB : Dword := 0x0000F00000080040
def allocated : State :=
  (waitState gang0).modTile 0 fun t => { t with allocs := [{ base := 0, bytes := 4096, launch := 0, grove := 0, gen := 0 }] }
theorem witness_WindowsAndHost_scratch : isTileWindow (windowB.toNat % 2 ^ 48) = true ∧ windowB.toNat % 2 ^ 48 % 4 = 0 ∧
    allocated.windowOk 0 (windowB.extractLsb' 48 16) (windowPart (windowB.toNat % 2 ^ 48 % 0x100000)) = true ∧
    windowPart (windowB.toNat % 2 ^ 48 % 0x100000) = .scratch 0x40 := by decide
theorem test_window_scratch : ((got (exec (.windowWriteArrival windowB 0x01020304) allocated)).tile 0).scratchByte 0x42 = 2 := by decide +kernel

theorem test_window_arrival : (gotGang (exec (.windowWriteArrival (windowV 0) 9) (at0 gang0))).vreg 1 2 = 9 ∧
    ((got (exec (.windowWriteArrival (windowV 1) 9) (at0 gang0))).tile 0).drop = 1 ∧
    ((got (exec (.windowWriteArrival (windowV 0) 9) ((at0 gang0).modTile 0 fun t => { t with dorm := .dormant }))).tile 0).latch = true := by
  decide +kernel

/-! ## Control -/

theorem witness_ControlFlow : ∀ i ∈ [Instr.nop, .bCond 14 5, .bCond 1 0xFFFFF, .call 1, .ret, .jmp 2], Starts (at0 gang0) c0 gang0 i :=
  starts_list (by decide +kernel)

/-- A gang at the greatest call depth and one at depth 0; jump targets 0x8000, 0x8002 and 2^52. -/
theorem witness_ControlFlow_cases :
    (({ gang0 with slices := [{ pc := 0x1000, cdepth := 0xFFFF }] } : Gang).slice 0).cdepth = 0xFFFF ∧ (gang0.slice 0).cdepth = 0 ∧
      gang0.sup = false ∧ condition 14 (gang0.slice 0).fl ∧ ¬condition 0 (gang0.slice 0).fl ∧
      (let x : Dword := (sregs 0x8000 0).sreg 3 ++ (sregs 0x8000 0).sreg 2; x.toNat % 4 = 0 ∧ x.toNat < 2 ^ 52) ∧
      (let x : Dword := (sregs 0x8002 0).sreg 3 ++ (sregs 0x8002 0).sreg 2; x.toNat % 4 ≠ 0) ∧
      (let x : Dword := (sregs 0 0x100000).sreg 3 ++ (sregs 0 0x100000).sreg 2; x.toNat % 4 = 0 ∧ 2 ^ 52 ≤ x.toNat) :=
  ⟨rfl, rfl, rfl, trivial, nofun, by decide, by decide, by decide⟩

theorem test_call_and_link : ((gotGang (exec (.call 0x10) (at0 gang0))).slice 0).pc = 0x1040 ∧
    ((gotGang (exec (.call 0x10) (at0 gang0))).slice 0).link = 0x1004 := by decide
theorem test_branch_back : ((gotGang (exec (.bCond 1 0xFFFFF) (at0 gang0))).slice 0).pc = 0xFFC := by decide
theorem test_ret_at_depth_0 : (gotGang (exec .ret (at0 gang0))).trap.tcause = 1 := by decide

/-- The line at 0x1000 with a repeat prefix's body, the word `w`, second. -/
def bodyLine (w : Word) : CacheLine :=
  { line := 64, bytes := List.replicate 4 0 ++ bytesOfNat 4 w.toNat ++ List.replicate 56 0, grant := 0, expiry := 1000000 }

/-- The `k`-th of five additions, each over registers one further. -/
def addition (k : Nat) : Instr := .iaddV (BitVec.ofNat 6 (1 + k)) (BitVec.ofNat 6 (2 + k)) (BitVec.ofNat 6 (3 + k)) 0

theorem steppedAdds : ∀ k : Fin 5, Claims.Stepped (encode (.rep 4 7 0)) (encode (addition 0)) k (encode (addition k)) ∧
    (decode (encode (addition k))).toOption = some (addition k) ∧
    ((Instr.regs (addition k)).rv ++ (Instr.regs (addition k)).wv).all (fun n => decide (n < 64)) = true ∧
    (Instr.regs (addition k)).rs ++ (Instr.regs (addition k)).ws = [] := by
  unfold Claims.Stepped fieldPlaces
  dsimp only
  decide +kernel

/-- The five additions, and a body that may not be repeated. -/
theorem witness_RepeatPrefix_pair : Pair gang0 (encode (.rep 4 7 0)) (encode (addition 0)) ∧ ¬Pair gang0 (encode (.rep 4 7 0)) 0 := by
  refine ⟨⟨by decide, by decide, fun _ => by unfold namesD; decide, fun _ => by unfold namesA; decide, fun _ => by unfold namesB; decide,
    fun k hk => ?_⟩, fun h => absurd h.1 (by decide)⟩
  obtain ⟨h1, h2, h3, h4⟩ := steppedAdds ⟨k, hk⟩
  have h2 : decode (encode (addition k)) = .ok (addition k) := by
    revert h2
    dsimp only
    cases decode (encode (addition k)) <;> simp [Except.toOption]
  exact ⟨_, _, h1, h2, fun n hn => of_decide_eq_true (List.all_eq_true.1 h3 n hn), fun n hn => by rw [h4] at hn; cases hn⟩

theorem witness_RepeatPrefix :
    let w := encode (.iaddV 1 2 3 0)
    let i : Instr := .rep 4 7 0
    Starts (fetching gang0 [bodyLine w]) c0 gang0 i ∧ (fetching gang0 [bodyLine w]).fetch 0 gang0 0 (away (gang0.slice 0).pc 4) = .word w ∧
      gang0.pairOk (encode i) w = true ∧
      (fetching gang0 [bodyLine 0]).fetch 0 gang0 0 (away (gang0.slice 0).pc 4) = .word 0 ∧ gang0.pairOk (encode i) 0 = false ∧
      (fetching gang0 []).fetch 0 gang0 0 (away (gang0.slice 0).pc 4) = .missing :=
  ⟨starts_of rfl rfl rfl rfl (by decide +kernel), by decide +kernel, by decide +kernel, by decide +kernel, by decide +kernel,
    by decide +kernel⟩

theorem witness_RepeatPrefix_fault :
    let g := { gang0 with walked := [⟨0, 0x1004, .fault 5⟩] }
    (at0 g).fetch 0 g 0 (away (g.slice 0).pc 4) = .fault 5 := by decide +kernel

/-- `gang2` whose guard p1 is false in slice 1. -/
def guarded : Gang :=
  { gang2 with slices := [{ pc := 0x1000, mode := 1 }, { pc := 0x1000, mode := 1 }], p := (List.range 4).map fun l => (32 + l, true) }

theorem witness_Divergence_branches : Starts (at0 guarded) c0 guarded (.bMz 4) ∧ Starts (at0 guarded) c0 guarded (.bMa 4) :=
  ⟨starts0 (by decide +kernel), starts0 (by decide +kernel)⟩

theorem test_branch_parts : ((gotGang (exec (.bMz 4) (at0 guarded))).slice 0).pc = 0x1004 ∧
    ((gotGang (exec (.bMz 4) (at0 guarded))).slice 1).pc = 0x1010 ∧ (gotGang (exec (.bMz 4) (at0 guarded))).parted = true := by
  decide +kernel

/-- Two groups; slice 1 waits for slice 0 at the rendezvous of slice 0. -/
def meeting : Gang :=
  { gang2 with
    slices := [{ pc := 0x1000 }, { pc := 0x1000, grp := 1, wait := .regang, phase := 1 + 3 + 256 * 7 }], sregs := [(4, 3)] }
/-- The same before slice 1 has come. -/
def early : Gang := { meeting with slices := [{ pc := 0x1000 }, { pc := 0x2000, grp := 1 }] }

theorem witness_Divergence_regang : Starts (at0 meeting) c0 meeting (.regang 6 4) ∧ Leads meeting c0 ∧
    Starts (at0 early) c0 early (.regang 6 4) ∧ Leads early c0 ∧ (early.sreg 4).toNat % 256 = 3 ∧ (early.slice 1).live = true ∧
    (early.slice 1).wait ≠ .regang ∧
    (meeting.liveSlices.filter fun j => j ∈ meeting.group 0 ∨ ((meeting.slice j).wait = .regang ∧ (meeting.slice j).pc = 0x1000)) = [0, 1] :=
  ⟨starts0 (by decide +kernel), rfl, starts0 (by decide +kernel), rfl, by decide, rfl, by decide, by decide⟩

/-- A unified gang of two slices: the mask of both. -/
theorem witness_Divergence_unified : Starts (at0 gang2) c0 gang2 (.regang 6 4) ∧ Leads gang2 c0 ∧ gang2.parted = false ∧
    gang2.liveSlices = [0, 1] := ⟨starts0 (by decide +kernel), rfl, by decide, by decide⟩
theorem test_regang_unified : (gotGang (exec (.regang 6 4) (at0 gang2))).sreg 6 = 3 := by decide +kernel

theorem test_regang_merges : (gotGang (exec (.regang 6 4) (at0 meeting))).sreg 6 = 3 ∧
    (gotGang (exec (.regang 6 4) (at0 meeting))).parted = false := by decide +kernel

/-- A launch of one grove with its one gang. -/
def launch0 : Launch :=
  { ctx := 0, flags := 0, code := 0x1000, groves := 1, shape := 0, scratch := 0, banners := 0, afters := [], claims := [],
    completeAt := 0x30000, state := .running, postedAt := 0, next := 1, number := 0,
    placed := [{ index := 0, tile := 0, slots := [0], alloc := false }] }
def launched (g : Gang) : Gang := { g with launch := some 0 }
def launchState (g : Gang) : State := { at0 (launched g) with launches := [(0, launch0)], nextLaunch := 1 }

theorem starts_launch {g : Gang} {i : Instr} (h : fits (launched g) i = true) (hs : g.markS = [] := by rfl) (hv : g.markV = [] := by rfl) :
    Starts (launchState g) c0 (launched g) i := starts_of rfl rfl hs hv h

theorem witness_ExitEnds : Starts (launchState gang0) c0 (launched gang0) .exit ∧ gang0.ended = false ∧
    (∀ j, j ∈ (launched gang0).liveSlices → j ∈ (launched gang0).group 0) ∧ (launchState gang0).launch? 0 = some launch0 ∧
    Starts (at0 parted2) c0 parted2 .exit ∧ (∃ j, j ∈ parted2.liveSlices ∧ j ∉ parted2.group 0 ∧ (parted2.slice j).wait ≠ .regang) :=
  ⟨starts_launch (by decide +kernel), rfl, by decide, rfl, starts0 (by decide +kernel), 1, by decide, by decide, by decide⟩

/-- The second gang waits for what the first hands on. -/
theorem witness_ExitEnds_releases :
    let k : Gang := { second [] with slices := [{ pc := 0x1000, wait := .handon }] }
    let s := { grove (first []) k with launches := [(0, launch0)] }
    Starts s c0 (first []) .exit ∧ (∀ j, j ∈ (first []).liveSlices → j ∈ (first []).group 0) ∧ s.launch? 0 = some launch0 ∧
      s.successor (first []) = some k ∧ k.fifo = [] ∧ s.gang? k.tile k.slot = some k ∧ gkey k.tile k.slot ≠ gkey 0 0 :=
  ⟨starts_of rfl rfl rfl rfl (by decide +kernel), by decide, rfl, by decide, rfl, by decide, by decide⟩
theorem test_exit_releases :
    let k : Gang := { second [] with slices := [{ pc := 0x1000, wait := .handon }] }
    (((got (exec .exit { grove (first []) k with launches := [(0, launch0)] })).gang? 0 1).getD gang0).slices.map Slice.cut = [true] := by
  decide +kernel

/-- Slice 1 waits in `regang`, into s7, for slice 0, which exits; slice 2 is elsewhere, and waits for a slice that has not come. -/
def parting : Gang :=
  { gang2 with
    nsl := 4, slices := [{ pc := 0x2000 }, { pc := 0x1000, grp := 1, wait := .regang, phase := 1 + 3 + 256 * 7 },
      { pc := 0x3000, grp := 2, wait := .regang, phase := 1 + 0xC + 256 * 8 }, { pc := 0x4000, grp := 3 }] }
theorem witness_ExitEnds_meets : Starts (at0 parting) c0 parting .exit ∧ (∃ j, j ∈ parting.liveSlices ∧ j ∉ parting.group 0) ∧
    allCome parting (parting.group 0) 0x1000 ∧ ¬allCome parting (parting.group 0) 0x3000 ∧ meetDest parting (parting.group 0) 0x1000 = 7 := by
  refine ⟨starts0 (by decide +kernel), ⟨1, by decide, by decide⟩, ⟨by decide, ?_⟩, fun h => ?_, by decide⟩
  · have h : regangWaiters parting (parting.group 0) 0x1000 = [1] := by decide
    intro j k hj hk hb
    rw [h] at hj ⊢
    cases List.mem_singleton.1 hj
    revert k
    decide
  · have h1 := h.2 2 3 (by decide) (by decide) (by decide)
    revert h1
    decide
theorem test_exit_meets : (gotGang (exec .exit (at0 parting))).sreg 7 = 2 ∧ ((gotGang (exec .exit (at0 parting))).slice 1).pc = 0x1004 ∧
    ((gotGang (exec .exit (at0 parting))).slice 2).wait = .regang := by decide +kernel

/-- R62: a physical access of the handler at a misaligned address, s8:s9 = 1. -/
theorem witness_PhysicalAccess_kills : Starts (launchState handlerMem) c0 (launched handlerMem) (.sldWPhys 1 5 5 8) ∧
    Starts (launchState handlerMem) c0 (launched handlerMem) (.sstWPhys 1 5 8) ∧ (launched handlerMem).sup = true ∧
    Placed (launched handlerMem) c0 ∧ (launched handlerMem).ended = false ∧
    ((handlerMem.sreg 9 ++ handlerMem.sreg 8 : Dword) + (handlerMem.sreg 5).signExtend 64).toNat % 2 ^ 48 % 4 ≠ 0 ∧
    (launched handlerMem).launch = some 0 ∧ (launchState handlerMem).launch? 0 = some launch0 :=
  ⟨starts_launch (by decide +kernel), starts_launch (by decide +kernel), rfl, ⟨rfl, rfl⟩, rfl, by decide, rfl, rfl⟩

theorem witness_SoftwareTraps : ∀ i ∈ [Instr.ecall 5, .trap 6, .brk 7, .illegalInstruction 0xFFFFFFFF],
    Starts (at0 gang0) c0 gang0 i := starts_list (by decide +kernel)

theorem witness_SoftwareTraps_kill : Starts (launchState handler0) c0 (launched handler0) (.ecall 5) ∧ handler0.sup = true ∧
    Placed (launched handler0) c0 ∧ (launched handler0).launch = some 0 ∧ (launchState handler0).launch? 0 = some launch0 :=
  ⟨starts_launch (by decide +kernel), rfl, ⟨rfl, rfl⟩, rfl, rfl⟩

theorem test_ecall_enters : ((gotGang (exec (.ecall 5) (at0 gang0))).slice 0).pc = 0x340 ∧
    (gotGang (exec (.ecall 5) (at0 gang0))).trap.tval = 5 ∧ (gotGang (exec (.ecall 5) (at0 gang0))).sup = true := by decide +kernel

theorem witness_TrapReturns : (∀ i ∈ [Instr.tret, .tretSkip, .tkillGang, .tkillGrove], Starts (at0 gang0) c0 gang0 i) ∧
    (∀ i ∈ [Instr.tret, .tretSkip], Starts (at0 handler0) c0 handler0 i) ∧ handler0.sup = true ∧
    Starts (launchState handler0) c0 (launched handler0) .tkillGang ∧ Starts (launchState handler0) c0 (launched handler0) .tkillGrove :=
  ⟨starts_list (by decide +kernel), starts_list (by decide +kernel), rfl, starts_launch (by decide +kernel),
    starts_launch (by decide +kernel)⟩

theorem test_tret_is_privileged : (gotGang (exec .tret (at0 gang0))).trap.tcause = 2 := by decide +kernel
theorem test_tret_returns :
    let g := { handler0 with trap := { slicepc := 0x4000 :: List.replicate 7 0, tmode := 0x8, tscc := 2 } }
    ((gotGang (exec .tret (at0 g))).slice 0).pc = 0x4000 ∧ ((gotGang (exec .tretSkip (at0 g))).slice 0).pc = 0x4004 ∧
      ((gotGang (exec .tret (at0 g))).slice 0).mode = 0x8 ∧ ((gotGang (exec .tret (at0 g))).slice 0).fl.n = true := by decide +kernel

theorem witness_ModeWrites : ∀ i ∈ [Instr.setmode 2, .msetGp 7, .msetEt 60, .msetRm 4], Starts (at0 gang0) c0 gang0 i :=
  starts_list (by decide +kernel)

theorem witness_ModeWrites_words : modeAccepted 0x3F00F1E7 ∧ ¬modeAccepted 0x58 ∧ modeAccepted (replaced 0 0 3 7) ∧
    ¬modeAccepted (replaced 0 9 3 5) := by unfold modeAccepted; decide

theorem witness_GearChanges_requests : Starts (at0 gang0) c0 gang0 .gear0 ∧ Starts (at0 gang0) c0 gang0 .gear1 ∧
    ((at0 gang0).tile 0).switching = none ∧ ((at0 gang0).tile 0).gear = false ∧ ((at0 gang0).ctx 0).cap = false ∧
    (((at0 gang0).modCtx 0 fun k => { k with cap := true }).ctx 0).cap = true ∧
    (((at0 gang0).modTile 0 fun t => { t with switching := some (true, 1, 0) }).tile 0).switching ≠ none :=
  ⟨starts0 (by decide +kernel), starts0 (by decide +kernel), rfl, rfl, rfl, rfl, by decide⟩

def switchingState : State :=
  { (at0 gang0).modTile 0 fun t => { t with switching := some (true, 1, 0), holder := some 0 } with cur := none }

theorem witness_GearChanges_switch : (switchingState.tile 0).switching = some (true, 1, 0) ∧
    (switchingState.ctx ((switchingState.tile 0).holder.getD 0)).loglim = 0 ∧ (switchingState.cluster 0).relock = none ∧
    (∀ g, g ∈ switchingState.gangsOf 0 → ∀ y, y ∈ g.slices → y.wait ≠ .spill ∧ y.wait ≠ .refill) ∧
    (switchingState.tile 0).request = none ∧ (switchingState.tile 0).lift = false ∧ (switchingState.tile 0).dorm = .active ∧
    (switchingState.ctx 0).slack.k ≠ 16 ∧ (switchingState.tile 0).held = [] := by decide +kernel

/-- A gang in a SINK banner's wait on a tile in gear 1. -/
def sinkGang : Gang := { launched gang0 with slices := [{ pc := 0x1000, wait := .barrier 3 }] }
def sinkState (gear : Bool) (arrived : Option Bool) : State :=
  { (at0 sinkGang).modTile 0 fun t => { t with gear := gear, holder := some 0 } with
    cur := none, subject := { slot := if gear then 0 else 3 }
    launches := [(0, { launch0 with
      banner := [(3, { sink := true, count := 1, live := 1 })], members := [{ gang := 0, banner := 3, arrived := arrived }] })] }

theorem witness_GearChanges_sink :
    let s := sinkState true (some false)
    (s.tile 0).holder = some 0 ∧ (s.tile 0).gear = true ∧ (s.tile 0).switching = none ∧ (s.ctx 0).cap = false ∧ (s.ctx 0).slack.k ≠ 16 ∧
      s.gangsOf 0 = [sinkGang] ∧ sinkGang.leaders = [0] ∧ (sinkGang.slice 0).wait = .barrier 3 ∧ sinking s sinkGang 3 ∧
      (∃ y m, s.launch? 0 = some y ∧ y.members.find? (fun m => m.gang == sinkGang.number && m.banner == 3) = some m ∧ m.completed = none) :=
  ⟨rfl, rfl, rfl, rfl, by decide, by decide +kernel, by decide, rfl, ⟨0, _, _, rfl, rfl, rfl, rfl⟩, _, _, rfl, rfl, rfl⟩

theorem witness_GearChanges_lift :
    let s := sinkState false none
    ∃ l x, s.launch? 0 = some l ∧ Sparse.find? l.banner 3 = some x ∧ x.lifted = false ∧ (s.ctx l.ctx).st = .running ∧
      (∀ m, m ∈ l.members → m.banner = 3 → m.arrived = none → ∃ v, l.placed.find? (fun v => v.index == m.gang / l.ng) = some v ∧ (s.tile v.tile).gear = false ∧
        (s.tile v.tile).switching = none) := by
  refine ⟨_, _, rfl, rfl, rfl, rfl, fun m hm _ _ => ?_⟩
  cases List.mem_singleton.1 hm
  exact ⟨_, rfl, rfl, rfl⟩

theorem witness_WaitsAndPennants : ∀ i ∈ [Instr.waitc 0 0, .pnset 7 2, .pnclr 1, .flush, .logw 2], Starts (at0 gang0) c0 gang0 i :=
  starts_list (by decide +kernel)

/-- A command in a queue, a held atomic, and a recording context. -/
def cmd0 (op : CmdOp) : Cmd := { op := op, params := [], status := 9, pend := 0 }
def held0 : Held := { launch := 0, slot := 0, gen := 0, grove := 0, gang := 0, lane := 0, seq := 0, loc := 0x20000, op := 0, x := 1, y := 0 }

theorem witness_WaitsAndPennants_cases :
    (0 : Nat) < ({ gang0 with queues := [[cmd0 .mma], [], [], []] }.queues.getD 0 []).length ∧ (7 : BitVec 3).toNat < gang0.pnst.length ∧
      (∃ e, e ∈ (((at0 gang0).modTile 0 fun t => { t with det := [held0] }).tile 0).det ∧ (e.slot == 0 && e.gen == gang0.gen) = true) ∧
      (let s := (at0 gang0).modCtx 0 fun k => { k with loglim := 0x10000 }; (s.ctx 0).loglim ≠ 0 ∧ s.logRoom 0 0 1 = true ∧
        (s.modTile 0 fun t => { t with stage := List.replicate 112 0 }).logRoom 0 0 1 = false) :=
  ⟨by decide, by decide, ⟨_, List.mem_singleton.2 rfl, rfl⟩, by decide +kernel⟩

/-- `flush` of a gang whose atomic another drain has already taken. -/
theorem witness_WaitsAndPennants_taken :
    let g : Gang := { gang0 with det := true, atomSeq := 1 }
    let s := { at0 g with drains := [{ point := 3, entries := [(0, held0)], applied := none }] }
    Starts s c0 g .flush ∧ g.det = true ∧ (g.slice 0).phase = 0 ∧ (s.tile 0).det = [] ∧
      ∃ d e, d ∈ s.drains ∧ e ∈ d.entries ∧ e.1 = g.tile ∧ (e.2.slot == g.slot && e.2.gen == g.gen) = true ∧ e.2.seq < g.atomSeq :=
  ⟨starts_of rfl rfl rfl rfl (by decide +kernel), rfl, rfl, rfl, _, _, List.mem_singleton.2 rfl, List.mem_singleton.2 rfl, rfl, rfl, by decide⟩

theorem witness_TranslationsGo : Starts (at0 gang0) c0 gang0 (.tlbinv 2) ∧ gang0.sup = false ∧
    Starts (at0 handler0) c0 handler0 (.tlbinv 2) ∧ handler0.sup = true :=
  ⟨starts0 (by decide +kernel), rfl, starts0 (by decide +kernel), rfl⟩

/-! ## Special registers -/

/-- Every register of Table 3.7 by number. -/
def srNumbers : List (BitVec 15) :=
  [0x00, 0x01, 0x02, 0x03, 0x04, 0x05, 0x10, 0x11, 0x12, 0x13, 0x14, 0x15, 0x16, 0x17, 0x18, 0x19, 0x1A, 0x1B, 0x1C, 0x1D, 0x1E, 0x1F,
    0x20, 0x21, 0x30, 0x31, 0x32, 0x33, 0x34, 0x35, 0x36, 0x37, 0x38, 0x39, 0x100, 0x101, 0x102, 0x103, 0x104, 0x105, 0x106, 0x107,
    0x108, 0x109, 0x10A, 0x10B, 0x10C, 0x10D, 0x10E, 0x10F]

theorem witness_SpecialRegistersRead : (∀ i ∈ srNumbers.map (Instr.rdsr 6), Starts (at0 gang0) c0 gang0 i) ∧
    (∀ i ∈ srNumbers.map (Instr.rdsr 6), Starts (at0 handler0) c0 handler0 i) ∧ gang0.sup = false ∧ handler0.sup = true ∧
    (srNumbers.map BitVec.toNat).filter (fun n => n ∉ [0x01, 0x18, 0x1F]) = (registers (at0 gang0) gang0 c0).map Prod.fst :=
  ⟨starts_list (by decide +kernel), starts_list (by decide +kernel), rfl, rfl, rfl⟩

theorem witness_SpecialRegistersWritten : (∀ i ∈ srNumbers.map (Instr.wrsr 2), Starts (at0 gang0) c0 gang0 i) ∧
    (∀ i ∈ srNumbers.map (Instr.wrsr 2), Starts (at0 handler0) c0 handler0 i) ∧ modeAccepted 0 ∧ ¬modeAccepted 0x58 ∧
    (∀ j, j < 8 → ((0xFFFFFFF0 : Word).toNat / 2 ^ (4 * j) % 16 = 15 ↔ (handler0.slice j).live = false)) :=
  ⟨starts_list (by decide +kernel), starts_list (by decide +kernel), by unfold modeAccepted; decide, by unfold modeAccepted; decide,
    by decide⟩

theorem witness_SpecialRegistersWritten_kill : Starts (launchState handler0) c0 (launched handler0) (.wrsr 2 0x30) ∧
    Placed (launched handler0) c0 := ⟨starts_launch (by decide +kernel), rfl, rfl⟩

theorem test_rdsr_slgrp : (gotGang (exec (.rdsr 6 0x1F) (at0 parted2))).sreg 6 = 0xFFFFFF10 := by decide +kernel
theorem test_rdsr_pair : (gotGang (exec (.rdsr 6 5) (at0 gang0))).sreg 6 = 0x1000 ∧ (gotGang (exec (.rdsr 6 5) (at0 gang0))).sreg 7 = 0 := by
  decide +kernel
theorem test_wrsr_mode_rejected : (gotGang (exec (.wrsr 2 0) (at0 (sregs 0x58 0)))).trap.tval = 0x58 ∧
    ((gotGang (exec (.wrsr 2 0) (at0 (sregs 0x8 0)))).slice 0).mode = 8 := by decide +kernel
theorem test_wrsr_gtc_illegal : (gotGang (exec (.wrsr 2 0x30) (at0 gang0))).trap.tcause = 1 := by decide +kernel

/-! ## Spill and refill -/

/-- Lane 0 with 32 entries; the spill area begins at 0x10000 and holds `blocks` blocks. -/
def full (blocks : Nat) : Gang :=
  { memGang with rem := [(0, List.replicate 32 ⟨9, 7⟩)], rsb := 0x10000, rsl := BitVec.ofNat 64 (0x10000 + 2560 * blocks) }

theorem witness_SpillMakesRoom : Starts (memState (full 1)) c0 (full 1) (.rsmark 3) ∧ Starts (memState (full 1)) c0 (full 1) (.riadd 1 2 3 0) ∧
    ¬hasRoom (full 1) c0 ∧ (forward (modeOf (full 1) c0) (.riadd 1 2 3 0)).isSome = true ∧
    (full 0).rsl.toNat < (blockAt (full 0) 1).toNat + 2560 ∧ (full 0).sup = false ∧
    (blockAt (full 1) 1).toNat + 2560 ≤ (full 1).rsl.toNat ∧
    (∀ k, k < 40 → (memState (full 1)).placeOf (full 1) 0 1 2 (blockAt (full 1) 1 + num (64 * k)) = .at_ (0x20000 + 64 * k) false) :=
  ⟨starts_mem (by decide +kernel), starts_mem (by decide +kernel), by unfold hasRoom; decide +kernel, by decide, by decide, rfl, by decide,
    by decide +kernel⟩

/-- The same group waiting for its spill. -/
def spilling : Gang := { full 1 with slices := [{ pc := 0x1000, wait := .spill }] }

theorem witness_SpillMakesRoom_event : (memState spilling).gang? 0 0 = some spilling ∧ Placed spilling c0 ∧ (spilling.slice 0).wait = .spill ∧
    (∀ k, k < 40 → (0x20000 + 64 * k) % 64 = 0 ∧
      (memState spilling).placeOf spilling 0 1 2 (blockAt spilling 1 + num (64 * k)) = .at_ (0x20000 + 64 * k) false) ∧
    (∀ j k, j < 40 → k < 40 → 0x20000 + 64 * j = 0x20000 + 64 * k → j = k) ∧ ((memState spilling).tile 0).sqUsed + 40 ≤ 64 :=
  ⟨rfl, ⟨rfl, rfl⟩, rfl, by decide +kernel, by omega, by decide⟩

/-- The block no longer fits below RSL, or another group has made room. -/
theorem witness_SpillMakesRoom_again :
    (let g := { full 0 with slices := [{ pc := 0x1000, wait := .spill }] };
      (memState g).gang? 0 0 = some g ∧ (g.slice 0).wait = .spill ∧ ¬(blockAt g (g.rsdepth + 1)).toNat + 2560 ≤ g.rsl.toNat) ∧
    let g := { memGang with slices := [{ pc := 0x1000, wait := .spill }] };
    (memState g).gang? 0 0 = some g ∧ (g.slice 0).wait = .spill ∧ hasRoom g c0 :=
  ⟨⟨rfl, rfl, by decide⟩, rfl, rfl, by unfold hasRoom; decide⟩

theorem test_spill : (gotGang (exec .remainderSpill { memState spilling with cur := none })).rsdepth = 1 ∧
    ((gotGang (exec .remainderSpill { memState spilling with cur := none })).remOf 0).length = 16 := by decide +kernel

/-- One block in the spill area, which holds an entry 0x01020304 of class 7 for lane 0. -/
def spilt (w : Wait) : Gang :=
  { memGang with rsdepth := 1, rsb := 0x10000, rsl := 0x20000, slices := [{ pc := 0x1000, wait := w }] }
def spiltState (g : Gang) : State :=
  { memState g with mem := [(0x20000, 4), (0x20001, 3), (0x20002, 2), (0x20003, 1), (0x20800, 7)] }
def spiltByte (a : Dword) : Byte := Sparse.get 0 [(0x10000, 4), (0x10001, 3), (0x10002, 2), (0x10003, 1), (0x10800, 7)] a.toNat

/-- Every byte of a spill area of one block reads as `byte` says. -/
theorem readable_of {s : State} {g : Gang} {byte : Dword → Byte} (hd : g.rsdepth = 1)
    (h : ((List.range 2560).all fun o => match s.areaByte g 0 (g.rsb + num o) with
      | .ok b => b == byte (g.rsb + num o)
      | .error _ => false) = true) : Readable s g c0 byte := by
  intro o ho
  have := List.all_eq_true.1 h o (List.mem_range.2 (by rw [hd] at ho; exact ho))
  revert this
  split
  · intro h'; rename_i heq; rw [← (beq_iff_eq.1 h')]; exact heq
  · intro h'; cases h'

theorem witness_RefillBringsBack_readable : Readable (spiltState (spilt .refill)) (spilt .refill) c0 spiltByte :=
  readable_of rfl (by decide +kernel)

/-- The area stands at 0x20000, each byte of it at its own place. -/
theorem witness_RefillBringsBack_apart : Apart (spiltState (spilt .refill)) (spilt .refill) c0 fun a => 0x10000 + a.toNat := by
  have h : ((List.range 2560).all fun o => match (spiltState (spilt .refill)).placeOf (spilt .refill) 0 1 1 ((spilt .refill).rsb + num o) with
      | .at_ loc _ => decide (loc = 0x20000 + o ∧ 0x10000 + ((spilt .refill).rsb + num o).toNat = 0x20000 + o)
      | _ => false) = true := by decide +kernel
  have hp (o : Nat) (ho : o < 2560) : (∃ sc, (spiltState (spilt .refill)).placeOf (spilt .refill) 0 1 1 ((spilt .refill).rsb + num o) =
      .at_ (0x20000 + o) sc) ∧ 0x10000 + ((spilt .refill).rsb + num o).toNat = 0x20000 + o := by
    have := List.all_eq_true.1 h o (List.mem_range.2 ho)
    revert this
    split
    · rename_i loc sc heq
      intro h'
      obtain ⟨h1, h2⟩ := of_decide_eq_true h'
      exact ⟨⟨sc, by rw [heq, h1]⟩, h2⟩
    · intro h'; cases h'
  intro o ho
  refine ⟨?_, fun p hp' heq => ?_⟩
  · obtain ⟨⟨sc, hs⟩, h2⟩ := hp o ho
    exact ⟨sc, by show _ = Place.at_ (0x10000 + ((spilt .refill).rsb + num o).toNat) sc; rw [h2]; exact hs⟩
  · have h1 := (hp o ho).2
    have h2 := (hp p hp').2
    change 0x10000 + ((spilt .refill).rsb + num o).toNat = 0x10000 + ((spilt .refill).rsb + num p).toNat at heq
    omega

/-- The block holds a mark of s3 = 0 in each lane, and over it an entry of class 7 in lane 0. -/
def markedState : State :=
  { memState (spilt .run) with mem := [(0x20800, 0x1E), (0x20801, 0x1E), (0x20802, 0x1E), (0x20803, 0x1E), (0x20820, 7)] }
def markedByte (a : Dword) : Byte := Sparse.get 0 [(0x10800, 0x1E), (0x10801, 0x1E), (0x10802, 0x1E), (0x10803, 0x1E), (0x10820, 7)] a.toNat

theorem witness_RemainderMarks_slots : Starts markedState c0 (spilt .run) (.rsdrop 3) ∧ Readable markedState (spilt .run) c0 markedByte ∧
    (markedState.tile 0).sq = [] ∧ (spilt .run).sreg 3 &&& 0x07FFFFFF = 0 ∧
    (∀ l, l ∈ lanes (spilt .run) c0 → (⟨0, 0x1E⟩ : Rem) ∉ (spilt .run).remOf l ∧ MarkedAt (spilt .run) markedByte ⟨0, 0x1E⟩ l 1 0) ∧
    (∀ l e, l < 4 → e < 16 → slotEntry (spilt .run) markedByte l 1 e ≠ none →
      markedState.placeOf (spilt .run) 0 1 2 (tagPlace (spilt .run) 1 e l) = .at_ (0x20800 + e * 32 + l) false ∧
        (0x20800 + e * 32 + l) / 64 ∈ [0x820]) ∧ (markedState.tile 0).sqUsed + min [0x820].length 64 ≤ 64 := by
  have hs (l k : Nat) (hl : l < 4) (hk : k < 16) : slotEntry (spilt .run) markedByte l 1 k =
      if k = 0 then some (0, ⟨0, 0x1E⟩) else if l = 0 ∧ k = 1 then some (1, ⟨0, 7⟩) else none := by
    have h : (List.range 64).all (fun n => decide (slotEntry (spilt .run) markedByte (n % 4) 1 (n / 4) =
      if n / 4 = 0 then some (0, ⟨0, 0x1E⟩) else if n % 4 = 0 ∧ n / 4 = 1 then some (1, ⟨0, 7⟩) else none)) = true := by decide +kernel
    have := of_decide_eq_true (List.all_eq_true.1 h (k * 4 + l) (List.mem_range.2 (by omega)))
    rwa [show (k * 4 + l) / 4 = k by omega, show (k * 4 + l) % 4 = l by omega] at this
  refine ⟨starts_of rfl rfl rfl rfl (by decide +kernel), readable_of rfl (by decide +kernel), rfl, by decide, fun l hl => ⟨by revert l; decide, ?_⟩,
    ?_, by decide⟩
  · have h4 : l < 4 := by revert l; decide
    refine ⟨by decide, by decide, by decide, hs l 0 h4 (by omega), fun m k hu he => ?_⟩
    have hm : m = 1 := by
      have h1 : m ≤ 1 := hu.1
      rcases hu.2.2 with h | ⟨h, _⟩ <;> omega
    subst hm
    refine ⟨rfl, ?_⟩
    rw [hs l k h4 hu.2.1] at he
    split at he
    · assumption
    · split at he <;> simp at he
  · intro l e hl he h
    have hq : (List.range 64).all (fun n => match slotEntry (spilt .run) markedByte (n % 4) 1 (n / 4) with
        | none => true
        | some _ => decide (markedState.placeOf (spilt .run) 0 1 2 (tagPlace (spilt .run) 1 (n / 4) (n % 4)) =
          .at_ (0x20800 + n / 4 * 32 + n % 4) false ∧ (0x20800 + n / 4 * 32 + n % 4) / 64 ∈ [0x820])) = true := by decide +kernel
    have := List.all_eq_true.1 hq (e * 4 + l) (List.mem_range.2 (by omega))
    have e1 : (e * 4 + l) / 4 = e := by omega
    have e2 : (e * 4 + l) % 4 = l := by omega
    rw [e1, e2] at this
    revert this
    split
    · rename_i h0; exact absurd h0 h
    · exact fun h => of_decide_eq_true h
/-- R163, R175: both entries of lane 0 are gone, and the block is released. -/
theorem test_rsdrop_slots : (gotGang (exec (.rsdrop 3) markedState)).rsdepth = 0 ∧
    ((got (exec (.rsdrop 3) markedState)).tile 0).sqByte 0x20820 = some (some 0) := by decide +kernel

theorem witness_RefillBringsBack : Starts (spiltState (spilt .run)) c0 (spilt .run) (.unniadd 1 2 3) ∧
    (undo (modeOf (spilt .run) c0) (.unniadd 1 2 3)).isSome = true ∧ ((spilt .run).slice 0).phase = 0 ∧
    (spiltState (spilt .refill)).gang? 0 0 = some (spilt .refill) ∧ Placed (spilt .refill) c0 ∧ ((spilt .refill).slice 0).wait = .refill ∧
    (spiltState (spilt .refill)).walking 0 0 0 = false ∧ ((spiltState (spilt .refill)).tile 0).sq = [] ∧
    ((spiltState (spilt .refill)).tile 0).l1 = [] ∧
    dryTags (spilt .run) c0 spiltByte = [tagPlace (spilt .run) 1 0 0] ∧
    (spiltState (spilt .run)).placeOf (spilt .run) 0 1 2 (tagPlace (spilt .run) 1 0 0) = .at_ 0x20800 false ∧
    dry (spilt .refill) c0 = [0, 1, 2, 3] ∧ highest (spilt .refill) spiltByte 0 1 = (1, [(0, ⟨0x01020304, 7⟩)]) ∧
    (spiltState (spilt .refill)).placeOf (spilt .refill) 0 1 2 (tagPlace (spilt .refill) 1 0 0) = .at_ 0x20800 false :=
  ⟨starts_of rfl rfl rfl rfl (by decide +kernel), by decide, rfl, rfl, ⟨rfl, rfl⟩, rfl, by decide, by decide, by decide,
    by decide +kernel, by decide +kernel, by decide, by decide +kernel, by decide +kernel⟩

theorem witness_RefillBringsBack_lines : (areaLines (spiltState (spilt .refill)) (spilt .refill) c0).length ≤ 1024 := by
  have h : ((List.range 2560).all fun o =>
      match (spiltState (spilt .refill)).placeOf (spilt .refill) 0 1 1 ((spilt .refill).rsb + num o) with
      | .at_ loc _ => decide (0x800 ≤ loc / 64 ∧ loc / 64 < 0x800 + 1024)
      | _ => true) = true := by decide +kernel
  refine distinct_length_le _ 0x800 1024 fun x hx => ?_
  obtain ⟨o, ho, hx⟩ := List.mem_filterMap.1 hx
  have := List.all_eq_true.1 h o ho
  change (match (spiltState (spilt .refill)).placeOf (spilt .refill) 0 1 1 ((spilt .refill).rsb + num o) with
    | .at_ loc _ => some (loc / 64)
    | _ => none) = some x at hx
  generalize (spiltState (spilt .refill)).placeOf (spilt .refill) 0 1 1 ((spilt .refill).rsb + num o) = p at this hx
  cases p with
  | at_ loc sc => cases hx; exact of_decide_eq_true this
  | _ => cases hx

/-- The spill area's page may be read, not written. -/
def readOnly : Gang := { spilt .run with walked := [{ slice := 0, va := 0x10000, result := .ok { page0 with w := false } }] }
def readOnlyState : State := (spiltState readOnly).modTile 0 fun t => { t with tlb := [] }
theorem witness_RefillBringsBack_fault : Starts readOnlyState c0 readOnly (.unniadd 1 2 3) ∧
    readOnlyState.placeOf readOnly 0 1 2 (tagPlace readOnly 1 0 0) = .fault 5 ∧
    (match readOnlyState.areaByte readOnly 0 0x10000 with | .ok b => b == 4 | .error _ => false) = true ∧ dryTags readOnly c0 spiltByte = [tagPlace readOnly 1 0 0] :=
  ⟨starts_of rfl rfl rfl rfl (by decide +kernel), by decide +kernel, by decide +kernel, by decide +kernel⟩
theorem test_refill_tag_not_writable : (gotGang (exec (.unniadd 1 2 3) readOnlyState)).trap.tcause = 5 := by decide +kernel

/-! ## Barriers and held atomics -/

/-- The launch's one gang is the one member of banner 3. -/
def banner0 (arrived : Option Bool) (completed : Option Nat) : Launch :=
  { launch0 with
    banner := [(3, { sink := false, count := 1, live := 1 })]
    members := [{ gang := 0, banner := 3, arrived := arrived, completed := completed }] }
def barrierState (g : Gang) (arrived : Option Bool) (completed : Option Nat) : State :=
  { at0 (launched g) with launches := [(0, banner0 arrived completed)], gtc := 30 }

theorem witness_BarrierInstructions : ∀ b : Instr, b ∈ [Instr.barrArrive 3, .barrWait 3, .barrSync 3] →
    (Starts (barrierState gang0 none none) c0 (launched gang0) b ∧ Starts (barrierState parted2 none none) c0 (launched parted2) b) ∧
    (launched parted2).parted = true ∧ (launched gang0).parted = false ∧
    (∃ m, Flies (barrierState gang0 none none) (launched gang0) 3 0 (banner0 none none) m ∧ m.arrived = none) ∧
    (∃ m, Flies (barrierState gang0 (some true) none) (launched gang0) 3 0 (banner0 (some true) none) m ∧ m.arrived ≠ none ∧
      m.completed = none ∧ unlogged (barrierState gang0 (some true) none) (launched gang0)) ∧
    ∃ m, Flies (barrierState gang0 none (some 8)) (launched gang0) 3 0 (banner0 none (some 8)) m ∧ m.completed = some 8 :=
  fun b hb => ⟨⟨starts_of rfl rfl rfl rfl (by revert b; decide +kernel), starts_of rfl rfl rfl rfl (by revert b; decide +kernel)⟩, by decide,
    by decide, ⟨_, ⟨rfl, rfl, rfl⟩, rfl⟩, ⟨_, ⟨rfl, rfl, rfl⟩, nofun, rfl, rfl⟩, _, ⟨rfl, rfl, rfl⟩, rfl⟩

theorem witness_BarrierInstructions_phases : ∀ n, n = 1 ∨ n = 2 →
    let g : Gang := { gang0 with slices := [{ pc := 0x1000, phase := n }] }
    Starts (barrierState g none none) c0 (launched g) (.barrSync 3) ∧ ((launched g).slice 0).phase = n ∧ (launched g).parted = false := by
  rintro n (rfl | rfl) <;> exact ⟨starts_of rfl rfl rfl rfl (by decide +kernel), rfl, by decide⟩

/-- A `barr.sync` at 0x1000 whose arrival has registered, and one for which the log has no room. -/
theorem witness_BarrierInstructions_sync :
    (let l := { banner0 (some true) none with members := [{ gang := 0, banner := 3, arrived := some true, arrivals := 2, sync := [(0x1000, 2)] }] };
      let s := { barrierState gang0 none none with launches := [(0, l)] };
      Starts s c0 (launched gang0) (.barrSync 3) ∧
        ∃ m, Flies s (launched gang0) 3 0 l m ∧ m.sync.find? (fun x => x.1 == ((launched gang0).slice 0).pc) = some (0x1000, m.arrivals) ∧
          m.completed = none ∧ m.arrived ≠ none) ∧
    (let l := { banner0 (some true) none with members := [{ gang := 0, banner := 3, arrivals := 3, completed := some 9, sync := [(0x1000, 2)] }] };
      let s := { barrierState gang0 none none with launches := [(0, l)] };
      ∃ m, Flies s (launched gang0) 3 0 l m ∧ ∃ x, m.sync.find? (fun x => x.1 == ((launched gang0).slice 0).pc) = some x ∧ x.2 ≠ m.arrivals) ∧
    let s := ((barrierState gang0 none none).modCtx 0 fun k => { k with loglim := 0x10000 }).modTile 0 fun t => { t with stage := List.replicate 112 0 };
    Starts s c0 (launched gang0) (.barrSync 3) ∧ s.logRoom (launched gang0).tile (launched gang0).ctx 2 = false :=
  ⟨⟨starts_of rfl rfl rfl rfl (by decide +kernel), _, ⟨rfl, rfl, rfl⟩, rfl, rfl, nofun⟩, ⟨_, ⟨rfl, rfl, rfl⟩, _, rfl, by decide⟩, starts_of rfl rfl rfl rfl (by decide +kernel),
    by decide +kernel⟩
/-- R339: the log-full trap comes before any effect: the gang has not arrived. -/
theorem test_sync_log_full :
    let s := ((barrierState gang0 none none).modCtx 0 fun k => { k with loglim := 0x10000 }).modTile 0 fun t => { t with stage := List.replicate 112 0 };
    (gotGang (exec (.barrSync 3) s)).trap.tcause = 0x0B ∧ (got (exec (.barrSync 3) s)).launches = s.launches := by decide +kernel

/-- `barr.sync` of a banner that the gang does not fly. -/
theorem witness_BarrierInstructions_stranger : ∀ l x m, ¬Flies (at0 gang0) gang0 3 l x m := fun _ _ _ h => by cases h.1

def arriving (w : Wait) : Gang := { gang0 with slices := [{ pc := 0x1000, wait := w, phase := 1 }] }

theorem witness_BarrierPhases : ∃ m v,
    (barrierState (arriving (.arrive 3)) none none).gang? 0 0 = some (launched (arriving (.arrive 3))) ∧
    Flies (barrierState (arriving (.arrive 3)) none none) (launched (arriving (.arrive 3))) 3 0 (banner0 none none) m ∧
    Sparse.find? (banner0 none none).banner 3 = some v ∧ v.draining = false ∧
    (launched (arriving (.arrive 3))).leaders.findSome?
      (fun i => match ((launched (arriving (.arrive 3))).slice i).wait with | .arrive b => some (i, b) | _ => none) = some (0, 3) ∧
    v.arrived + 1 = v.live ∧ (banner0 none none).flags.getLsbD 0 = false :=
  ⟨_, _, rfl, ⟨rfl, rfl, rfl⟩, rfl, rfl, by decide, rfl, rfl⟩

/-- In DET mode, with an atomic of the gang held. -/
theorem witness_BarrierPhases_held :
    let x := { banner0 none none with flags := 1 }
    let s := { (barrierState (arriving (.arrive 3)) none none).modTile 0 fun t => { t with det := [held0] } with launches := [(0, x)] }
    let g := { launched (arriving (.arrive 3)) with det := true, atomSeq := 1 }
    x.flags.getLsbD 0 = true ∧ ∃ n e, e ∈ (s.tile n).det ∧ e.launch = 0 ∧ e.grove * x.ng + e.gang = g.number ∧ e.seq < g.atomSeq :=
  ⟨by decide, 0, held0, by decide, rfl, by decide, by decide⟩

theorem witness_BarrierPhases_release : ∃ m,
    Flies (barrierState (arriving (.barrier 3)) none (some 8)) (launched (arriving (.barrier 3))) 3 0 (banner0 none (some 8)) m ∧
    m.completed = some 8 ∧ ((barrierState (arriving (.barrier 3)) none (some 8)).tile 0).dorm = .active ∧
      (launched (arriving (.barrier 3))).leaders.findSome?
      (fun i => match ((launched (arriving (.barrier 3))).slice i).wait with | .barrier b => some (i, b) | _ => none) = some (0, 3) :=
  ⟨_, ⟨rfl, rfl, rfl⟩, rfl, rfl, by decide⟩

/-- Two held atomics, listed against their order, and their drain. -/
def held1 : Held := { held0 with lane := 1 }
def drain0 (applied : Option Nat) : Drain := { point := 2, entries := [(0, held1), (0, held0)], applied := applied }
def draining (applied : Option Nat) : State :=
  { at0 { gang0 with slices := [{ pc := 0x1000, wait := .drain, phase := 1 }] } with cur := none, drains := [drain0 applied], gtc := 30 }

theorem witness_HeldAtomicsDrain : (draining none).drains[0]? = some (drain0 none) ∧ (drain0 none).applied = none ∧
    (∀ e, e ∈ (drain0 none).entries → ((draining none).ctx (((draining none).tile e.1).holder.getD 0)).loglim = 0 ∧
      (draining none).inTurn (e.2.loc / 64) e.1 = true) ∧
    (∀ x, x ∈ (draining none).drains → x.point = 2) ∧
    (∃ d : Drain, d.point = 3 ∧ d.at_ < (draining none).gtc ∧ d = { drain0 none with point := 3, at_ := 29 }) ∧
    [(0, held0), (0, held1)].Perm (drain0 none).entries ∧ [(0, held0), (0, held1)].Pairwise (fun a b => sooner a.2 b.2) :=
  ⟨rfl, rfl, by decide, by decide, ⟨_, rfl, by decide, rfl⟩, List.Perm.swap _ _ _, by unfold sooner; decide⟩

theorem witness_HeldAtomicsDrain_over : (draining (some 25)).drains[0]? = some (drain0 (some 25)) ∧ (drain0 (some 25)).applied = some 25 ∧
    25 ≤ (draining (some 25)).gtc ∧ ∃ g, (draining (some 25)).gang? 0 0 = some g ∧ (g.slice 0).wait = .drain :=
  ⟨rfl, rfl, by decide, _, rfl, rfl⟩

theorem witness_HeldAtomicsDrain_forced :
    let g : Gang := { gang0 with slices := [{ pc := 0x1000, wait := .drain }] }
    let s := { (at0 g).modTile 0 fun t => { t with det := [held0], holder := some 0 } with cur := none }
    (∃ g j, g ∈ s.gangsOf 0 ∧ j ∈ g.leaders ∧ (g.slice j).wait = .drain ∧ (g.slice j).phase = 0) ∧
      (∃ k, (s.tile 0).holder = some k ∧ (s.ctx k).st = .running) ∧
      (∀ d, d ∈ s.drains → ¬(d.point = 5 ∧ d.tile = 0)) ∧ (s.tile 0).det ≠ [] ∧ s.flushDue 0 = false :=
  ⟨⟨_, 0, List.mem_singleton.2 rfl, by decide, rfl, rfl⟩, ⟨0, rfl, rfl⟩, nofun, by decide, by decide +kernel⟩

theorem test_drain_applies : (got (exec .detDrain (draining none))).homeWord 100 0x20000 = 2 := by decide +kernel

/-! ## Engines -/

/-- s16 to s31 hold a parameter block; commands report in s9, or v9 for `cpy`; MODE.ET is BF16. -/
def engineGang : Gang := { gang0 with sregs := (List.range 16).map fun k => (16 + k, 0), slices := [{ pc := 0x1000, mode := 0x20 }] }

theorem starts_engine : ∀ i ∈ [Instr.cpy4 1 0 16 9, .cpy8 1 0 16 9, .cpy16 1 0 16 9, .bcpy 1 0 16 9, .wcpy 1 2 16 9, .mcast 1 0 16 9,
      .gath 1 0 16 9, .czero 1 0 16 9, .wldS 1 0 16 9, .wldG 1 0 16 9, .mma 1 0 16 9, .mloop 1 0 16 9, .mrec 1 7 16 9, .accrd 1 0 16 9,
      .accwr 1 0 16 9, .accz 1 0 16 9, .collAr 1 0 16 9, .collRs 1 0 16 9, .collAg 1 0 16 9],
    Starts (at0 engineGang) c0 engineGang i ∧ ((cmdForm i).any fun f => (f.vecs engineGang c0).all fun n => decide (n < engineGang.nv)) =
      true := starts_all (by decide +kernel)

/-- Nothing holds a command of `engineGang`; under FP32 an `mma` is illegal. -/
theorem witness_EngineCommandsAccepted : engineGang.queues.length = 4 ∧ operandFormat ((modeOf engineGang c0).toNat / 8 % 64) = true ∧
    engineGang.markV = [] ∧ engineGang.pend = [] ∧ (∀ r, r ∈ engineGang.queues → r = []) ∧ ((at0 engineGang).cluster 0).slew = 0 ∧
    operandFormat ((modeOf gang0 c0).toNat / 8 % 64) = false ∧ Starts (at0 gang0) c0 gang0 (.mma 1 0 16 9) ∧
    (engineGang.slice c0.slice).phase = 0 ∧ ({ engineGang with slices := [{ pc := 0x1000, phase := 1 }] }.slice c0.slice).phase ≠ 0 ∧
    (at0 engineGang).placeNow engineGang.ctx ((at0 engineGang).commAt engineGang.ctx 0) 1 ≠ .zero :=
  ⟨rfl, by decide, rfl, rfl, by decide, rfl, by decide, starts0 (by decide +kernel), rfl, by decide, by decide +kernel⟩

/-- The status register s9 still belongs to a command; the slew limit of the window is reached; an operand is owed by a command whose
window has ended. -/
theorem witness_EngineCommandsAccepted_busy :
    (let g := { engineGang with queues := [[cmd0 .bcpy], [], [], []] };
      Starts (at0 g) c0 g (.accz 1 0 16 9) ∧ AcceptHeld (at0 g) g c0 ⟨.accz, 1, 1, 0, 16, 9⟩) ∧
    AcceptHeld ((at0 engineGang).modCluster 0 fun k => { k with slew := 4, mtxPrev := 2, mtxNow := 6 }) engineGang c0 ⟨.accz, 1, 1, 0, 16, 9⟩ ∧
    (let g := { engineGang with pend := [{ id := 0, slices := [0], left := List.replicate 8 0, dests := [.vreg 3] }] };
      AcceptHeld (at0 g) g c0 ⟨.cpy 4, 6, 1, 0, 16, 9⟩) ∧
    ¬AcceptHeld (at0 engineGang) engineGang c0 ⟨.accz, 1, 1, 0, 16, 9⟩ := by
  refine ⟨⟨starts0 (by decide +kernel), .inr (.inl ⟨_, _, List.mem_cons_self .., List.mem_singleton.2 rfl, rfl, rfl⟩)⟩,
    .inr (.inr (.inr (by decide +kernel))), .inr (.inr (.inl ⟨0, 3, _, by decide, by decide, by decide, by decide, List.mem_singleton.2 rfl,
      List.mem_singleton.2 rfl, rfl⟩)), ?_⟩
  rintro (h | ⟨r, x, h, h', -⟩ | ⟨n, _, _, h, -⟩ | h)
  · revert h; decide
  · have : ∀ r, r ∈ engineGang.queues → r = [] := by decide
    rw [this r h] at h'; exact absurd h' List.not_mem_nil
  · exact absurd h List.not_mem_nil
  · revert h; decide +kernel

/-- A vector offset register of a `cpy` marked by a hard error. -/
theorem witness_EngineCommandsAccepted_marked :
    let g := { engineGang with markV := [2] }
    let f : CmdForm := ⟨.cpy 4, 6, 1, 0, 16, 9⟩
    (f.vecs g c0).find? (fun n => decide (∃ l, l < 32 ∧ (f.op = .mma ∨ l ∈ lanes g c0) ∧ n < g.nv ∧ n * 32 + l ∈ g.markV)) = some 0 ∧
      MarkedOperand g c0 f 0 := by
  refine ⟨by decide +kernel, by decide, 2, by decide, .inr (by decide), by decide⟩

theorem test_mma_illegal_type : (gotGang (exec (.mma 1 0 16 9) (at0 gang0))).trap.tcause = 1 := by decide +kernel

/-! ### Copies -/

/-- Page 0x10000 at 0x50000, readable and writable; a command at the head of queue `k`. -/
def copyGang (k : Nat) (x : Cmd) : Gang := { gang0 with queues := (List.range 4).map fun j => if j = k then [x] else [] }
def copyingIn (k : Nat) (x : Cmd) : State :=
  { (at0 (copyGang k x)).modCtx 0 fun k => { k with root := 0x100000 } with
    cur := none, gtc := 30
    mem := [(0x50000, 0xAB), (0x100000, 0x01), (0x100001, 0x00), (0x100002, 0x11), (0x110000, 0x01), (0x110002, 0x12), (0x120000, 0x01),
      (0x120002, 0x13), (0x130008, 0x0F), (0x13000A, 0x05)] }
def copying (x : Cmd) : State := copyingIn 0 x
def czero0 : Cmd := { cmd0 .czero with params := [0x10000, 0, 128, 0], decided := some true }
def bcpy0 : Cmd := { cmd0 .bcpy with params := [0x10000, 0, 0x10100, 0, 64, 1, 16, 16, 0], decided := some true }
def part0 : Cmd := { czero0 with params := [0x10000, 0, 16, 0] }
def wcpy0 : Cmd := { cmd0 .wcpy with params := [0x10000, 0, 0x10100, 0, 0x100001, 0, 0, 0x100, 1], decided := some true }
def gath0 : Cmd := { cmd0 .gath with params := [0x10000, 0, 0x10080, 0, 0x10100, 0, 1, 1], decided := some true }
def cast0 : Cmd :=
  { cmd0 .mcast with params := [0x10000, 0, 0, 16, 0x100], decided := some true, targets := [⟨0xF00000000000, 0x2000⟩, ⟨0xF00000000000, 8⟩] }
def lanes0 : Cmd :=
  { cmd0 (.cpy 4) with params := [0x10000, 0, 0x10100, 0, 0, 1], decided := some true
                       copies := [{ lane := 0, src := 0x10000, dst := 0x10100 }, { lane := 1, src := 0x10004, dst := 0x10200 }] }

theorem copyTurn_of {k : Nat} {x : Cmd} (hop : k = 0 ∧ x.op ∈ [CmdOp.bcpy, .wcpy, .mcast, .czero, .cpy 4, .cpy 8, .cpy 16] ∨ k = 1 ∧ x.op = .gath)
    (h : x.decided = some true ∧ x.finished = false ∧ x.stall = false ∧ (x.code = 0 ∨ x.code = 5)) (hw : x.waits = []) :
    CopyTurn (copyingIn k x) (copyGang k x) k x [] := by
  have hk : k < 2 := by omega
  refine ⟨rfl, (rfl : 0 / 4 = 0), ?_, hop, List.pairwise_singleton .., ?_, ?_, h, ⟨.inl rfl, rfl⟩, Nat.zero_le _, by simp [hw]⟩
  · obtain ⟨rfl, -⟩ | ⟨rfl, -⟩ := hop <;> rfl
  · intro e he
    obtain rfl := List.mem_singleton.1 he
    exact ⟨rfl, (by decide : 0 < 768), (by decide : 0 < 2 ^ 22)⟩
  · intro e j he _ hj hb
    obtain rfl := List.mem_singleton.1 he
    have hr : ((copyingIn k x).cluster (copyingIn k x).subject.unit).rot = none := rfl
    simp only [hr, earlier, lexLt, copyGang, gang0] at hb
    have hlt : j < k := by simpa using hb
    obtain ⟨rfl, rfl⟩ : j = 0 ∧ k = 1 := by omega
    rfl

theorem witness_CopyMoves :
    (∀ x ∈ [czero0, bcpy0, part0, wcpy0, cast0, lanes0], CopyTurn (copying x) (copyGang 0 x) 0 x []) ∧
      CopyTurn (copyingIn 1 gath0) (copyGang 1 gath0) 1 gath0 [] := by
  refine ⟨fun x hx => copyTurn_of (.inl ⟨rfl, ?_⟩) ?_ ?_, copyTurn_of (.inr ⟨rfl, rfl⟩) (by decide) rfl⟩ <;>
    (revert x; decide)

/-- What a move takes, whether it can be read now, and whether its bytes can be put there now. -/
def taken (s : State) (g : Gang) (x : Cmd) (m : Move) (j : Nat) : Byte :=
  match m.from_ with
  | none => 0
  | some (sp, a) => match s.engineRead g x sp a m.len with | .ok bs => bs.getD j 0 | _ => 0
def takesNow (s : State) (g : Gang) (x : Cmd) (m : Move) : Bool :=
  match m.from_ with
  | none => true
  | some (sp, a) => match s.engineRead g x sp a m.len with | .ok _ => true | _ => false
def putsNow (s : State) (g : Gang) (x : Cmd) (m : Move) (loc : Option Nat) : Bool :=
  match loc with
  | some l => s.enginePlace g x.sup m.space m.dst m.len 2 == .mem l &&
      (List.range m.len).all (fun j => s.inTurn ((l + j) / 64) (x.number g))
  | none => m.dst.toNat % 4 == 0 && m.len % 4 == 0 &&
      ((m.space == 1 && decide (m.dst.toNat + m.len ≤ g.scratch)) || s.enginePlace g x.sup m.space m.dst m.len 2 == .window)

theorem takes_of {s : State} {g : Gang} {x : Cmd} {m : Move} (h : takesNow s g x m = true) : Takes s g x m (taken s g x m) := by
  unfold takesNow at h
  unfold Takes taken
  split at h
  · simp [*]
  · simp only [*]
    split at h
    · exact ⟨_, ‹_›, fun j => by simp [*]⟩
    · cases h

theorem puts_of {s : State} {g : Gang} {x : Cmd} {m : Move} {loc : Option Nat} (h : putsNow s g x m loc = true) : Puts s g x m loc := by
  unfold putsNow at h
  unfold Puts
  split at h
  next l =>
    simp only [Bool.and_eq_true, beq_iff_eq, List.all_eq_true] at h
    refine ⟨h.1, fun b hb hb' => ?_⟩
    have := h.2 (b - l) (List.mem_range.2 (by omega))
    rwa [Nat.add_sub_cancel' hb] at this
  next =>
    simp only [Bool.and_eq_true, beq_iff_eq, Bool.or_eq_true, decide_eq_true_eq] at h
    exact ⟨h.1.1, h.1.2, h.2⟩

/-- The units of a command from its position on, each with its place, can be moved now. -/
def movesNow (s : State) (g : Gang) (x : Cmd) (ms : List Move) (loc : Nat → Option Nat) : Bool :=
  (List.range ms.length).all fun i => ms[i]?.all fun m => takesNow s g x m && putsNow s g x m (loc i)

theorem moves_of {s : State} {g : Gang} {x : Cmd} {ms : List Move} {loc : Nat → Option Nat} (h : movesNow s g x ms loc = true) :
    ∀ i m, ms[i]? = some m → Takes s g x m (taken s g x (ms[i]?.getD m)) ∧ Puts s g x m (loc i) := by
  intro i m hm
  have hi : i < ms.length := (List.getElem?_eq_some_iff.1 hm).1
  have := List.all_eq_true.1 h i (List.mem_range.2 hi)
  rw [hm] at this
  simp only [Option.all_some, Bool.and_eq_true] at this
  rw [hm]
  exact ⟨takes_of this.1, puts_of this.2⟩

/-- Four units of one line of `bcpy`, and one of `czero`, `wcpy` and `gath`: what they take can be read, and their places are written. -/
theorem witness_CopyMoves_units :
    (∀ y ∈ [(bcpy0, 4), (part0, 1), (wcpy0, 1)],
      movesNow (copying y.1) (copyGang 0 y.1) y.1 ((List.range y.2).map fun i => moveOf y.1 0 (y.1.pos + i))
        (fun i => some ((if y.1.op = .czero then 0x50000 else 0x50100) + 16 * i)) = true ∧ y.1.pos + y.2 = unitsOf y.1 ∧
      (∀ i, i < y.2 → ¬(y.1.op = .czero ∧ param y.1 3 % 4 = 0 ∧ (off (pair y.1 0) (16 * i : Nat)).toNat % 64 = 0 ∧
        16 * i + 64 ≤ param y.1 2) ∧ (moveOf y.1 0 i).dst.toNat / 64 = (moveOf y.1 0 0).dst.toNat / 64) ∧
      ∀ m, m ∈ (List.range y.2).map (fun i => moveOf y.1 0 (y.1.pos + i)) → m.space = 0) ∧
    movesNow (copyingIn 1 gath0) (copyGang 1 gath0) gath0 [moveOf gath0 0 0] (fun _ => some 0x50100) = true ∧ unitsOf gath0 = 1 ∧
    Indexed (copyingIn 1 gath0) (copyGang 1 gath0) gath0 0 0 := by
  refine ⟨by decide +kernel, by decide +kernel, by decide, .inr ⟨by decide, [0, 0, 0, 0], by decide +kernel, by decide⟩⟩

/-- A whole line of `czero`; two targets of an `mcast`, one too small; of a `cpy` the lane that writes the first line. -/
theorem witness_CopyMoves_others :
    (wholeLine czero0 0 ∧ Puts (copying czero0) (copyGang 0 czero0) czero0 ⟨none, 0, 0x10000, 64⟩ (some 0x50000)) ∧
    (movesNow (copying cast0) (copyGang 0 cast0) cast0 (castMoves cast0 0) (fun _ => none) = true ∧ castMoves cast0 0 ≠ [] ∧
      takesNow (copying cast0) (copyGang 0 cast0) cast0 ⟨some (0, 0x10000), 0, 0, 16⟩ = true) ∧
    movesNow (copying lanes0) (copyGang 0 lanes0) lanes0 [⟨some (0, 0x10000), 0, 0x10100, 4⟩] (fun _ => some 0x50100) = true ∧
    (lanes0.copies.map LaneCopy.lane).Nodup :=
  ⟨⟨by unfold wholeLine; decide, puts_of (by decide +kernel)⟩, by decide +kernel, by decide +kernel, by decide⟩

/-- A lane of a `cpy` with one element in its line, and one with all four of it. -/
theorem witness_CopyMoves_lanes :
    (∀ l ∈ lanes0.copies, InLine (if l.lane = 0 then 0x404 else 0x408) 1 (fun k => off l.dst (4 * k : Nat)) l.pos 1) ∧
    InLine 0x404 6 (fun k => off 0x10130 (4 * k : Nat)) 0 4 := by
  refine ⟨fun l hl => ⟨by decide, fun j hj => ?_, .inl (by revert l; decide)⟩, by decide, fun j hj => ?_, .inr (by decide)⟩
  · obtain rfl : j = 0 := by omega
    revert l; decide
  · revert j; decide

/-- A destination page that is missing, one with a zero hint, and one that may not be written. -/
theorem witness_CopyMoves_places :
    (let x := { bcpy0 with params := [0x10000, 0, 0x20000, 0, 64, 1, 16, 16, 0] }
     takesNow (copying x) (copyGang 0 x) x ⟨some (0, 0x10000), 0, 0x20000, 16⟩ = true ∧
       (copying x).enginePlace (copyGang 0 x) x.sup 0 0x20000 16 2 = .missing) ∧
    (let s := { copying bcpy0 with mem := [(0x100000, 0x01), (0x100002, 0x11), (0x110000, 0x01), (0x110002, 0x12), (0x120000, 0x01), (0x120002, 0x13),
       (0x130008, 0x2F), (0x13000A, 0x05)] }
     CopyTurn s (copyGang 0 bcpy0) 0 bcpy0 [] ∧ takesNow s (copyGang 0 bcpy0) bcpy0 ⟨some (0, 0x10000), 0, 0x10100, 16⟩ = true ∧
       s.enginePlace (copyGang 0 bcpy0) bcpy0.sup 0 0x10100 16 2 = .clear) ∧
    (let x := { bcpy0 with params := [0x10000, 0, 0, 0, 64, 1, 16, 16, 4] }
     (copying x).enginePlace (copyGang 0 x) x.sup 1 0 16 2 = .bad 4) := by
  refine ⟨by decide +kernel, ⟨?_, by decide +kernel⟩, by decide +kernel⟩
  refine ⟨rfl, rfl, rfl, .inl ⟨rfl, by decide⟩, List.pairwise_singleton .., ?_, ?_, ⟨rfl, rfl, rfl, .inl rfl⟩, ⟨.inl rfl, rfl⟩, Nat.zero_le _, nofun⟩
  · exact (copyTurn_of (k := 0) (x := bcpy0) (.inl ⟨rfl, by decide⟩) (by decide) rfl).placed
  · intro e j he hc hj hb
    obtain rfl := List.mem_singleton.1 he
    simp only [earlier, lexLt] at hb
    revert hb
    obtain rfl | rfl : j = 0 ∨ j = 1 := by omega
    · exact fun h => absurd h (by rintro (⟨h, h'⟩ | ⟨-, h⟩); exact h' h; exact absurd h (by decide))
    · exact fun h => absurd h (by rintro (⟨h, h'⟩ | ⟨-, h⟩); exact h' nofun; exact absurd h (by decide))

/-- A source page that is missing, and a source beyond the scratchpad. -/
theorem witness_CopyMoves_faults :
    (let x := { bcpy0 with params := [0x20000, 0, 0x10100, 0, 64, 1, 16, 16, 0] };
      (copying x).engineRead (copyGang 0 x) x 0 0x20000 16 = .missing 0x20000 1) ∧
    (let x := { bcpy0 with params := [0, 0, 0x10100, 0, 64, 1, 16, 16, 1] };
      (copying x).engineRead (copyGang 0 x) x 1 0 16 = .bad 4) := by decide +kernel

/-- A line that the page table reaches: read once the W of the gang's store has come, not while it has not; a line with an error; a page
that is missing; a window; a read over the page's end. -/
theorem witness_EngineReads :
    let s := copying bcpy0
    s.placeNow 0 0x10000 1 = .at_ 0x50000 false ∧ (isHost 0x50000 && s.hostLost) = false ∧ s.carries 0x50000 = true ∧
      Sparse.get 0 bcpy0.seen (0x50000 / 64) ≤ s.gtc ∧ ¬Sparse.get 0 { bcpy0 with seen := [(0x1400, 99)] }.seen (0x50000 / 64) ≤ s.gtc ∧
      (0x50000 / 64 ∈ { s with bad := [0x1400] }.bad) ∧ s.placeNow 0 0x20000 1 = .fault 4 ∧ s.placeNow 0 0x10000 4 = .fault 5 ∧
      { s with bad := [0x100000 / 64] }.placeNow 0 0x10000 1 = .fault 0x0F ∧ { s with ctxs := [(0, { root := 0x100000 })] }.placeNow 0 0x10000 1 ≠ .zero ∧
      s.enginePlace (copyGang 0 bcpy0) false 2 0xF00000000000 16 1 = .window ∧ s.windowPending 0xF00000000000 = false ∧
      (0x1FFF8 : Dword).toNat % 65536 + 16 > 65536 - 1 := by decide +kernel

theorem test_bcpy_copies : (got (exec .copyLineStart (copying bcpy0))).homeByte 1000 0x50100 = 0xAB := by decide +kernel
theorem test_czero_clears : (got (exec .copyLineStart (copying czero0))).homeByte 1000 0x50000 = 0 := by decide +kernel

/-- A command that has run, its status awaited alone. -/
def ended0 (op : CmdOp) (d : Bool) : Cmd := { cmd0 op with decided := some d, finished := d, bytes := 20, phase := 2 }
def ending (cls : Nat) (x : Cmd) : Gang :=
  { gang0 with
    queues := (List.range 4).map fun k => if k = cls then [x] else []
    pend := [{ id := 0, slices := [0], left := List.replicate 8 0, dests := [.sreg 9], engine := true }] }
def endState (cls : Nat) (x : Cmd) : State := { at0 (ending cls x) with cur := none, subject := { part := cls }, gtc := 30 }

theorem witness_CommandsComplete : ∀ y ∈ [(0, CmdOp.bcpy), (1, .gath), (2, .mma), (3, .coll 0)], ∀ d : Bool,
    Ends (endState y.1 (ended0 y.2 d)) (ending y.1 (ended0 y.2 d)) y.1 (ended0 y.2 d) [] ∧
      (ended0 y.2 d).decided = some d ∧ (ended0 y.2 true).finished = true ∧ (ended0 y.2 d).maxW ≤ 30 ∧ laneWise (ended0 y.2 d).op = false ∧
      (endState y.1 (ended0 y.2 d)).holds (ending y.1 (ended0 y.2 d)).tile = false := by
  intro y hy d
  refine ⟨⟨rfl, ⟨rfl, rfl⟩, ?_, ⟨.inl rfl, rfl⟩, ?_⟩, rfl, rfl, Nat.zero_le _, ?_, ?_⟩ <;> (revert d; revert y; decide +kernel)

/-- A tile that holds writes back; a gang that has ended. -/
theorem witness_CommandsComplete_held :
    ((at0 gang0).modTile 0 fun t => { t with dorm := .dormant }).holds 0 = true ∧ { ending 0 (ended0 .bcpy true) with ended := true }.ended = true := by
  decide +kernel

theorem test_status_word : (gotGang (exec .copyComplete (endState 0 (ended0 .bcpy true)))).sreg 9 = 0x80000002 ∧
    (gotGang (exec .copyComplete (endState 0 (ended0 .bcpy false)))).sreg 9 = 0xC1000000 := by decide +kernel
/-! ### Matrix -/

/-- A page at 0x10000 that reads as zeros; a command at the head of the MTX queue, its entry in the table. -/
def mtxGang (x : Cmd) : Gang :=
  { copyGang 2 x with
    scratch := 0x8000
    binding := if x.op = .mma ∨ x.op = .mrec then some ⟨false, 0x10000, 128, 7, false, 0⟩ else none }
def zeroPage : State :=
  { State.reset.modCtx 0 fun c => { c with st := .running, tiles := [0], root := 0x100000 } with
    gtc := 30
    mem := [(0x100000, 0x01), (0x100002, 0x11), (0x110000, 0x01), (0x110002, 0x12), (0x120000, 0x01), (0x120002, 0x13), (0x130008, 0x2F),
      (0x13000A, 0x05)] }
def matrixState (e : Resv) (x : Cmd) : State :=
  { zeroPage.modCluster 0 fun k => { k with
      resv := [e], acc := [(16512, 5), (16768, 6)]
      latch := if x.op = .mma ∨ x.op = .mrec then some ⟨0, ⟨false, 0x10000, 128, 7, false, 0⟩, 0, 0, [[1]], []⟩ else none } with
    gangs := [(0, mtxGang x)] }
def accz0 : Cmd := { cmd0 .accz with params := [0x8101], decided := some true }
def wld0 : Cmd := { cmd0 (.wld false) with params := [0x10000, 0, 128, 7, 0, 0], decided := some true }
def mma0 : Cmd := { cmd0 .mma with params := [0], decided := some true, et := 7 }
def mloop0 : Cmd :=
  { cmd0 .mloop with params := [0x10000, 0, 0, 0, 0x10000, 0, 0, 128, 1, 0x1C7, 0, 0, 0, 0], decided := some true }
def mrec0 : Cmd := { cmd0 .mrec with params := [0x10000, 0, 0, 0, 0, 0, 0, 0, 1, 7], decided := some true }
def mrec1 : Cmd := { mrec0 with params := [0x10000, 0, 0, 0, 0, 0, 0, 0, 1, 0x80C7] }
def accwr0 : Cmd := { cmd0 .accwr with params := [0x10000, 0, 512, 0x100], decided := some true }
def accrd0 : Cmd := { cmd0 .accrd with params := [0, 0, 512, 0x10000], decided := some true }

/-- The pass that goes on with a round, and the one that begins the next. -/
theorem witness_MatrixPasses : ∀ x ∈ [accz0, wld0, mma0, mloop0, mrec0, mrec1, accwr0, accrd0], ∀ f : Bool,
    Granted (matrixState ⟨0, 0, 0, 0, f⟩ x) ⟨0, 0, 0, 0, f⟩ (mtxGang x) x [] f := by
  intro x hx f
  refine ⟨List.mem_singleton.2 rfl, List.pairwise_singleton .., rfl, ⟨rfl, rfl, (rfl : 0 / 4 = 0)⟩, rfl, ?_, ⟨.inl rfl, ?_⟩, rfl, ?_⟩
  · revert x; decide
  · revert f; revert x; decide +kernel
  · rintro o ho hne -
    exact absurd (List.mem_singleton.1 ho) hne

theorem zero_read {s : State} {g : Gang} {x : Cmd} {a : Dword} {n : Nat} (hp : s.placeNow g.ctx a 1 = .zero)
    (hn : a.toNat % 65536 + n ≤ 65536) : s.engineRead g x 0 a n = .ok (List.replicate n 0) := by
  have : min n (65536 - a.toNat % 65536) = n := by omega
  simp only [State.engineRead, this, State.engineRead1, State.enginePlace, needR, hp, if_pos]
  rfl

theorem zero_rows : ∀ j, j < 128 → zeroPage.placeNow 0 (0x10000 + num (j * 128)) 1 = .zero := by decide +kernel

theorem matrix_zero {e : Resv} {x : Cmd} (j n : Nat) (hj : j < 128) (hn : n ≤ 512) :
    (matrixState e x).engineRead (mtxGang x) x 0 (0x10000 + num (j * 128)) n = .ok (List.replicate n 0) := by
  refine zero_read (zero_rows j hj) ?_
  have : (0x10000 + num (j * 128) : Dword).toNat = 0x10000 + j * 128 := by simp [num, BitVec.toNat_add]; omega
  omega

/-- The rows of a `wld` and of an `mloop`'s one step. -/
theorem witness_MatrixPasses_rows :
    (∀ j, j < 128 → (matrixState ⟨0, 0, 0, 0, false⟩ wld0).engineRead (mtxGang wld0) wld0 0 (pair wld0 0 + num (j * param wld0 2)) (16 * bitsOf 7) =
      .ok (List.replicate 128 0)) ∧ (wld0.params.getD 3 0).getLsbD 6 = false ∧
    (∀ j, j < 1 → (∀ i, i < 1 → (matrixState ⟨0, 0, 0, 0, false⟩ mloop0).engineRead (mtxGang mloop0) mloop0 0
        (off (pair mloop0 0) ((0 + j : Nat) * signed mloop0 2) + num (i * param mloop0 3)) (128 * bitsOf 7 / 8) = .ok (List.replicate 128 0)) ∧
      ∀ i, i < 128 → (matrixState ⟨0, 0, 0, 0, false⟩ mloop0).engineRead (mtxGang mloop0) mloop0 0
        (off (pair mloop0 4) ((0 + j : Nat) * signed mloop0 6) + num (i * param mloop0 7)) (16 * bitsOf 7) = .ok (List.replicate 128 0)) ∧
    param mloop0 9 % 64 = 7 ∧ param mloop0 9 / 64 % 64 = 7 ∧ (mloop0.params.getD 9 0).getLsbD 12 = false ∧
    (mloop0.params.getD 9 0).getLsbD 13 = false ∧ mloop0.pos < param mloop0 8 := by
  refine ⟨fun j hj => matrix_zero j 128 hj (by decide), by decide, fun j hj => ⟨fun i hi => ?_, fun i hi => ?_⟩, by decide⟩
  · obtain rfl : j = 0 := by omega
    obtain rfl : i = 0 := by omega
    exact matrix_zero 0 128 (by decide) (by decide)
  · obtain rfl : j = 0 := by omega
    exact matrix_zero i 128 hi (by decide)

/-- The latches hold the bound tile of an `mma` and of an `mrec`, whose input row can be read; without a binding both end. -/
theorem witness_MatrixPasses_bound :
    (∀ x ∈ [mma0, mrec0, mrec1], ∃ w sc, Weights (matrixState ⟨0, 0, 0, 0, false⟩ x) (mtxGang x) x ⟨false, 0x10000, 128, 7, false, 0⟩ w sc) ∧
    (∀ x ∈ [mrec0, mrec1], mrec0.pos < param x 8 ∧ param x 9 / 256 % 128 = 0) ∧
    (matrixState ⟨0, 0, 0, 0, false⟩ mrec0).engineRead (mtxGang mrec0) mrec0 0 (off (pair mrec0 0) ((0 + 0 : Nat) * signed mrec0 2 + (0 * param mrec0 3 : Nat)))
      512 = .ok (List.replicate 512 0) ∧
    stepOf mma0.et 7 = 128 ∧ { mtxGang mma0 with binding := none }.binding = none := by
  refine ⟨fun x hx => ⟨fun j n => ([[1]].getD j []).getD n 0, fun _ _ => none, ?_, .inl ⟨⟨0, ⟨false, 0x10000, 128, 7, false, 0⟩, 0, 0, [[1]], []⟩, ?_,
    ⟨rfl, rfl, nofun⟩, fun _ _ => rfl, fun _ _ => rfl⟩⟩, by decide, matrix_zero 0 512 (by decide) (by decide), by decide, rfl⟩ <;>
    (revert x; decide +kernel)

/-- An `mrec` whose input row, or whose output row, is in a page that is missing. -/
theorem witness_MatrixPasses_stalled :
    let x := { mrec0 with params := [0x10000, 0, 0, 0, 0x20000, 0, 0, 0, 1, 0xC7] }
    let y := { mrec0 with params := [0x20000, 0, 0, 0, 0x20000, 0, 0, 0, 1, 0xC7] }
    (matrixState ⟨0, 0, 0, 0, false⟩ x).engineRead (mtxGang x) x 0 (off (pair x 0) (0 * signed x 2 + (0 * param x 3 : Nat))) 512 =
      .ok (List.replicate 512 0) ∧ (x.params.getD 9 0).getLsbD 7 = true ∧ (off (pair x 4) (0 * signed x 6)).toNat % 65536 + 512 ≤ 65536 ∧
    (matrixState ⟨0, 0, 0, 0, false⟩ x).enginePlace (mtxGang x) x.sup 0 (off (pair x 4) (0 * signed x 6)) 512 2 = .missing ∧
    (matrixState ⟨0, 0, 0, 0, false⟩ y).engineRead (mtxGang y) y 0 (off (pair y 0) (0 * signed y 2 + (0 * param y 3 : Nat))) 512 =
      .missing 0x20000 1 := by decide +kernel

/-- A row of an `accwr`, and the scratchpad's units that an `accrd` writes. -/
theorem witness_MatrixPasses_moved :
    (∀ r, r < 2 → (matrixState ⟨0, 0, 0, 0, false⟩ accwr0).engineRead (mtxGang accwr0) accwr0 0 (pair accwr0 0 + num (r * param accwr0 2)) 512 =
      .ok (List.replicate 512 0)) ∧
    RowsPut (matrixState ⟨0, 0, 0, 0, false⟩ accrd0) (mtxGang accrd0) accrd0 1 1 (fun r => pair accrd0 0 + num (r * param accrd0 2)) (fun _ => none) := by
  refine ⟨fun r hr => ?_, by decide, by decide, by decide +kernel, fun i m hm => puts_of (loc := none) ?_⟩
  · obtain rfl | rfl : r = 0 ∨ r = 1 := by omega
    · exact matrix_zero 0 512 (by decide) (by decide)
    · exact matrix_zero 4 512 (by decide) (by decide)
  · exact (by decide +kernel : ∀ m ∈ (List.range 1).flatMap fun r => (rowParts 1 (pair accrd0 0 + num (r * param accrd0 2))).map Prod.fst,
      putsNow (matrixState ⟨0, 0, 0, 0, false⟩ accrd0) (mtxGang accrd0) accrd0 m none = true) m (List.mem_of_getElem? hm)

/-- A block of one element whose product is a multiple of 2^-149; a finite residual, and one that is not. -/
theorem witness_MatrixBlocks :
    (Num.element 7 3).isFinite = true ∧ 0 ≤ (Num.element 7 3).dy.e + (Num.element 7 3).dy.e + (scaleOf none).2 + (scaleOf none).2 + 149 + (0 : Nat) ∧
    (Num.element 7 3).isNan = false ∧ (scaleNan (some 255) ∧ ¬scaleNan none) ∧
    ((Num.val 0x3F800000).isFinite && (Num.element 7 1).isFinite) = true ∧ ((Num.val 0x7F800000).isFinite && (Num.element 7 1).isFinite) = false := by
  refine ⟨by decide +kernel, by decide +kernel, by decide +kernel, ⟨rfl, nofun⟩, by decide +kernel⟩

theorem witness_MatrixCommands :
    (let g := mtxGang accz0
     let s : State := { (at0 g) with cur := none }
     s.gang? 0 0 = some g ∧ g.queues.getD 2 [] = accz0 :: [] ∧ accz0.decided = some true ∧ accz0.finished = false ∧ engineWorks s g ∧
       (s.cluster 0).resv = []) ∧ Starts (at0 engineGang) c0 engineGang (.mstat 1 16 18) :=
  ⟨⟨rfl, rfl, rfl, rfl, ⟨.inl rfl, rfl⟩, rfl⟩, starts0 (by decide +kernel)⟩

/-- R84's worked block: the exact sum, rounded once. -/
theorem test_worked_block : ((List.range 32).foldl (fun (t : BlockSum) j =>
    t.add (Num.element 45 (if j = 0 then 0x78 else 0x18)) (Num.element 45 (if j = 0 then 0x78 else 0x18))) {}).word (some 0x88) (some 0x7C) =
      0x46C00017 := by decide +kernel

theorem test_accz_clears_rows : ((got (exec .matrixPassGrant (matrixState ⟨0, 0, 0, 0, false⟩ accz0))).cluster 0).accWord 16512 = 0 ∧
    ((got (exec .matrixPassGrant (matrixState ⟨0, 0, 0, 0, false⟩ accz0))).cluster 0).accWord 16768 = 6 := by decide +kernel
/-! ### Collectives -/

/-- A collective of one rank, of one INT32 element, in a phase, at the head of the COLL queue; its frames. -/
def coll0 (phase : Nat) (r : List Word) : Cmd :=
  { cmd0 (.coll 0) with
      params := [0, 0, 0x10000, 0, 0x10100, 0, 1, 0, 3], data := [7, 0, 0, 0, 1, 0x10000, 0] ++ r
      decided := some true, phase := phase }
def frame0 (killed : Bool) (d : List Word) : CollFrame :=
  { id := 7, rank := 0, nrLog := 0, kind := 0, count := 1, type := 0, op := 0, round := 3, killed := killed, data := d }
def collState (x : Cmd) (fs : List CollFrame) : State := { copyingIn 3 x with ranks := fs }

theorem collTurn {p : Nat} {r : List Word} {fs : List CollFrame} : CollTurn (collState (coll0 p r) fs) (copyGang 3 (coll0 p r)) (coll0 p r) [] :=
  ⟨rfl, ⟨rfl, rfl⟩, rfl, ⟨0, rfl⟩, ⟨rfl, rfl, rfl⟩, ⟨.inl rfl, rfl⟩, fun e he => by obtain rfl := List.mem_singleton.1 he; rfl⟩

/-- The frames that the ranks of `coll0`'s communicator have. -/
theorem witness_CollectivesRun_announced : ∀ y ∈ [(1, false, []), (1, true, []), (2, false, [5])],
    (List.range (2 ^ ranksLog (coll0 y.1 []))).filterMap ((collState (coll0 y.1 []) [frame0 y.2.1 y.2.2]).rankFrame (commOf (coll0 y.1 []))) =
      [frame0 y.2.1 y.2.2] := by decide +kernel

/-- Not announced and announced; a rank without a frame; all announced, and all sent; a disagreement. -/
theorem witness_CollectivesRun :
    (∀ f, f ∈ (collState (coll0 0 []) []).ranks → ¬(f.id = commOf (coll0 0 []) ∧ f.rank = 0)) ∧
    (∃ f, f ∈ (collState (coll0 0 []) [frame0 false []]).ranks ∧ f.id = commOf (coll0 0 []) ∧ f.rank = param (coll0 0 []) 1) ∧
    (List.range (2 ^ ranksLog (coll0 1 []))).filterMap ((collState (coll0 1 []) []).rankFrame (commOf (coll0 1 []))) = [] ∧
    2 ^ ranksLog (coll0 1 []) = 1 ∧ Agreed [frame0 false []] ∧ Agreed [frame0 false [5]] ∧ holdsAll (frame0 false [5]) ∧
    ¬holdsAll (frame0 false []) ∧ ¬Agreed [frame0 false [], { frame0 false [] with rank := 1, round := 4 }] ∧
    commOf (coll0 0 []) = 7 ∧ ranksLog (coll0 0 []) = 0 := by
  have hA : ∀ d, Agreed [frame0 false d] := fun d f o hf ho => by
    obtain rfl := List.mem_singleton.1 hf
    obtain rfl := List.mem_singleton.1 ho
    exact ⟨rfl, rfl, rfl, rfl, rfl, rfl, rfl, rfl⟩
  refine ⟨nofun, ⟨_, List.mem_singleton.2 rfl, by decide, by decide⟩, by decide +kernel, by decide, hA _, hA _, by unfold holdsAll; decide,
    by unfold holdsAll; decide, fun h => ?_, by decide, by decide⟩
  exact absurd (h (frame0 false []) { frame0 false [] with rank := 1, round := 4 } (by simp) (by simp)).2.2.2.2.2.2.2 (by decide)

/-- Of two ranks the second alone has announced itself, killed; and a command of a killed launch. -/
theorem witness_CollectivesRun_killed :
    (let x := { coll0 1 [] with data := [7, 0, 1, 0, 1, 0x10000, 0] }
     (List.range (2 ^ ranksLog x)).filterMap ((collState x [{ frame0 true [] with rank := 1 }]).rankFrame (commOf x)) =
       [{ frame0 true [] with rank := 1 }] ∧ 2 ^ ranksLog x = 2) ∧
    (let x := coll0 0 []
     let g := { copyGang 3 x with launch := some 0 }
     let s := { collState x [] with gangs := [(0, g)], launches := [(0, { launch0 with killed := true })] }
     CollTurn s g x [] ∧ ∃ n l, g.launch = some n ∧ s.launch? n = some l ∧ l.killed = true) :=
  ⟨⟨by decide +kernel, by decide⟩,
    ⟨⟨rfl, ⟨rfl, rfl⟩, rfl, ⟨0, rfl⟩, ⟨rfl, rfl, rfl⟩, ⟨.inl rfl, rfl⟩, fun e he => by obtain rfl := List.mem_singleton.1 he; rfl⟩,
      0, _, rfl, rfl, rfl⟩⟩

/-- The element of the first phase, and the place of the result's one unit. -/
theorem witness_CollectivesRun_moves :
    (let x := coll0 1 []
     sends x = 1 ∧ x.data.length = 7 ∧ x.pos = 0 ∧ ∃ bs, (collState x [frame0 false []]).engineRead (copyGang 3 x) x 0 (pair x 2 + num (0 * elemSize x))
       (elemSize x) = .ok bs) ∧
    (let x := coll0 3 [5]
     x.data.drop 7 = [5] ∧ elemSize x = 4 ∧ x.pos = 0 ∧ x.code = 0 ∧ (pair x 4).toNat % 16 = 0 ∧
       Puts (collState x [frame0 false [5]]) (copyGang 3 x) x ⟨none, 0, off (pair x 4) (16 * 0 : Nat), 4⟩ (some 0x50100)) :=
  ⟨⟨by decide, by decide, rfl, ⟨[0xAB, 0, 0, 0], by decide +kernel⟩⟩, ⟨rfl, by decide, rfl, rfl, by decide, puts_of (by decide +kernel)⟩⟩

/-- Every rank of this device waits with its command. -/
theorem witness_CollectivesRun_here : ∃ e y more, e ∈ (collState (coll0 2 []) [frame0 false [5]]).gangs ∧ e.2.queues.getD 3 [] = y :: more ∧
    y.phase = 2 ∧ y.finished = false ∧ commOf y = commOf (coll0 2 []) ∧ param y 1 = ((coll0 2 []).data.getD 3 0).toNat + 0 :=
  ⟨_, _, _, List.mem_singleton.2 rfl, rfl, rfl, rfl, rfl, by decide⟩

/-- A port that is up and one that is down; the frame that is next from its peer; a frame whose 50 us, and 100 ms, have passed. -/
theorem witness_CollectivesRun_frames :
    (let s := { State.reset with links := [(0, { st := .up })] }
     ((s.link 0).st = .up ∨ (s.link 0).st = .degraded) ∧ (0 : Nat) = (s.peering 9).heard ∧
       (frame0 false (List.replicate 2304 0)).data.length * 4 ≤ 9216 ∧ 9216 < (frame0 false (List.replicate 2305 0)).data.length * 4) ∧
    ¬((State.reset.link 1).st = .up ∨ (State.reset.link 1).st = .degraded) ∧
    (let s := { State.reset with frames := [⟨9, 0, 100, 200, 7⟩], gtc := 100000100 }
     s.frames[0]? = some ⟨9, 0, 100, 200, 7⟩ ∧ 200 + 50000 ≤ s.gtc ∧ 100 + 100000000 ≤ s.gtc ∧ (⟨9, 0, 100, 200, 7⟩ : Frame) ∈ s.frames) := by
  decide +kernel

/-- The map at 0x10000 gives rank 0 as device 9. -/
theorem witness_CollectivesRun_lost :
    let x := coll0 1 []
    let s := { copyingIn 3 x with mem := (0x50000, 9) :: (copyingIn 3 x).mem.drop 1 }
    x.finished = false ∧ x.data ≠ [] ∧ ∃ r w, r < 2 ^ ranksLog x ∧ s.rankWord 0 (x.data.getD 6 0 ++ x.data.getD 5 0) r = some w ∧
      w.toNat % 2 ^ 20 = 9 :=
  ⟨rfl, by decide, 0, 9, by decide, by decide +kernel, by decide⟩

theorem witness_CollectivesRun_time : (∀ n x, (n, x) ∈ State.reset.ctxs → x.st ≠ .running) ∧
    ∃ n x, (n, x) ∈ (at0 gang0).ctxs ∧ x.st = .running := ⟨nofun, 0, _, List.mem_singleton.2 rfl, rfl⟩

/-- Two ranks of one word. -/
theorem witness_CollectiveValues : [[(1 : Word)], [2]].length = 2 ^ 1 ∧ ∀ xs, xs ∈ [[(1 : Word)], [2]] → xs.length = 1 := by decide

/-- R224's four values, and the eight of R328, in the tree's order. -/
theorem test_tree_order : collResult 0 2 0 2 1 0 [[0x4B800000], [0x3F800000], [0x3F800000], [0xCB800000]] = [0x3F800000] ∧
    collResult 0 2 0 3 1 0 [[0x4B800000], [0x3F800000], [0x3F800000], [0xCB800000], [0x3F800000], [0], [0], [0]] = [0x40000000] := by
  decide +kernel

theorem test_all_reduce : collResult 0 0 0 1 2 0 [[1, 2], [3, 0xFFFFFFFF]] = [4, 1] := by decide +kernel
/-! ## Launches and groves -/

/-- A record of one grove of one gang at physical 0x20000: CODE 0x1000, COMPLETE 0x10100, nothing else. -/
def recordMem : Sparse Byte := [(0x20009, 0x10), (0x20010, 1), (0x200F1, 1), (0x200F2, 1)]
def lnchGang (p : Nat) : Gang := { memGang with slices := [{ pc := 0x1000, phase := p }] }
def lnchState : State := { memState (lnchGang 1) with mem := recordMem }
def recordByte (k : Nat) : Byte := lnchState.homeByte lnchState.gtc (0x20000 + k)

theorem record_ok : RecordOk recordByte := by unfold RecordOk; decide +kernel

theorem witness_LaunchesAdmitted_lnch : Starts lnchState c0 (lnchGang 1) (.lnch 5 2) ∧ ((lnchGang 1).slice 0).phase ≠ 0 ∧
    (lnchGang 1).sreg 3 ++ (lnchGang 1).sreg 2 = (0x10000 : Dword) ∧
    lnchState.placeOf (lnchGang 1) 0 256 1 0x10000 = .at_ 0x20000 false ∧ lnchState.readable 0 0x20000 4 = true ∧ LnchCode lnchState recordByte 0 := by
  refine ⟨starts_of rfl rfl rfl rfl (by decide +kernel), by decide, by decide, by decide +kernel, by decide +kernel,
    fun h => absurd record_ok h, fun _ h => absurd h (by decide), fun _ _ h => ?_, fun _ _ _ => rfl⟩
  have : claimsOf recordByte = [] := by decide +kernel
  rcases h with ⟨i, j, x, y, _, hx, _⟩ | ⟨e, x, y, he, _⟩
  · rw [this] at hx; cases hx
  · cases he

theorem witness_LaunchesAdmitted_waits : Starts (memState (lnchGang 0)) c0 (lnchGang 0) (.lnch 5 2) ∧ ((lnchGang 0).slice 0).phase = 0 ∧
    Starts (memState memGang) c0 memGang (.lnch 5 8) ∧ (memGang.sreg 9 ++ memGang.sreg 8 : Dword).toNat % 256 ≠ 0 ∧ memGang.sup = false ∧
    (let s := { lnchState with homes := [(0x20000 / 64, { at_ := lnchState.gtc, who := 1024 })] };
      s.readable 0 0x20000 4 = false ∧ s.placeOf (lnchGang 1) 0 256 1 0x10000 = .at_ 0x20000 false) :=
  ⟨starts_mem (by decide +kernel), rfl, starts_mem (by decide +kernel), by decide, rfl, by decide +kernel⟩

theorem test_lnch_posts : (gotGang (exec (.lnch 5 2) lnchState)).sreg 5 = 0 ∧ (got (exec (.lnch 5 2) lnchState)).nextLaunch = 1 := by
  decide +kernel

/-- A posted launch with an after-word at 0x10000, which reads 0xAB. -/
def posted (a : List After) (banners : Dword) : State :=
  { copying czero0 with launches := [(0, { launch0 with state := .posted, afters := a, banners := banners, placed := [], next := 0 })] }
def after0 (a : Dword) (x : Word) : After := { addr := a, expect := x }

theorem witness_LaunchesAdmitted_after : ∀ x ∈ [after0 0x10000 0xAB, after0 0x10000 0, after0 0x10002 0, after0 0x90000 0],
    (∃ l, (posted [x] 0).launch? 0 = some l ∧ l.afters[0]? = some x ∧ l.state = .posted ∧ ((posted [x] 0).ctx l.ctx).st = .running) ∧
      x.at? = none ∧ x.watching = false ∧ x.read = none ∧ (posted [x] 0).travels ((posted [x] 0).placeNow 0 x.addr 1) = true :=
  fun x hx => ⟨⟨_, rfl, rfl, rfl, rfl⟩, by revert x; decide +kernel⟩

theorem witness_LaunchesAdmitted_places : (posted [] 0).placeNow 0 0x10000 1 = .at_ 0x50000 false ∧
    (posted [] 0).homeWord 30 0x50000 = 0xAB ∧ (posted [] 0).placeNow 0 0x90000 1 = .fault 4 ∧ isHost 0x50000 = false ∧
    (posted [] 0).watchFull 0x50000 = false := by decide +kernel

/-- A table at 0x10000 whose banner 3 is live, flown by the one gang. -/
def bannerTable : State :=
  { State.reset with
    gtc := 30, ctxs := [(0, { st := .running, root := 0x100000 })]
    launches := [(0, { launch0 with state := .posted, banners := 0x10000, placed := [], next := 0 })]
    mem := [(0x50018, 1), (0x50800, 3), (0x50804, 1), (0x100000, 0x01), (0x100002, 0x11), (0x110000, 0x01), (0x110002, 0x12),
      (0x120000, 0x01), (0x120002, 0x13), (0x130008, 0x0F), (0x13000A, 0x05)] }
def bannerBytes (a : Dword) (k : Nat) : Byte := Sparse.get 0 [(0x10018, 1), (0x10800, 3), (0x10804, 1)] (a.toNat + k)
def bannerEntry (b : Nat) : Dword := num (at' (bannerBytes (0x10000 + num (8 * b))) 0 8)
def bannerFly (j : Nat) : Dword := num (at' (bannerBytes (0x10000 + num (0x800 + 8 * j))) 0 8)

theorem witness_LaunchesAdmitted_table : TableOk bannerEntry bannerFly 1 := by unfold TableOk; decide +kernel

theorem witness_LaunchesAdmitted_bytes :
    ∀ a ∈ (List.range 256).map (fun b => (0x10000 : Dword) + num (8 * b)) ++ (List.range 1).map fun j => (0x10000 : Dword) + num (0x800 + 8 * j),
      bannerTable.readNow 0 a 8 = .ok ((List.range 8).map (bannerBytes a)) := by
  intro a ha
  have h : ((List.range 256).map (fun b => (0x10000 : Dword) + num (8 * b)) ++
      (List.range 1).map fun j => (0x10000 : Dword) + num (0x800 + 8 * j)).all (fun a =>
        match bannerTable.readNow 0 a 8 with
        | .ok bs => bs == (List.range 8).map (bannerBytes a)
        | .error _ => false) = true := by decide +kernel
  have := List.all_eq_true.1 h a ha
  revert this
  split
  · intro h'; rename_i heq; rw [← (beq_iff_eq.1 h')]; exact heq
  · intro h'; cases h'

theorem witness_LaunchesAdmitted_launch : (∃ l, bannerTable.launch? 0 = some l ∧ l.state = .posted ∧ (bannerTable.ctx l.ctx).st = .running ∧
    (∀ a, a ∈ l.afters → a.at? ≠ none) ∧ l.banners ≠ 0 ∧ bannerTable.travels (bannerTable.placeNow l.ctx l.banners 1) = true) ∧
    (∃ l, (posted [] 0).launch? 0 = some l ∧ l.banners = 0) ∧
    ∃ l e, (posted [] 0x90000).launch? 0 = some l ∧ (posted [] 0x90000).readNow l.ctx (l.banners + num (8 * 0)) 8 = .error e :=
  ⟨⟨_, rfl, rfl, rfl, nofun, by decide, by decide +kernel⟩, ⟨_, rfl, rfl⟩, _, _, rfl, rfl⟩

/-- An admitted launch of two groves of two gangs, a page of scratchpad each, with tile 5 to place on. -/
def placing : State :=
  { State.reset.modCtx 0 fun c => { c with st := .running, tiles := [5] } with
    gtc := 9
    launches := [(0, { launch0 with state := .admitted, groves := 2, shape := 1, scratch := 4096, placed := [], next := 0 })] }

theorem witness_GrovesPlaced : ∃ l, placing.launch? placing.subject.unit = some l ∧ l.state = .admitted ∧
    l.next < l.groves ∧ l.faulted = false ∧ (placing.ctx l.ctx).st = .running ∧ (∀ e, e ∈ placing.launches → e.1 = 0) ∧
    (placing.ctx l.ctx).tiles = [] ++ 5 :: [] ∧ Fits placing l 5 ∧ freeFrom (placing.tile 5) l.scratch 0 ∧ (placing.tile 5).dorm = .active ∧
    (placing.tile 5).switching = none ∧ (placing.ctx l.ctx).loglim = 0 ∧ (placing.ctx l.ctx).cap = false ∧
    (placing.ctx l.ctx).slack.k ≠ 16 ∧ ItsTurn placing 0 l := by
  have free : freeFrom (placing.tile 5) 4096 0 := ⟨by decide, fun _ _ h => by obtain ⟨a, ha, _⟩ := h; cases ha⟩
  refine ⟨_, rfl, rfl, by decide, rfl, rfl, by decide, rfl, ⟨by decide +kernel, 0, free⟩, free, rfl, rfl, rfl, rfl, by decide, .inr ?_, ?_⟩
  · rintro ⟨-, h⟩
    exact absurd h List.not_mem_nil
  · intro m hm hne
    obtain rfl := List.mem_singleton.1 hm
    exact absurd rfl hne

/-- Two launches of one priority and time: the first posted has its turn, the second not; a DET launch that had its grove waits. -/
def rivals (seen : List Nat) : State :=
  { (placing.modCtx 0 fun c => { c with visited := seen }) with
    launches := (List.range 2).map fun k => (k, { launch0 with state := .admitted, flags := 1, placed := [], next := 0, scratch := 0 }) }
def rival0 : Launch := { launch0 with state := .admitted, flags := 1, placed := [], next := 0, scratch := 0 }

theorem rivals_offer (seen : List Nat) : Offers (rivals seen) 0 rival0 :=
  ⟨rfl, .inl rfl, by decide, rfl, 5, List.mem_singleton.2 rfl, (by decide +kernel : 1 ≤ (freeSlots (rivals []) 5).length), 0, by decide,
    fun _ _ h => by obtain ⟨a, ha, _⟩ := h; cases ha⟩

theorem witness_GrovesPlaced_turns :
    (∃ l, (rivals []).launch? 1 = some l ∧ ¬ItsTurn (rivals []) 1 l) ∧ ∃ l, (rivals [0]).launch? 0 = some l ∧ ¬ItsTurn (rivals [0]) 0 l := by
  refine ⟨⟨rival0, rfl, fun h => ?_⟩, rival0, rfl, fun h => ?_⟩
  · refine h.2 (0, rival0) (List.mem_cons_self ..) (by decide) (rivals_offer _) (.inr fun hp => ?_) (.inr ⟨rfl, .inr ⟨rfl, by decide⟩⟩)
    exact absurd hp.2 List.not_mem_nil
  · have open_ : ¬RoundOver (rivals [0]) 0 := fun h =>
      absurd (h (1, rival0) (List.mem_cons_of_mem _ (List.mem_cons_self ..)) (rivals_offer _)).2 (by decide)
    exact h.1.elim open_ fun h => h ⟨rfl, List.mem_singleton.2 rfl⟩

theorem test_placement_fills : (((got (exec .grovePlacement placing)).gang? 5 1).getD gang0).gidx = 1 ∧
    (((got (exec .grovePlacement placing)).gang? 5 1).getD gang0).sreg 3 = 0xFFFFFFFF := by decide +kernel

def pendingGang : Gang := { gang0 with pos := none }
theorem witness_GrovesPlaced_activate :
    let s := { at0 pendingGang with cur := none }
    s.gang? 0 0 = some pendingGang ∧ Pending s 0 pendingGang ∧ (∀ e, e ∈ s.ctxs → e.2.st ≠ .stopping) ∧
      (∀ h, Pending s 0 h → ¬stamp s h (h.leaders.headD 0) < stamp s pendingGang (pendingGang.leaders.headD 0)) ∧
      (freeIn s 0 0).head? = some 0 ∧ ¬(freeIn s 0 0).length < (freeIn s 0 1).length := by
  refine ⟨rfl, ⟨List.mem_singleton.2 rfl, rfl, rfl, rfl⟩, by decide, fun h hp => ?_, by decide +kernel⟩
  obtain rfl : h = pendingGang := List.mem_singleton.1 hp.1
  exact List.lt_irrefl _

/-- The gang of slot 1 is younger than that of slot 0. -/
def youngGang : Gang := { pendingGang with slot := 1, gidx := 1 }
theorem witness_GrovesPlaced_younger :
    let s := { at0 pendingGang with cur := none, gangs := [(0, pendingGang), (1, youngGang)], subject := { slot := 1 } }
    s.gang? 0 1 = some youngGang ∧ Pending s 0 youngGang ∧ (∃ h, Pending s 0 h ∧ stamp s h (h.leaders.headD 0) < stamp s youngGang 0) ∧
      ∀ h, h ∈ s.gangsOf 0 → h.slot = 1 → h = youngGang :=
  ⟨rfl, ⟨by decide +kernel, rfl, rfl, rfl⟩, ⟨pendingGang, ⟨by decide +kernel, rfl, rfl, rfl⟩, by decide +kernel⟩, by decide +kernel⟩

/-- An active gang in a `wata`, a pending one in slot 1 whose code is at hand, and seven at the other positions. -/
def parkedGang : Gang := { gang0 with slices := [{ pc := 0x1000, wait := .wata }] }
def comingGang : Gang := { gang0 with slot := 1, pos := none }
def exchanging : State :=
  { fetching parkedGang [bodyLine 0] with cur := none, subject := { slot := 0, part := 1 }, gangs := (0, parkedGang) :: (1, comingGang) :: (List.range 7).map fun k => (k + 2, { gang0 with slot := k + 2, pos := some (k + 1) }) }

theorem witness_GrovesPlaced_exchange : exchanging.gang? 0 0 = some parkedGang ∧ exchanging.gang? 0 1 = some comingGang ∧
    parkedGang.pos = some 0 ∧ comingGang.pos = none ∧ parkedGang.ended = false ∧ (exchanging.ctx 0).st = .running ∧
    (exchanging.ctx 0).loglim = 0 ∧ freeIn exchanging 0 0 = [] ∧ freeIn exchanging 0 1 = [] ∧ (∃ a, exchanging.readyPending 0 = [(comingGang, a)]) ∧ parkedGang.leaders = [0] ∧ (parkedGang.slice 0).wait = .wata :=
  ⟨by decide +kernel, by decide +kernel, rfl, rfl, rfl, rfl, rfl, by decide +kernel, by decide +kernel, ⟨[0, 0, 0, 0, 1], by decide +kernel⟩, by decide +kernel, rfl⟩

/-- The pending gang belongs to the anchor; every position is taken, seven by other anchors' gangs. -/
def anchored (slot : Nat) (p : Option Nat) : Gang := { gang0 with slot := slot, launch := some 0, pos := p, slices := [{ pc := 0x1000 }] }
def crowded : State :=
  { fetching gang0 [bodyLine 0] with
    cur := none, gtc := 100000, launches := [(0, launch0)]
    gangs := (0, gang0) :: (List.range 8).map fun k => (k + 1, anchored (k + 1) (if k = 7 then none else some (k + 1))) }

theorem test_tpark_exchangeable : State.reset.exchangeable { gang0 with slices := [{ pc := 0x1000, wait := .park }] } 0 = true := by decide

theorem witness_GrovesPlaced_forced : (∃ a, crowded.readyPending 0 = [(anchored 8 none, a)]) ∧
    crowded.gang? 0 0 = some gang0 ∧ crowded.gang? 0 8 = some (anchored 8 none) ∧ crowded.anchor (anchored 8 none) = true ∧
    (anchored 8 none).since + 40960 / max 1 ((crowded.cluster 0).cclk.toNat % 256) ≤ crowded.gtc ∧
    ((crowded.gangsOf 0).filter fun g => g.pos.isSome && !crowded.anchor g) = [gang0] ∧ gang0.pos = some 0 ∧
    (crowded.ctx 0).st = .running ∧ (crowded.ctx 0).loglim = 0 ∧ freeIn crowded 0 0 = [] ∧ freeIn crowded 0 1 = [] :=
  ⟨⟨[0, 0, 0, 0, 8], by decide +kernel⟩, by decide +kernel⟩

/-- A launch whose one grove has exited, with an allocation and perhaps a held atomic. -/
def retiring (held : List Held) : State :=
  { (at0 (launched gang0)).modTile 0 fun t => { t with allocs := [⟨0, 0, 0, 4096, 0⟩], det := held } with
    cur := none
    launches := [(0, { launch0 with placed := [{ index := 0, tile := 0, slots := [0], alloc := true, exited := [0] }] })] }

theorem witness_LaunchesEnd_retire : ∃ l v, (retiring []).launch? 0 = some l ∧
    l.placed.find? (fun v => v.index == 0 && decide (l.shape.toNat % 16 + 1 ≤ v.exited.length)) = some v ∧
    unsaved ((retiring []).ctx l.ctx) ∧ (retiring []).drains = [] ∧ ((retiring []).tile 0).det = [] ∧ v.tile < 768 ∧
    (∀ k, k ∈ v.slots → k < 32) ∧
    ((retiring []).tile 0).allocs.filter (fun a => a.launch == 0 && a.grove == v.index) = [⟨0, 0, 0, 4096, 0⟩] ∧
    ∃ h, h ∈ ((retiring [held0]).tile 0).det ∧ (h.launch == 0 && h.grove == v.index) = true :=
  ⟨_, _, rfl, rfl, by unfold unsaved; decide, rfl, rfl, by decide, by decide, by decide, _, List.mem_singleton.2 rfl, rfl⟩

/-- A grove without an allocation. -/
theorem witness_LaunchesEnd_bare :
    (((retiring []).modTile 0 fun t => { t with allocs := [] }).tile 0).allocs.filter (fun a => a.launch == 0 && a.grove == 0) = [] := by decide

/-- A launch whose groves have retired, its completion word at 0x10100. -/
def finishing (at_ : Dword) : State :=
  { copying czero0 with gangs := [], launches := [(0, { launch0 with state := .draining, completeAt := at_, placed := [], retired := 1 })] }

theorem witness_LaunchesEnd_drain : (∃ l, (finishing 0x10100).launch? 0 = some l ∧ l.state = .draining ∧
      unsaved ((finishing 0x10100).ctx l.ctx) ∧ Drained (finishing 0x10100) 0 l) ∧
    (finishing 0x10100).placeNow 0 0x10100 2 = .at_ 0x50100 false ∧ (finishing 0x10100).carries 0x50100 = true ∧ 0x50100 % 4 = 0 ∧
    (∃ va, { finishing 0x10100 with mem := [(0x100000, 0x01), (0x100002, 0x11), (0x110000, 0x01), (0x110002, 0x12), (0x120000, 0x01),
      (0x120002, 0x13), (0x130008, 0x2F), (0x13000A, 0x05)] }.placeNow 0 0x10100 2 = .miss va true) ∧
    (finishing 0x90000).placeNow 0 0x90000 2 = .fault 4 := by
  refine ⟨⟨_, rfl, rfl, by unfold unsaved; decide, ?_, ?_, rfl, ?_, ?_, by decide +kernel, ?_⟩, by decide +kernel, by decide +kernel, by decide, ⟨0x10100, by decide +kernel⟩, by decide +kernel⟩
  · intro e q he; cases he
  · intro e q he; cases he
  · intro e h he; cases he
  · intro d e hd; cases hd
  · intro h hh; cases hh

theorem test_completion_word : (got (exec .launchDrainComplete (finishing 0x10100))).homeWord 100 0x50100 = 0x90000000 := by decide +kernel

/-! ## Contexts -/

/-- Context 0 of the device with its record at 0x100000 and fault queue at 0x210000; `cmd` in CMD, `w` in CTL. -/
def ctxState (x : Ctx) (cmd : Word) (ctl : Word) : State :=
  { State.reset with
    gtc := 50, ctxs := [(0, x)], boot := { stage := 3, ctxbase := 0x100000 }
    mem := ((bytesOfNat 4 cmd.toNat).mapIdx fun i b => (0x100000 + i, b)) ++ ((bytesOfNat 4 ctl.toNat).mapIdx fun i b => (0x100038 + i, b)) }

theorem comes0 {x : Ctx} {cmd ctl : Word} (h : cmd ≠ 0) (hx : x.cmds = []) (hs : (ctxState x cmd ctl).standing 0x100000 = cmd) :
    Comes (ctxState x cmd ctl) 0 cmd [] :=
  ⟨rfl, rfl, by decide, by show (0x100000 : Dword).toNat % 256 = 0; decide, h, .inl ⟨.inr hx, hx.symm, hs⟩⟩

theorem witness_ContextCommands_rejected :
    (∃ x : Ctx, ¬busy (ctxState x 0x10007 0) 0 ∧ Comes (ctxState x 0x10007 0) 0 0x10007 [] ∧ 7 ≤ (0x10007 : Word).toNat % 16) ∧
    (∃ x : Ctx, Comes (ctxState x 0x10012 0) 0 0x10012 [] ∧ (0x10012 : Word).toNat / 16 % 2 ^ 12 ≠ 0) ∧
    ∃ x : Ctx, Comes (ctxState x 0x10002 0) 0 0x10002 [] ∧ ¬hasRow 2 ((ctxState x 0x10002 0).ctx 0).st := by
  refine ⟨⟨{}, by unfold busy; decide, comes0 (by decide) rfl (by decide +kernel), by decide⟩,
    ⟨{}, comes0 (by decide) rfl (by decide +kernel), by decide⟩, {}, comes0 (by decide) rfl (by decide +kernel), ?_⟩
  unfold hasRow; decide

theorem witness_ContextCommands_held : busy (ctxState { st := .stopping } 0x10002 0) 0 ∧
    Comes (ctxState { st := .stopping } 0x10002 0) 0 0x10002 [] := ⟨.inl rfl, comes0 (by decide) rfl (by decide +kernel)⟩

theorem witness_ContextCommands_taken : ∀ x ∈ [(CtxState.running, (0x10002 : Word)), (.running, 0x10004), (.saved, 0x10004),
      (.running, 0x10005), (.saved, 0x10005), (.ended, 0x10006), (.failed, 0x10006), (.stopping, 0x10004)],
    Taken (ctxState { st := x.1 } x.2 0x1040) 0 x.2 [] (x.2.toNat % 16) ∧ ((ctxState { st := x.1 } x.2 0x1040).ctx 0).st = x.1 :=
  fun x hx => ⟨⟨comes0 (by revert x; decide +kernel) rfl (by revert x; decide +kernel), rfl, by revert x; decide +kernel⟩, rfl⟩

/-- A kill finds a launch dispatching and one POSTED, and a gang of the context. -/
theorem witness_ContextCommands_kill :
    let s := { ctxState { st := .running, tiles := [0] } 0x10004 0 with
      gangs := [(0, gang0)], launches := [(0, launch0), (1, { launch0 with state := .posted, placed := [], next := 0 })] }
    Taken s 0 0x10004 [] 4 ∧ (s.launches.map Prod.fst).Nodup ∧ (∀ e, e ∈ s.gangs → gkey e.2.tile e.2.slot = e.1) ∧
      (∃ z, s.launch? 0 = some z ∧ isLive z = true ∧ z.state ≠ .posted) ∧ ∃ z, s.launch? 1 = some z ∧ isLive z = true ∧ z.state = .posted ∧
        z.faulted = false :=
  ⟨⟨⟨rfl, rfl, by decide, by show (0x100000 : Dword).toNat % 256 = 0; decide, by decide, .inl ⟨.inr rfl, rfl, by decide +kernel⟩⟩, by decide, by decide⟩,
    by decide, by decide, ⟨_, rfl, rfl, by decide⟩, _, rfl, rfl, rfl, rfl⟩

theorem witness_ContextCommands_update : ctlFits ((ctxState {} 0x10005 0x1040).homeWord 50 0x100038) ∧
    ¬ctlFits ((ctxState {} 0x10005 0).homeWord 50 0x100038) ∧ (ctxState {} 0x10005 0).gangs = [] :=
  ⟨by unfold ctlFits; decide +kernel, by unfold ctlFits; decide +kernel, rfl⟩

/-- A saved context of tile 5. -/
def savedCtx : Ctx := { st := .saved, save := 0x300000, tiles := [5], saved := some ⟨[], [], 0⟩ }
def savedCtx1 : Ctx := { savedCtx with saved := some ⟨[], [], 64⟩ }

/-- An error in the save area; the power words lie apart. -/
theorem witness_ContextCommands_bad : saveFails { ctxState savedCtx1 0x10003 0 with bad := [0xC000] } 0 64 ∧
    ¬saveFails (ctxState savedCtx 0x10003 0) 0 0 ∧ (∀ c ∈ List.range 192, (0 + 4 * c) % 2 ^ 48 + 4 ≤ 0x100000) ∧ ∀ u, u ∈ savedCtx.tiles → u < 768 :=
  ⟨⟨0xC000, by decide, by decide, by decide⟩, fun ⟨_, h, _⟩ => absurd h List.not_mem_nil, by decide +kernel, by decide⟩

theorem witness_ContextCommands_resume : Taken (ctxState savedCtx 0x10003 0) 0 0x10003 [] 3 ∧ savedCtx.saved = some ⟨[], [], 0⟩ ∧
    ¬heldByOther (ctxState savedCtx 0x10003 0) 0 savedCtx.tiles savedCtx.banks ∧
    heldByOther ((ctxState savedCtx 0x10003 0).modTile 5 fun t => { t with holder := some 1 }) 0 savedCtx.tiles savedCtx.banks := by
  refine ⟨⟨comes0 (by decide) rfl (by decide +kernel), by decide, by decide⟩, rfl, ?_, .inl ⟨5, 1, by decide, rfl, by decide⟩⟩
  rintro (⟨t, m, ht, h, _⟩ | ⟨b, m, hb, _⟩)
  · cases List.mem_singleton.1 ht
    cases h
  · cases hb

/-- SHAKE256 of no bytes, as FIPS 202 gives it. -/
def emptyDigest : List Byte :=
  [0x46, 0xB9, 0xDD, 0x2B, 0x0B, 0xA8, 0x8D, 0x13, 0x23, 0x3B, 0x3F, 0xEB, 0x74, 0x3E, 0xEB, 0x24, 0x3F, 0xCD, 0x52, 0xEA, 0x62, 0xB8, 0x1B, 0x82,
    0xB5, 0x0C, 0x27, 0x64, 0x6E, 0xD5, 0x76, 0x2F]

theorem test_shake256_of_nothing : Sha.shake256 [] = emptyDigest := by decide +kernel

/-- The save area's digest stands in DIGEST, or does not. -/
def digested (right : Bool) : State :=
  let s := ctxState savedCtx 0x10003 0
  { s with mem := s.mem ++ ((if right then emptyDigest else List.replicate 32 1).mapIdx fun i b => (0x100050 + i, b)) }

theorem witness_ContextCommands_digest : Sha.shake256 ((digested true).homeBytes 50 savedCtx.save 0) =
      (digested true).homeBytes 50 (recordOf (digested true) 0 + 0x50) 32 ∧
    Sha.shake256 ((digested false).homeBytes 50 savedCtx.save 0) ≠
      (digested false).homeBytes 50 (recordOf (digested false) 0 + 0x50) 32 := by
  have h : ∀ r, (digested r).homeBytes 50 savedCtx.save 0 = [] := fun _ => rfl
  rw [h, h, test_shake256_of_nothing]
  decide +kernel

/-- A record for `start`: ROOT 0x200000, SAVE 0x300000, SAVELEN 2^20, FQ 0x210000 of 16 slots, TBASE 0x10000, LEASE 16, share 16, tile 5. -/
def startMem : List (Nat × Nat × Nat) :=
  [(0x100000, 4, 0x10001), (0x100008, 8, 0x200000), (0x100010, 8, 0x300000), (0x100018, 8, 0x100000), (0x100020, 8, 0x210000),
    (0x100028, 8, 0x10000), (0x100038, 4, 0x1040), (0x1000A0, 1, 0x20), (0x200000, 8, 0x400001), (0x210008, 4, 16), (0x400000, 8, 0x410001),
    (0x410000, 8, 0x420001), (0x420008, 8, 0x50001F)]
def starting (savelen : Nat) : State :=
  { State.reset with
    gtc := 50, ctxs := [(0, {})], boot := { stage := 3, ctxbase := 0x100000, pwrbase := 0x600000 }
    mem := (startMem.flatMap fun x => (bytesOfNat x.2.1 (if x.1 = 0x100018 then savelen else x.2.2)).mapIdx fun i b => (x.1 + i, b)).filter
      fun x => x.2 ≠ 0 }
def startByte (n k : Nat) : Byte := (starting n).homeByte 50 (0x100000 + k)

theorem witness_ContextsMove_start : Taken (starting 0x100000) 0 0x10001 [] 1 ∧ ((starting 0x100000).ctx 0).st = .created ∧
    FieldsOk (starting 0x100000) (startByte 0x100000) ∧
    (ofRecord (starting 0x100000) { seq := 1 } (startByte 0x100000)).tiles = [5] ∧
    (ofRecord (starting 0x100000) { seq := 1 } (startByte 0x100000)).banks = [] ∧
    (ofRecord (starting 0x100000) { seq := 1 } (startByte 0x100000)).loglim = 0 ∧
    778304 * 1 + 65544 * 0 ≤ (ofRecord (starting 0x100000) { seq := 1 } (startByte 0x100000)).savelen ∧
    (ofRecord (starting 100) { seq := 1 } (startByte 100)).savelen < 778304 := by
  refine ⟨⟨⟨rfl, rfl, by decide, by decide, by decide, .inl ⟨.inr rfl, rfl, by decide +kernel⟩⟩, by decide, by decide⟩, rfl, ?_,
    by decide +kernel, by decide +kernel, by decide +kernel, by decide +kernel, by decide +kernel⟩
  refine ⟨by decide +kernel, by decide +kernel, by decide +kernel, by decide +kernel, by decide +kernel, by decide +kernel,
    ⟨4, by decide, by decide, by decide +kernel⟩, by decide +kernel, by decide +kernel, by unfold ctlFits; decide +kernel, by decide +kernel⟩

/-- The eight launcher entries read as nothing; PWRBASE lies apart. -/
theorem witness_ContextsMove_entries : (∀ k ∈ List.range 8,
      (match ((starting 0x100000).modCtx 0 fun _ => ofRecord (starting 0x100000) { seq := 1 } (startByte 0x100000)).readNow 0
          (0x10000 + num (0x800 + 32 * k)) 32 with
        | .ok bs => bs == List.replicate 32 0
        | .error _ => false) = true) ∧
    ∀ c ∈ List.range 192, 0x210000 + 4 ≤ ((starting 0x100000).boot.pwrbase.toNat + 4 * c) % 2 ^ 48 ∧
      0x100000 + 8 ≤ ((starting 0x100000).boot.pwrbase.toNat + 4 * c) % 2 ^ 48 := by decide +kernel

/-- A context that stops, its one tile at rest. -/
def stopping : State :=
  { (at0 gang0).modCtx 0 fun k => { k with st := .stopping, save := 0x300000 } with cur := none, boot := { stage := 3, ctxbase := 0x100000 } }
theorem witness_ContextsMove_save : (stopping.ctx 0).st = .stopping ∧ (∀ u, u ∈ (stopping.ctx 0).tiles → Rests stopping u) ∧
    (∀ e p j, e ∈ stopping.gangs → e.2.ctx = 0 → e.2.ended = false → p ∈ e.2.pend → j ∈ p.slices → p.left.getD j 0 = 0) ∧
    stopping.boot.ctxbase.toNat % 256 = 0 ∧ recordOf stopping 0 + 256 ≤ (stopping.ctx 0).save ∧
    ¬saveFails stopping 0 (savedBytes stopping 0) := by
  refine ⟨rfl, fun u hu => ?_, ?_, by decide, by decide, fun ⟨_, h, _⟩ => absurd h List.not_mem_nil⟩
  · cases List.mem_singleton.1 hu
    refine ⟨rfl, rfl, rfl, rfl, rfl, (fun _ _ h => by cases h), ?_⟩
    decide +kernel
  · intro e p j he _ _ hp
    obtain rfl := List.mem_singleton.1 he
    cases hp

/-- Its save area gives an error; a gang of a context that is killed on a tile that sleeps. -/
theorem witness_ContextsMove_lost : saveFails { stopping with bad := [0xC000] } 0 (savedBytes stopping 0) ∧
    ((stopping.modTile 0 fun t => { t with dorm := .dormant }).tile 0).asleep = true ∧ (stopping.tile 0).asleep = false :=
  ⟨⟨0xC000, List.mem_singleton.2 rfl, by decide, by decide +kernel⟩, by decide, by decide⟩

/-- The save of it, restored. -/
def savedTile0 : SavedTile where
  tile := 0
  gear := false
  sunk := false
  request := none
  scratch := []
  allocs := []
  det := []
  drop := 0
  stage := []
  logFault := false
  epoch := none
  gangs := [(0, { gang0 with pos := none })]
def saved0 : Saved := { tiles := [savedTile0], banks := [{ bank := 3, acc := [5], prog := 0 }], bytes := 0 }
def restoring : State := { stopping with gangs := [], ctxs := [(0, { st := .restoring, tiles := [0], saved := some saved0 })] }
theorem witness_ContextsMove_restore : ∃ v, (restoring.ctx 0).st = .restoring ∧ (restoring.ctx 0).saved = some v ∧ (restoring.ctx 0).replies = [] ∧
    (restoring.ctx 0).loglim = 0 ∧ ((v.tiles.flatMap fun z => z.gangs).map Prod.fst).Nodup ∧ (v.tiles.map fun z => z.tile).Nodup ∧
    (v.banks.map fun z => z.bank).Nodup ∧ (∀ z, z ∈ v.banks → z.acc.length ≤ 16384) ∧ ¬saveFails restoring 0 v.bytes :=
  ⟨_, rfl, rfl, rfl, rfl, by decide, by decide, by decide, by decide, fun ⟨_, h, _⟩ => absurd h List.not_mem_nil⟩

/-- A save area that gives an error. -/
theorem witness_ContextsMove_failed :
    let s := { restoring with bad := [0], ctxs := [(0, { st := .restoring, tiles := [0], saved := some { saved0 with bytes := 64 } })] }
    (s.ctx 0).st = .restoring ∧ saveFails s 0 64 := ⟨rfl, 0, by decide, by decide, by decide⟩

def killing : State := { stopping with gangs := [], ctxs := [(0, { st := .killing, tiles := [0] })] }
theorem witness_ContextsMove_kill : (killing.ctx 0).st = .killing ∧ (∀ u, u ∈ (killing.ctx 0).tiles → (killing.tile u).sq = [] ∧
    (killing.tile u).switching = none ∧ (killing.tile u).dorm = .active ∧ (killing.tile u).stage = []) ∧ ∀ e, e ∈ killing.gangs → e.2.ctx ≠ 0 :=
  ⟨rfl, by decide, by decide⟩

theorem test_restored_gang : (((got (exec .ctxRestoreComplete restoring)).gang? 0 0).getD handler0).sup = false ∧
    ((got (exec .ctxRestoreComplete restoring)).cluster 1).accWord 16384 = 5 := by decide +kernel
theorem test_killed_state : (got (exec .ctxKillComplete killing)).homeWord 1000 0x100004 = 6 := by decide +kernel

/-! ## Fault queue -/

/-- Context 0 with its fault queue of 16 slots at 0x210000 and `req` in REQ, ARG 3; `g` in slot 0. -/
def asking (g : Gang) (req : Word) (x : Ctx) : State :=
  { at0 g with
    cur := none, gtc := 50, ctxs := [(0, { x with fq := 0x210000, fqSize := 16, tiles := [0] })]
    mem := (bytesOfNat 4 req.toNat).mapIdx (fun i b => (0x210010 + i, b)) ++ [(0x210018, 3)] }
/-- An awaiting record 3 of the gang in slot 0. -/
def record3 (kind : Nat) : FaultRec := { kind := kind, cause := 4, seq := 3 }

theorem asked0 {g : Gang} {req : Word} {x : Ctx} (h : req ≠ 0) (hw : (asking g req x).standing 0x210010 = req)
    (hs : x.st ≠ .created ∧ x.st ≠ .ended ∧ x.st ≠ .failed) : Asked (asking g req x) 0 req :=
  ⟨rfl, by show 0x210000 % 64 = 0; decide, hs, h, hw⟩

theorem witness_FaultQueue_tpark : Starts (at0 gang0) c0 gang0 .tpark ∧ unlogged (at0 gang0) gang0 ∧ ¬roomAfter (at0 gang0) 0 0 ∧
    roomAfter ((at0 gang0).modCtx 0 fun k => { k with fqSize := 16 }) 0 0 ∧ Starts (at0 handler0) c0 handler0 .tpark ∧ handler0.sup = true :=
  ⟨starts0 (by decide +kernel), rfl, by unfold roomAfter; decide +kernel, by unfold roomAfter; decide +kernel, starts0 (by decide +kernel), rfl⟩

theorem witness_FaultQueue_post : ((asking gang0 0 { posts := [record3 2] }).ctx 0).posts = record3 2 :: [] ∧
    ((asking gang0 0 { posts := [record3 2] }).ctx 0).fq ≠ 0 ∧ ((asking gang0 0 { posts := [record3 2] }).ctx 0).fq % 64 = 0 ∧
    roomAfter (asking gang0 0 { posts := [record3 2] }) 0 0 := ⟨rfl, by decide, by decide, by unfold roomAfter; decide +kernel⟩

theorem witness_FaultQueue_wrong : Asked (asking gang0 0x10007 { st := .running }) 0 0x10007 ∧ 5 ≤ (0x10007 : Word).toNat % 16 ∧
    (∀ k, k ∈ [1, 2, 4] → Asked (asking gang0 (0x10000 + BitVec.ofNat 32 k) { st := .running }) 0 (0x10000 + BitVec.ofNat 32 k)) ∧
    ((asking gang0 0x10001 { st := .running }).ctx 0).await = [] :=
  ⟨asked0 (by decide) (by decide +kernel) (by decide), by decide,
    fun k hk => asked0 (by revert k; decide) (by revert k; decide +kernel) (by decide), rfl⟩

theorem replies0 {g : Gang} {k : Nat} {x : Ctx} {r : FaultRec} (hk : k ∈ [1, 2, 4]) (hx : x.st = .running ∨ x.st = .saved)
    (hw : (asking g (0x10000 + BitVec.ofNat 32 k) x).standing 0x210010 = 0x10000 + BitVec.ofNat 32 k)
    (ha : x.await.find? (fun r => r.seq == ((asking g (0x10000 + BitVec.ofNat 32 k) x).homeWord 50 0x210018).toNat) = some r) :
    Replies (asking g (0x10000 + BitVec.ofNat 32 k) x) 0 (0x10000 + BitVec.ofNat 32 k) k r := by
  have h1 : ∀ k ∈ [1, 2, 4], (0x10000 : Word) + BitVec.ofNat 32 k ≠ 0 ∧ (0x10000 + BitVec.ofNat 32 k : Word).toNat % 16 = k ∧
      (0x10000 + BitVec.ofNat 32 k : Word).toNat / 16 % 2 ^ 12 = 0 := by decide
  exact ⟨asked0 (h1 k hk).1 hw (by rcases hx with h | h <;> rw [h] <;> decide), (h1 k hk).2.1, (h1 k hk).2.2, ha⟩

/-- Groups parked in slot 0, and a stalled command there. -/
def parked (sup : Bool) : Gang := { launched gang0 with sup := sup, slices := [{ pc := 0x1000, wait := .park }] }
def stalled : Gang := { launched gang0 with queues := [[{ cmd0 .bcpy with stall := true }], [], [], []] }

theorem witness_FaultQueue_replies : ∀ k ∈ [1, 2, 4], ∀ x ∈ [(1, parked true), (2, parked false), (4, stalled)],
    Replies (asking x.2 (0x10000 + BitVec.ofNat 32 k) { st := .running, await := [record3 x.1] }) 0 (0x10000 + BitVec.ofNat 32 k) k
      (record3 x.1) := by
  intro k hk x hx
  refine replies0 hk (.inl rfl) ?_ ?_
  · revert x; revert k; decide +kernel
  · revert x; revert k; decide +kernel

theorem witness_FaultQueue_stands : ∀ x ∈ [(1, parked true), (2, parked false), (4, stalled)],
    StandsFor (asking x.2 0 {}) (record3 x.1) x.2 ∧ (x.1 ≠ 4 → (x.2.slice (record3 x.1).lane).wait = .park) ∧ x.2.launch = some 0 ∧
      x.2.gidx < 16 := by
  intro x hx
  refine ⟨⟨rfl, ?_, ?_, ?_, ?_⟩, ?_⟩ <;> (revert x; decide +kernel)

theorem witness_FaultQueue_stalled : ∃ y, stalled.queues.getD 0 [] = y :: [] ∧ y.stall = true ∧ y.code = 0 ∧ laneWise y.op = false :=
  ⟨_, rfl, rfl, rfl, rfl⟩

theorem witness_FaultQueue_saved : Replies (asking gang0 (0x10000 + BitVec.ofNat 32 1) { st := .saved, await := [record3 1] }) 0
    (0x10000 + BitVec.ofNat 32 1) 1 (record3 1) :=
  replies0 (by decide) (.inr rfl) (by decide +kernel) (by decide +kernel)

/-- A removal that is over, and one whose store is still in its tile's queue. -/
def removal0 : Removal := { seq := 7, stores := [(0, 4)], loads := [], walked := [], until_ := 20 }

theorem witness_FaultQueue_asks : Asked (asking gang0 0x10003 { st := .running }) 0 0x10003 :=
  asked0 (by decide) (by decide +kernel) (by decide)

def removing (now : Nat) : State := { asking gang0 0 { inval := [removal0] } with gtc := now }

theorem witness_FaultQueue_removal : ((removing 20).ctx 0).inval[(removing 20).subject.slot]? = some removal0 ∧
    RemovalOver (removing 20) 0 removal0 ∧ ¬RemovalOver (removing 19) 0 removal0 := by
  have hq : ((removing 20).tile 0).sq = [] := by decide +kernel
  refine ⟨by decide +kernel, ⟨by decide, fun x q hx h => ?_, fun _ _ _ _ h => absurd h List.not_mem_nil, fun _ _ _ h => absurd h List.not_mem_nil,
    fun _ h => absurd h List.not_mem_nil⟩, fun h => absurd (show 20 ≤ 19 from h.1) (by decide)⟩
  obtain rfl := List.mem_singleton.1 hx
  rw [hq] at h
  cases h

/-- An atomic of the context that a tile holds keeps a removal open; a reply finds its tile asleep. -/
def heldAtomic : Held := { launch := 0, slot := 0, gen := 0, grove := 0, gang := 0, lane := 0, seq := 0, loc := 0x50000, op := 0, x := 1, y := 0, va := some 0x10000 }
def holding : State := { (removing 20).modTile 0 fun t => { t with det := [heldAtomic], dorm := .dormant } with launches := [(0, launch0)] }

theorem witness_FaultQueue_heldAtomic : HeldFor holding 0 heldAtomic ∧ ¬RemovalOver holding 0 { removal0 with held := [heldAtomic] } ∧
    (holding.tile 0).asleep = true := by
  have h : HeldFor holding 0 heldAtomic := ⟨⟨_, rfl, rfl⟩, .inl ⟨(0, holding.tile 0), by decide +kernel, by decide +kernel⟩⟩
  exact ⟨h, fun x => x.2.2.2.2 _ (List.mem_singleton.2 rfl) h, by decide⟩

/-- An interrupt that may leave, with its link down and up; one that waits for its PUT, and one for a store before it. -/
def ring0 (behind : List (Nat × Nat)) : Ring := { vector := 5, w := 40, behind := behind }
def ringing (b : List (Nat × Nat)) : State := asking gang0 0 { rings := [ring0 b] }
def hostStore0 : HostStore := { tile := 0, slot := 0, gen := 0, launch := none, seq := 4, line := 0, addr := 0, w := none }

theorem witness_FaultQueue_rings : ((ringing []).ctx 0).rings = [] ++ ring0 [] :: [] ∧ RingDue (ringing []) (ring0 []) ∧
    ¬RingDue { ringing [] with gtc := 39 } (ring0 []) ∧ ¬RingDue { ringing [(0, 4)] with hostStores := [hostStore0] } (ring0 [(0, 4)]) ∧
    ¬(((ringing []).link 0).st = .up ∨ ((ringing []).link 0).st = .degraded) :=
  ⟨rfl, ⟨by decide, nofun⟩, fun h => absurd h.1 (by decide), fun h => absurd (h.2 _ (List.mem_singleton.2 rfl) rfl) (by decide), by decide⟩

theorem test_post_writes_kind : (got (exec .faultQueuePost (asking gang0 0 { posts := [record3 2] }))).homeWord 1000 0x210040 = 0x402 ∧
    (got (exec .faultQueuePost (asking gang0 0 { posts := [record3 2] }))).homeWord 1000 0x210000 = 1 := by decide +kernel
theorem test_unknown_request : (got (exec .fqResume (asking gang0 0x10001 { st := .running }))).homeWord 1000 0x210014 = 0x10100 := by
  decide +kernel

/-! ## Power -/

theorem witness_PowerControl : clockFits 0x118 ∧ ¬clockFits 0x307 ∧ (State.reset.cluster 3).relock = none ∧ (State.reset.cluster 3).cclk = 0x242 ∧
    powerFits 0x051F0010 = false ∧ powerFits 0x00050010 ∧ ¬powerFits 0 ∧ Target State.reset 3 4 4 ∧ slackFits 0x100001 30 10 5 0 ∧
    ¬slackFits 0x100001 30 10 0 0 ∧ ¬slackFits 0x100001 30 10 5 1 ∧ onlyWrites ((State.reset).tile 0) ∧ (0x242 : Word) &&& 0x3FF = 0x242 := by
  refine ⟨by unfold clockFits; decide, by unfold clockFits; decide, rfl, rfl, ?_, by unfold powerFits; decide, by unfold powerFits; decide,
    ⟨by decide, ?_, .inl rfl⟩, by unfold slackFits; decide, by unfold slackFits; decide, by unfold slackFits; decide, nofun, by decide⟩
  · unfold powerFits; decide
  · rintro k ⟨n, x, u, h, _⟩; cases h

theorem witness_PowerControl_relock : let s := State.reset.modCluster 0 fun k => { k with relock := some 0x118 }
    (s.cluster 0).relock = some 0x118 ∧ (∀ u, s.gangsOf u = []) ∧
      ∃ g x, g ∈ ({ at0 { gang0 with slices := [{ pc := 0, wait := .spill }] } with cur := none } : State).gangsOf 0 ∧ x ∈ g.slices ∧ x.wait = .spill :=
  ⟨rfl, fun _ => rfl, _, _, List.mem_singleton.2 rfl, List.mem_singleton.2 rfl, rfl⟩

theorem witness_PowerControl_cadence : let s := State.reset.modCluster 0 fun k => { k with cad := 6, base := 2 }
    Target s 0 (s.cluster 0).base 2 ∧ 2 < (s.cluster 0).cad ∧ (s.cluster 0).cadWin ≠ some (s.gtc * ((s.cluster 0).cclk.toNat % 256) / 2560) := by
  refine ⟨⟨by decide, ?_, .inl rfl⟩, by decide, by decide⟩
  rintro k ⟨n, x, u, h, _⟩; cases h

/-- A slack record under way: fifteen rounds of 100 ticks known, and a round of two ranks of which one or both have completed. -/
def round0 (ranks : List Nat) : SlackRound :=
  { comm := 0, id := 7, round := 4, hosted := 2, ranks := ranks, accepted := 200, first := 250, completed := 300 }
def slackOf (ranks : List Nat) : Slack :=
  { ctl := 0x100001, hi := 30, lo := 10, notchTicks := 5, last := List.replicate 15 100, open_ := [round0 ranks] }
def slackState : State := State.reset.modCtx 0 fun k => { k with slack := slackOf [0, 1] }
theorem witness_PowerControl_slack : let x := (slackState.ctx 0).slack
    x.ctl.getLsbD 0 = true ∧ x.last.length ≤ 16 ∧ (x.last ++ [100]).length = 16 ∧ x.changed = false ∧ x.hi.toNat < (x.last ++ [100]).sum / 16 ∧
      x.k < x.ctl.toNat / 2 ^ 16 % 32 ∧ x.err = false ∧ x.open_ = [] ++ round0 [0, 1] :: [] ∧ (round0 [0, 1]).hosted ≤ (round0 [0, 1]).ranks.length ∧
      (round0 [0, 1]).completed - (round0 [0, 1]).accepted = 100 ∧ ∀ r, r ∈ (slackOf [1]).open_ → r.ranks.length < r.hosted := by decide

theorem test_slack_round_raises : ((got (exec (.slackRound 0 100) slackState)).ctx 0).slack.k = 1 := by decide +kernel
theorem test_cclk_reserved_ratio : (got (exec (.cclkWrite 0 0x307) State.reset)).clusters = [] := by decide +kernel

def sleeping (d : Dorm) (latch : Bool) : State := State.reset.modTile 0 fun t => { t with dorm := d, latch := latch }

theorem witness_DormantTiles : sleepy (sleeping .active false) 0 ∧ ¬called (sleeping .active false) 0 ∧ called (sleeping .sealing true) 0 ∧
    ((sleeping .waking true).cluster 0).relock = none ∧ ((sleeping .dormant true).tile 0).dorm = .dormant ∧
    ((sleeping .sealing true).tile 0).request ≠ some true ∧ ((sleeping .sealing true).tile 0).lift = false := by
  refine ⟨⟨rfl, fun g h => by cases h⟩, ?_, .inl rfl, rfl, rfl, by decide, rfl⟩
  rintro (h | ⟨n, h, _⟩ | ⟨g, j, b, m, h, _⟩ | ⟨w, _, h, _⟩ | ⟨g, j, e, h, _⟩)
  · cases h
  · cases h
  · cases h
  · cases h
  · cases h

theorem test_seal_aborted : ((got (exec .dormantSeal (sleeping .sealing true))).tile 0).dorm = .active ∧
    ((got (exec .dormantSeal (sleeping .sealing false))).tile 0).dorm = .dormant := by decide +kernel

/-! ## The replay log -/

/-- Tile 0 of context 0 with `n` entries staged; the log lies at 0x10000, its descriptor's page at 0x20000, both mapped. -/
def logging (n : Nat) (lim : Dword) : State :=
  { ((copying czero0).modTile 0 fun t => { t with holder := some 0, stage := List.replicate n 5 }).modCtx 0 fun k =>
      { k with loglim := lim, logBase := 0x10000, tbase := 0x20000 } with
    cur := none, gtc := 20000
    mem := [(0x100000, 0x01), (0x100002, 0x11), (0x110000, 0x01), (0x110002, 0x12), (0x120000, 0x01), (0x120002, 0x13), (0x130008, 0x0F),
      (0x13000A, 0x05), (0x130010, 0x0F), (0x130012, 0x06)] }

theorem witness_LogLines_ready : LogReady (logging 4 0x20000) 0 0x50000 0x63008 :=
  ⟨by decide +kernel, ⟨false, by decide +kernel⟩, ⟨false, by decide +kernel⟩, by decide +kernel, by decide⟩

/-- The log's page has a zero hint. -/
theorem witness_LogLines_zero : { logging 4 0x20000 with mem := [(0x100000, 0x01), (0x100002, 0x11), (0x110000, 0x01), (0x110002, 0x12), (0x120000, 0x01),
      (0x120002, 0x13), (0x130008, 0x2F), (0x13000A, 0x05)] }.placeNow 0 0x10000 2 = .miss 0x10000 true := by decide +kernel

theorem witness_LogLines : ((logging 4 0x20000).tile 0).holder = some 0 ∧ 4 ≤ ((logging 4 0x20000).tile 0).stage.length ∧
    (logging 4 0x20000).placeNow 0 0x10000 2 = .at_ 0x50000 false ∧ (logging 4 0x20000).placeNow 0 0x23008 2 = .at_ 0x63008 false ∧
    ((logging 4 0x20000).ctx 0).logBase + ((logging 4 0x20000).ctx 0).logPut + 64 ≤ ((logging 4 0x20000).ctx 0).loglim.toNat ∧
    ((logging 4 0x10010).ctx 0).loglim.toNat < ((logging 4 0x10010).ctx 0).logBase + ((logging 4 0x10010).ctx 0).logPut + 64 ∧
    ((logging 1 0x20000).tile 0).stage.length < 4 ∧ 10000 ≤ ((logging 1 0x20000).gtc + 2 ^ 48 - (5 : LogEntry).toNat % 2 ^ 48) % 2 ^ 48 := by
  decide +kernel

theorem witness_LogLines_fault : let s := (logging 4 0xA0000).modCtx 0 fun k => { k with logBase := 0x90000 }
    s.placeNow 0 0x90000 2 = .fault 4 := by decide +kernel

theorem test_log_line : (got (exec .logLineWrite (logging 4 0x20000))).homeByte 30000 0x50010 = 5 ∧
    (got (exec .logLineWrite (logging 4 0x20000))).homeDword 30000 0x63008 = 64 := by decide +kernel

/-! ## Links, requests from outside, boot -/

/-- The device with one link in a state since time 5, at time 20,000,000. -/
def linked (n : Nat) (st : LinkState) (retr : Nat) : State :=
  { State.reset with gtc := 20000000, links := [(n, { st := st, lanes := 8, retr := retr, since := 5 })] }

theorem witness_LinkStates : (((linked 3 .training 1).link 3).st = .training ∧
      ((linked 3 .training 1).link 3).since + 10000000 ≤ (linked 3 .training 1).gtc) ∧
    (((linked 3 .down 1).link 3).st = .down ∧ ((linked 3 .down 1).link 3).since + 1000000 ≤ (linked 3 .down 1).gtc) ∧
    (State.reset.link 3).retr = 0 ∧ ((linked 3 .up 0).link 3).st = .up ∧ ((linked 3 .degraded 0).link 3).st = .degraded ∧
    ({ linked 3 .training 0 with gtc := 7 } : State).gtc < ((linked 3 .training 0).link 3).since + 2000000 ∧
    ((linked 0 .training 1).link 0).st = .training ∧ LinkState.up ∉ [LinkState.training] := by decide

/-- One gang that waits on the host, GortyLink in TRAINING. -/
def hostWait (g : Gang) (sq : List SqEntry) (hs : List HostStore) : State :=
  { linked 0 .training 1 with gangs := [(0, g)], tiles := [(0, { sq := sq })], hostStores := hs }
/-- Its load of a word at the start of the aperture, its atomic there, its fence and store. -/
def hostLoad : Pend :=
  { id := 3, slices := [0], left := List.replicate 8 0, dests := [.sreg 5]
    load := some { reg := 5, lanes := [⟨32, some 0xE00000000000, 0x8000⟩], width := 4, signed := false, need := [0x38000000000] } }
def hostAtomic : SqEntry := { seq := 3, slot := 0, gen := 0, launch := none, line := 0x38000000000, req := .atomic 0 5 0 4 (some 3) (some (.sreg 5)), addr := 0x8000 }
def hostStore : HostStore := { tile := 0, slot := 0, gen := 0, launch := none, seq := 1, line := 0x38000000000, addr := 0x8000 }

theorem witness_LinkStates_load : let g := { gang0 with pend := [hostLoad] }
    Alone (hostWait g [] []) 0 0 g 0 ∧ hostLoad.returned = false ∧ hostLoad.dests ≠ [] ∧ isHost (0x38000000000 * 64) = true ∧
      hostLoad.slices.head? = some 0 ∧ ∃ part, hostLoad.load = some part ∧ 0x38000000000 ∈ part.need ∧
        part.lanes.find? (fun x => (x.loc.map isHost).getD false) = some ⟨32, some 0xE00000000000, 0x8000⟩ :=
  ⟨⟨rfl, ⟨rfl, rfl, by decide⟩, ⟨rfl, rfl⟩, rfl⟩, rfl, by decide, by decide, rfl, _, rfl, by decide, by decide⟩

theorem witness_LinkStates_atomic : let g := { gang0 with pend := [{ hostLoad with load := none }] }
    Alone (hostWait g [hostAtomic] []) 0 0 g 0 ∧ ((hostWait g [hostAtomic] []).tile 0).sq = hostAtomic :: [] ∧ hostAtomic.slot = 0 ∧
      hostAtomic.gen = g.gen ∧ isHost (hostAtomic.line * 64) = true :=
  ⟨⟨rfl, ⟨rfl, rfl, by decide⟩, ⟨rfl, rfl⟩, rfl⟩, rfl, rfl, rfl, by decide⟩

theorem witness_LinkStates_fence : let g := waiting (.fence 4 false) []
    let s := hostWait g [] [hostStore]
    Alone s 0 0 g 0 ∧ g.pend = [] ∧ (g.slice 0).wait = .fence 4 false ∧ g.leaders = [0] ∧ LostAt s true isHost g 1 0x8000 ∧
      1 < (g.slice 0).mark.1 ∧ ∀ q a, LostAt s true isHost g q a → 1 < q ∨ (q = 1 ∧ a = 0x8000) := by
  refine ⟨⟨rfl, ⟨rfl, rfl, by decide⟩, ⟨rfl, rfl⟩, rfl⟩, rfl, rfl, by decide, .inr ⟨rfl, hostStore, List.mem_singleton.2 rfl, rfl, rfl, rfl, rfl, rfl⟩,
    by decide, ?_⟩
  rintro q a (⟨e, h, -⟩ | ⟨-, h, hh, -, -, -, rfl, rfl⟩)
  · cases h
  · obtain rfl := List.mem_singleton.1 hh
    exact .inr ⟨rfl, rfl⟩

/-- The last scale-up port trains in vain while a collective needs device 9 of this domain. -/
theorem witness_LinkStates_coll :
    let x := coll0 1 []
    let s := { copyingIn 3 x with mem := (0x50000, 9) :: (copyingIn 3 x).mem.drop 1, links := [(3, { st := .training, since := 5 })], gtc := 20000000 }
    (s.link 3).st = .training ∧ (s.link 3).since + 10000000 ≤ s.gtc ∧ (¬∃ m, m ≠ 3 ∧ 1 ≤ m ∧ m ≤ 24 ∧ (s.link m).st ≠ .down) ∧
      (∀ e, e ∈ s.gangs → e.1 = gkey e.2.tile e.2.slot ∧ e.2.pend = [] ∧ ∀ j sc a, (e.2.slice j).wait ≠ .fence sc a) ∧
      s.gangs.Pairwise (fun a b => a.1 < b.1) ∧ x.finished = false ∧ x.data ≠ [] ∧ ∃ r w, r < 2 ^ ranksLog x ∧
        s.rankWord 0 (x.data.getD 6 0 ++ x.data.getD 5 0) r = some w ∧ w.toNat / 2 ^ 14 % 64 = s.domain ∧ w.toNat % 2 ^ 14 ≠ s.devnum := by
  refine ⟨rfl, by decide, ?_, fun e he => ?_, List.pairwise_singleton .., rfl, by decide, 0, 9, by decide, by decide +kernel, by decide, by decide⟩
  · rintro ⟨m, h, -, -, h'⟩
    exact h' (by simp [State.link, Sparse.get, Sparse.find?, h.symm])
  · obtain rfl := List.mem_singleton.1 he
    refine ⟨rfl, rfl, fun j sc a h => ?_⟩
    cases j <;> cases h

theorem test_machine_check : (gotGang (exec (.linkTrainTimeout 0) (hostWait { gang0 with pend := [hostLoad] } [] []))).trap.tcause = 0x0F ∧
    (gotGang (exec (.linkTrainTimeout 0) (hostWait { gang0 with pend := [hostLoad] } [] []))).trap.tval = 0x8000 := by decide +kernel

/-- GortyLink carries traffic; context 0 serves page 0x10000 of the table of `copying`. -/
def serving : State := { copying czero0 with links := [(0, { st := .up, lanes := 16 }), (2, { st := .up, lanes := 8 })] }

theorem witness_OutsideRequests : hostCarries serving ∧ ¬hostCarries State.reset ∧ (0x20000 : Nat) + 8 ≤ hbmSize ∧
    (serving.ctx 0).st = .running ∧ (State.reset.ctx 0).st = .created ∧
    serving.placeNow 0 (num (0x10000 % 2 ^ 37)) 1 = .at_ 0x50000 false ∧ serving.placeNow 0 (num (0x10000 % 2 ^ 37)) 2 = .at_ 0x50000 false ∧
    serving.placeNow 0 (num (0x10000 % 2 ^ 37)) 3 = .at_ 0x50000 false ∧ serving.placeNow 0 (num (0x90000 % 2 ^ 37)) 3 = .fault 4 ∧
    (serving.home (0x50000 / 64)).pending = [] ∧ portCarries serving 1 ∧ ¬portCarries serving 0 :=
  ⟨.inl rfl, by unfold hostCarries; decide, by decide, rfl, rfl, by decide +kernel, by decide +kernel, by decide +kernel, by decide +kernel,
    rfl, ⟨by decide, .inl rfl⟩, by unfold portCarries; decide⟩

/-- A greater requester has acted on the line in this tick; the bytes of a boot block. -/
theorem witness_OutsideRequests_plain :
    (let s := { serving with homes := [(0x50000 / 64, { at_ := serving.gtc, who := 1024 })] };
      s.inTurn (0x50000 / 64) 1023 = false ∧ serving.inTurn (0x50000 / 64) 1023 = true) ∧
    serving.boot.idkey.length = 64 ∧ serving.boot.mbArg.length = 32 ∧ serving.homeWord 30 0x50000 = 0xAB ∧ serving.watchFull 0x50000 = false ∧
    serving.boot.stage = 0 ∧ serving.subject.unit ≠ 1 := by
  decide +kernel

/-- A release that waits and one that does not; one access at the port. -/
theorem witness_OutsideRequests_port :
    inMemory (.store 0x20000 4 7 true) ∧ mustWait { serving with hostW := 50 } (.store 0x20000 4 7 true) ∧ ¬mustWait serving (.store 0x20000 4 7 false) ∧
    serving.hostW + 8 ≤ serving.gtc ∧
    (let s := { serving with hostPort := [.store 0x20000 4 7 true], subject := { serving.subject with unit := 1 } }
     s.subject.unit = 1 ∧ s.hostPort = .store 0x20000 4 7 true :: [] ∧ hostCarries s ∧ ¬mustWait s (.store 0x20000 4 7 true) ∧
       mustWait { s with hostW := 23 } (.store 0x20000 4 7 true)) ∧ serving.hostPort = [] :=
  ⟨by unfold inMemory; decide, ⟨_, _, _, rfl, by decide⟩, fun ⟨_, _, _, h, _⟩ => by simp at h, by decide,
    ⟨rfl, rfl, .inl rfl, fun ⟨_, _, _, _, h⟩ => absurd h (by decide), ⟨_, _, _, rfl, by decide⟩⟩, rfl⟩

/-- A page with a zero hint, read and written; a request for a page for which another waits, and that one, while the page is being cleared
and after. -/
def zeroServing : State :=
  { serving with mem := [(0x100000, 0x01), (0x100002, 0x11), (0x110000, 0x01), (0x110002, 0x12), (0x120000, 0x01), (0x120002, 0x13), (0x130008, 0x2F),
      (0x13000A, 0x05)] }
def portLoad : DomainRequest := .load 1 0 0x10000 9

theorem witness_OutsideRequests_domain :
    zeroServing.placeNow 0 (num (0x10000 % 2 ^ 37)) 1 = .zero ∧ (∃ va, zeroServing.placeNow 0 (num (0x10000 % 2 ^ 37)) 2 = .miss va true) ∧
    askedPage portLoad = some (0, 1) ∧
    (∀ x, x ∈ serving.domainPort → askedPage x ≠ some (0, 1)) ∧ (∃ x, x ∈ { serving with domainPort := [portLoad] }.domainPort ∧ askedPage x = some (0, 1)) ∧
    serving.clearing 0 (1 * 65536) = false ∧ (got (exec (.domainRequest (.store 1 0 0x10000 4 7)) zeroServing)).clearing 0 (1 * 65536) = true :=
  ⟨by decide +kernel, ⟨0x10000, by decide +kernel⟩, rfl, nofun, ⟨_, List.mem_singleton.2 rfl, rfl⟩, by decide +kernel, by decide +kernel⟩

theorem test_host_store : (got (exec (.hostAccess (.store 0x20000 2 0x1234 false)) serving)).homeByte 100 0x20001 = 0x12 := by decide +kernel
theorem test_domain_atomic : (got (exec (.domainRequest (.atomic 1 0 0x10000 0 1 0)) serving)).homeWord 100 0x50000 = 0xAC := by decide +kernel

/-- Every image has a code. -/
theorem witness_BootAndMailbox_image (header body sig : List Byte) : ∃ code, imageFails header body sig code := by
  unfold imageFails
  cases hf : Config.headerFields header with
  | none => exact ⟨2, .inl ⟨rfl, rfl⟩⟩
  | some p =>
    obtain ⟨svn, key⟩ := p
    by_cases h1 : key.length = 64 ∧ sig.length = 29792
    · by_cases h2 : Sha.shake256 key = Config.fusedKeyHash
      · by_cases h3 : Slh.verify key (header ++ body) sig = true
        · by_cases h4 : Config.fusedMinSvn.toNat ≤ svn.toNat
          · exact ⟨0, .inr ⟨svn, key, rfl, .inr (.inr (.inr (.inr ⟨rfl, h1, h2, h3, h4⟩)))⟩⟩
          · exact ⟨5, .inr ⟨svn, key, rfl, .inr (.inr (.inr (.inl ⟨rfl, h1, h2, h3, h4⟩)))⟩⟩
        · exact ⟨4, .inr ⟨svn, key, rfl, .inr (.inr (.inl ⟨rfl, h1, h2, h3⟩))⟩⟩
      · exact ⟨3, .inr ⟨svn, key, rfl, .inr (.inl ⟨rfl, h1, h2⟩)⟩⟩
    · exact ⟨2, .inr ⟨svn, key, rfl, .inl ⟨rfl, h1⟩⟩⟩

def mail (w : Word) (idx : Word) (dest : Dword) : State := { State.reset with boot := { stage := 3, mbReq := w, mbNew := true, mbIdx := idx, mbDest := dest } }

theorem witness_BootAndMailbox_mail : (∀ w ∈ [(0x10001 : Word), 0x10011, 0x10002, 0x10012, 0x10003], MailIs (mail w 3 0x20000) w) ∧
    destFits 0x20000 ∧ ¬destFits 0x20001 ∧ destFits 0xE00000000000 ∧ (1 : Word).toNat % 8 < 2 ∧ 2 ≤ (3 : Word).toNat % 8 := by
  exact ⟨fun w _ => ⟨rfl, rfl, rfl, rfl⟩, by unfold destFits; decide +kernel, by unfold destFits; decide +kernel, by unfold destFits; decide +kernel, by decide, by decide⟩

/-- A report still to be written, with a destination that can be reached; one that is written, before and after its release. -/
def reporting (w : Option Nat) (now : Nat) : State :=
  { State.reset with gtc := now, boot := { stage := 3, report := some { seq := 1, dest := 0x20000, message := [1, 2], w := w } } }

theorem witness_BootAndMailbox_report : (∀ w now, (reporting w now).boot.report = some { seq := 1, dest := 0x20000, message := [1, 2], w := w }) ∧
    (reporting none 9).carries 0x20000 = true ∧ (reporting none 9).carries 0xE00000000000 = false ∧ (reporting (some 5) 12).gtc < 5 + 8 ∧
    5 + 8 ≤ (reporting (some 5) 13).gtc := ⟨fun _ _ => rfl, by decide +kernel⟩

/-- The host has not acknowledged the report. -/
theorem witness_BootAndMailbox_owed : (∃ h, h ∈ { reporting (some 5) 13 with hostStores := [{ hostStore with tile := 1024 }] }.hostStores ∧ h.tile = 1024) ∧
    (¬∃ h, h ∈ (reporting (some 5) 13).hostStores ∧ h.tile = 1024) ∧ isHost 0xE00000000000 = true ∧ isHost 0x20000 = false :=
  ⟨⟨_, List.mem_singleton.2 rfl, rfl⟩, fun ⟨_, h, _⟩ => (List.not_mem_nil h).elim, by decide, by decide⟩

theorem test_mail_read_only : (got (exec .mbExtend (mail 0x70001 1 0))).boot.mbAck = 0x70100 := by decide +kernel
theorem test_reset_without_link : (got (exec .deviceReset { State.reset with subject := { part := 1 } })).boot.stage = 15 ∧
    (got (exec .deviceReset { State.reset with subject := { part := 1 } })).boot.err = 1 := by decide +kernel

/-! ## The machine as a whole -/

/-- The first step after a program is placed. -/
def placed0 : State := State.reset.withFetchWord 32 0x4000C227
def placedGang : Gang := (placed0.gang? 0 0).getD gang0

theorem witness_StepRunsDecoded : (placedGang.slice 0).inRep = false ∧ placed0.gang? 0 0 = some placedGang ∧
    placed0.fetch placedGang.tile placedGang 0 (placedGang.slice 0).pc = .word 0x4000C227 ∧ decode 0x4000C227 = .ok (.iaddV 3 2 9 3) ∧
    0 ∈ placedGang.leaders ∧ placed0.coming placedGang 0 = .instr (.iaddV 3 2 9 3) none ∧
    placed0.canIssue placedGang 0 (.iaddV 3 2 9 3) = true ∧ placedGang.pos = some 0 ∧ placed0.rowHolder 0 0 = none ∧
    (∀ h, h ∈ placed0.gangsOf 0 → h = placedGang) ∧ placedGang.leaders = [0] ∧ placed0.turn.input = none := by
  refine ⟨?_, ?_, ?_, rfl, ?_⟩ <;> decide +kernel

/-- No group is late; the one there is, is late. -/
theorem witness_StepRunsDecoded_contends : Contends placed0 0 placedGang 0 ∧
    let g := { gang0 with slices := [{ pc := 0x1000, ready := some 0 }] }
    Late { at0 g with gtc := 38 } g 0 ∧ Contends { at0 g with gtc := 38 } 0 g 0 ∧ ¬Late { at0 g with gtc := 37 } g 0 := by
  refine ⟨.inl fun h m ⟨hh, _, hm, _, t, ht, _⟩ => ?_, ⟨0, rfl, by decide⟩, .inr ⟨⟨0, rfl, by decide⟩, fun _ _ _ _ _ => Nat.zero_le _⟩,
    fun ⟨t, ht, h⟩ => ?_⟩
  · have h0 : ∀ h ∈ placed0.gangsOf 0, ∀ m ∈ h.leaders, (h.slice m).ready = none := by decide +kernel
    rw [h0 h hh m hm] at ht
    cases ht
  · cases ht
    revert h; decide

/-- A row is held by a group in a repeat. -/
theorem witness_StepRunsDecoded_holder : let g := { gang0 with slices := [{ pc := 0x1000, inRep := true, repc := 2 }] }
    { at0 g with cur := none }.rowHolder 0 0 = some (0, 0) := by decide +kernel

theorem witness_StepRunsDecoded_chosen :
    chooseFrom (placed0.popTurn.strike placed0.turn.upset).choices placed0.turn.pick = some (.issue ⟨0, 0, 0⟩ (.iaddV 3 2 9 3) none) := by decide +kernel

theorem witness_StepRunsDecoded_before : let s := State.reset.withFetchWord 32 0x20960445
    s.gang? 0 0 = some ((s.gang? 0 0).getD gang0) ∧ Instr.closes (.add 300 17 5) = false ∧ Instr.handOn (.add 300 17 5) = false ∧
      ∀ j, j ∈ ((s.gang? 0 0).getD gang0).group 0 → (((s.gang? 0 0).getD gang0).slice j).inRep = false := by
  refine ⟨by decide +kernel, rfl, rfl, by decide +kernel⟩

theorem witness_StepRunsDecoded_input : let s := { State.reset with agenda := [{ ticks := 1, pick := 0, input := some (.ptpSync 9) }] }
    s.turn.input = some (.ptpSync 9) := rfl

theorem test_first_step : ((((got (step placed0)).gang? 0 0).getD gang0).slice 7).pc = 0x1004 := by decide +kernel

theorem witness_MemoryStaysCanonical : State.reset.memWf = true ∧ ∃ t, step placed0 = .next t := ⟨rfl, _, rfl⟩

theorem witness_TimeMovesOn : (∀ v, placed0.turn.input ≠ some (.ptpSync v)) ∧ (∀ a, placed0.turn.input ≠ some (.hostAccess a)) ∧
    (∀ x, placed0.turn.input ≠ some (.domainRequest x)) ∧ (∀ a v w, placed0.turn.input ≠ some (.registerWrite a v w)) ∧ placed0.hostPort = [] ∧
    placed0.domainPort = [] ∧ (placed0.ctx 0).st = .running :=
  ⟨(fun _ h => by cases h), (fun _ h => by cases h), (fun _ h => by cases h), (fun _ _ _ h => by cases h), rfl, rfl, rfl⟩

/-- A register beyond Nv and one beyond Ns; a marked scalar and a marked vector register; an aligned pair. -/
theorem witness_RegistersChecked :
    (let g := { gang0 with nv := 8, ns := 32 };
      (at0 g).cur = some c0 ∧ (∃ n, n ∈ (Instr.regs (.iaddV 9 2 3 0)).rv ++ (Instr.regs (.iaddV 9 2 3 0)).wv ∧ g.nv ≤ n) ∧
        ∃ n, n ∈ (Instr.regs (.add 40 1 2)).rs ++ (Instr.regs (.add 40 1 2)).ws ∧ g.ns ≤ n) ∧
    checksFirst (.add 3 1 2) = false ∧ (Instr.regs (.add 3 1 2)).rs = [1] ++ 2 :: [] ∧ 2 ∈ ({ gang0 with markS := [2] } : Gang).markS ∧
    (Instr.regs (.iaddV 3 1 2 0)).rv = [1] ++ 2 :: [] ∧ (∃ l, l ∈ lanes gang0 c0 ∧ 2 * 32 + l ∈ ({ gang0 with markV := [64] } : Gang).markV) ∧
    (0, 2) ∈ alignments (.jmp 0) := by
  refine ⟨⟨rfl, ⟨9, by decide, by decide⟩, 40, by decide, by decide⟩, rfl, by decide, by decide, by decide, ⟨0, by decide, by decide⟩, by decide⟩

theorem test_register_beyond : (gotGang (exec (.iaddV 9 2 3 0) (at0 { gang0 with nv := 8 }))).trap.tcause = 1 := by decide +kernel
theorem test_marked_register : (gotGang (exec (.add 3 1 2) (at0 { gang0 with markS := [2] }))).trap.tcause = 0x10 ∧
    (gotGang (exec (.add 3 1 2) (at0 { gang0 with markS := [2] }))).markS = [] := by decide +kernel
end Sys2Proof.Tests
end

section
/-!
PROOF. A load reads a line at home: the bytes it takes, the lease that the home gives and records, and the copy that L1 holds (R179,
R183, R230, R233, R234).
-/

namespace Sys2Proof

/-- Values put at keys that hold none: a key that holds one keeps it, and every other listed key takes its own. -/
theorem Sparse.find?_foldl_putNew {α : Type} (f : Nat → α) (ks : List Nat) (m : Sparse α) (k : Nat) :
    Sparse.find? (ks.foldl (fun m b => if (Sparse.find? m b).isSome then m else Sparse.put m b (f b)) m) k =
      (Sparse.find? m k).or (if k ∈ ks then some (f k) else none) := by
  induction ks generalizing m with
  | nil => simp
  | cons b ks ih =>
    rw [List.foldl_cons, ih]
    by_cases hb : b = k
    · subst hb
      cases hm : Sparse.find? m b <;> simp [hm]
    · simp only [List.mem_cons, Ne.symm hb, false_or]
      split
      · rfl
      · rw [Sparse.find?_put_ne m _ hb]

end Sys2Proof

namespace Sys2Proof.Machine

open Sys2Proof.Claims

/-! ## Memory as it is read -/

/-- A byte at home reads as before where memory and the writes still to come are as before. -/
theorem State.homeByte_congr {s t : State} (hm : t.mem = s.mem) (hp : ∀ l, (t.home l).pending = (s.home l).pending) (now a : Nat) :
    t.homeByte now a = s.homeByte now a := by
  unfold State.homeByte
  rw [hm, hp]

/-- A line used in its L2 leaves everything but the L2s as it is. -/
theorem State.touchL2_eq (s : State) (line : Nat) : ∃ x, s.touchL2 line = { s with l2 := x } := s.putL2_eq line _

@[simp] theorem State.home_touchL2 (s : State) (line l : Nat) : (s.touchL2 line).home l = s.home l := by
  obtain ⟨x, e⟩ := s.touchL2_eq line
  rw [e]; rfl

@[simp] theorem State.tile_touchL2 (s : State) (line u : Nat) : (s.touchL2 line).tile u = s.tile u := by
  obtain ⟨x, e⟩ := s.touchL2_eq line
  rw [e]; rfl

@[simp] theorem State.homeByte_touchL2 (s : State) (line now a : Nat) : (s.touchL2 line).homeByte now a = s.homeByte now a :=
  State.homeByte_congr (State.putL2_mem s line _) (fun l => congrArg Home.pending (s.home_touchL2 line l)) now a

/-! ## The lease (R233, R234) -/

/-- The expiry of a lease of some ticks that the home of a line gives now. -/
def State.leaseEnd (s : State) (line lease : Nat) : Nat :=
  ((s.home line).pending.filter fun p => decide (p.1 > s.gtc)).foldl (fun e p => min e (p.1 - 1)) (s.gtc + lease)

theorem State.home_grantLease (s : State) (line who lease l : Nat) : (s.grantLease line who lease).1.home l =
    if line = l then { (s.home line).took s.gtc who with lease := max (s.home line).lease (s.leaseEnd line lease) } else s.home l := by
  unfold State.grantLease
  simp only [State.home_modHome, State.home_touchL2]
  rfl

theorem State.grantLease_snd (s : State) (line who lease : Nat) : (s.grantLease line who lease).2 =
    if 2 ^ 48 ≤ line * 64 then s.leaseEnd line lease - 8 else s.leaseEnd line lease := by
  unfold State.grantLease isRemote
  simp only [decide_eq_true_eq]
  rfl

@[simp] theorem State.tile_grantLease (s : State) (line who lease u : Nat) : (s.grantLease line who lease).1.tile u = s.tile u :=
  s.tile_touchL2 line u

/-- The least of a number and those one below the times of a list: a bound of all, and one of them. -/
theorem foldl_min_pred {β : Type} (ps : List (Nat × β)) (a : Nat) :
    let e := ps.foldl (fun e p => min e (p.1 - 1)) a
    e ≤ a ∧ (∀ p, p ∈ ps → e ≤ p.1 - 1) ∧ (e = a ∨ ∃ p, p ∈ ps ∧ e = p.1 - 1) := by
  induction ps generalizing a with
  | nil => simp
  | cons q ps ih =>
    obtain ⟨hle, hall, hone⟩ := ih (min a (q.1 - 1))
    rw [List.foldl_cons]
    refine ⟨Nat.le_trans hle (Nat.min_le_left ..), fun p hp => ?_, ?_⟩
    · rcases List.mem_cons.1 hp with rfl | hp
      · exact Nat.le_trans hle (Nat.min_le_right ..)
      · exact hall p hp
    · rcases hone with h | ⟨p, hp, h⟩
      · rcases Nat.le_total a (q.1 - 1) with hq | hq
        · exact .inl (h.trans (Nat.min_eq_left hq))
        · exact .inr ⟨q, List.mem_cons_self .., h.trans (Nat.min_eq_right hq)⟩
      · exact .inr ⟨p, List.mem_cons_of_mem _ hp, h⟩

/-- R234: a lease ends after its ticks, or before the first write still to come. -/
theorem State.leased_leaseEnd (s : State) (line lease : Nat) : Leased s line lease (s.leaseEnd line lease) := by
  obtain ⟨hle, hall, hone⟩ := foldl_min_pred ((s.home line).pending.filter fun p => decide (p.1 > s.gtc)) (s.gtc + lease)
  simp only [List.mem_filter, decide_eq_true_eq] at hall hone
  refine ⟨hle, fun p hp hlt => ?_, hone.imp_right ?_⟩
  · have h : s.leaseEnd line lease ≤ p.1 - 1 := hall p ⟨hp, hlt⟩
    omega
  · rintro ⟨p, ⟨hp, hlt⟩, h⟩
    refine ⟨p, hp, hlt, ?_⟩
    have h : s.leaseEnd line lease = p.1 - 1 := h
    omega

/-- A lease moves no byte. -/
theorem State.homeByte_grantLease (s : State) (line who lease now a : Nat) :
    (s.grantLease line who lease).1.homeByte now a = s.homeByte now a :=
  State.homeByte_congr (s.still_grantLease line who lease).mem (fun l => by
    rw [State.home_grantLease]
    split
    · subst_vars; rfl
    · rfl) now a

/-! ## The copy in L1 (R230) -/

/-- The most recently used line stays. -/
theorem mem_evict_head {α : Type} (zero : α → Bool) {tags data : Nat} (ht : 0 < tags) (hd : 0 < data) (c : α) (cs : List α) :
    c ∈ evict zero tags data (c :: cs) := by
  obtain ⟨n, rfl⟩ := Nat.exists_eq_add_of_lt ht
  unfold evict
  simp only [Nat.zero_add, List.take_succ_cons]
  split
  · rename_i hlt
    rw [List.mem_reverse, List.reverse_cons]
    cases hz : zero c with
    | true =>
      rw [List.mem_eraseP_of_neg (by simp [hz])]
      simp
    | false =>
      -- with more data lines than there may be, another one stands behind the first
      have hpos : 0 < ((cs.take n).filter fun x => !zero x).length := by
        rw [List.filter_cons_of_pos (by rw [hz]; rfl), List.length_cons] at hlt
        omega
      obtain ⟨x, hmem⟩ := List.exists_mem_of_length_pos hpos
      obtain ⟨hx, hxz⟩ := List.mem_filter.1 hmem
      rw [List.eraseP_append_left (a := x) hxz _ (List.mem_reverse.2 hx)]
      simp
  · simp

/-- A copy put into a cache that holds no later one of its line is there. -/
theorem mem_cacheInsert {tags data : Nat} (ht : 0 < tags) (hd : 0 < data) (cs : List CacheLine) (c : CacheLine)
    (h : ∀ x, x ∈ cs → x.line = c.line → x.grant ≤ c.grant) : c ∈ cacheInsert tags data cs c := by
  unfold cacheInsert
  split
  · rename_i x hx
    have hle := h x (List.mem_of_find?_eq_some hx) (by simpa using List.find?_some hx)
    rw [if_neg (Nat.not_lt.2 hle)]
    exact mem_evict_head _ ht hd c _
  · exact mem_evict_head _ ht hd c cs

/-- One entry of a store queue put over a copy of a line. -/
def CacheLine.patchedBy (line : Nat) (c : CacheLine) (e : SqEntry) : CacheLine :=
  if e.line ≠ line then c else match e.req with | .store bytes zero => c.patch bytes zero | _ => c

theorem Tile.overlay_eq (t : Tile) (line : Nat) (c : CacheLine) : t.overlay line c = t.sq.foldl (CacheLine.patchedBy line) c := rfl

theorem CacheLine.patchedBy_keeps (line : Nat) (c : CacheLine) (e : SqEntry) :
    (c.patchedBy line e).line = c.line ∧ (c.patchedBy line e).grant = c.grant ∧ (c.patchedBy line e).expiry = c.expiry := by
  unfold CacheLine.patchedBy
  split
  · exact ⟨rfl, rfl, rfl⟩
  · cases e.req <;> exact ⟨rfl, rfl, rfl⟩

/-- The stores of a queue put over a copy leave its line and lease. -/
theorem Tile.overlay_keeps (t : Tile) (line : Nat) (c : CacheLine) :
    (t.overlay line c).line = c.line ∧ (t.overlay line c).grant = c.grant ∧ (t.overlay line c).expiry = c.expiry := by
  rw [Tile.overlay_eq]
  induction t.sq generalizing c with
  | nil => exact ⟨rfl, rfl, rfl⟩
  | cons e es ih =>
    obtain ⟨hl, hg, he⟩ := ih (c.patchedBy line e)
    obtain ⟨ul, ug, ue⟩ := c.patchedBy_keeps line e
    exact ⟨hl.trans ul, hg.trans ug, he.trans ue⟩

/-- They leave all of a copy that none of them is to. -/
theorem Tile.overlay_of_ne {t : Tile} {line : Nat} (h : ∀ e, e ∈ t.sq → e.line ≠ line) (c : CacheLine) : t.overlay line c = c := by
  rw [Tile.overlay_eq]
  refine List.foldlRecOn (motive := (· = c)) t.sq (CacheLine.patchedBy line) rfl fun b hb e he => ?_
  rw [CacheLine.patchedBy, if_pos (h e he), hb]

/-- A line as it stands at home, under the lease that its home gives a tile. -/
def State.freshCopy (s : State) (tile ctx line : Nat) : CacheLine :=
  { line := line, bytes := s.homeBytes s.gtc (line * 64) 64, grant := s.gtc
    expiry := (s.grantLease line tile (s.ctx ctx).lease).2, zero := s.zeroLine line }

theorem State.fillL1_eq (s : State) (tile ctx line : Nat) : s.fillL1 tile ctx line =
    (s.grantLease line tile (s.ctx ctx).lease).1.modTile tile fun t =>
      { t with l1 := cacheInsert l1Tags l1Data t.l1 (t.overlay line (s.freshCopy tile ctx line)) } := by
  unfold State.fillL1 State.freshCopy
  rw [← (s.still_grantLease line tile (s.ctx ctx).lease).gtc]

theorem State.home_fillL1 (s : State) (tile ctx line l : Nat) :
    (s.fillL1 tile ctx line).home l = (s.grantLease line tile (s.ctx ctx).lease).1.home l := rfl

theorem State.homeByte_fillL1 (s : State) (tile ctx line now a : Nat) :
    (s.fillL1 tile ctx line).homeByte now a = s.homeByte now a :=
  s.homeByte_grantLease line tile (s.ctx ctx).lease now a

/-- R230: unless L1 holds a later copy of the line, it then holds the one read now, with the tile's own stores over it. -/
theorem State.mem_l1_fillL1 (s : State) (tile ctx line : Nat)
    (h : ∀ x, x ∈ (s.tile tile).l1 → x.line = line → x.grant ≤ s.gtc) :
    (s.tile tile).overlay line (s.freshCopy tile ctx line) ∈ ((s.fillL1 tile ctx line).tile tile).l1 := by
  obtain ⟨hl, hg, -⟩ := (s.tile tile).overlay_keeps line (s.freshCopy tile ctx line)
  rw [State.fillL1_eq, State.tile_modTile, if_pos rfl, State.tile_grantLease]
  refine mem_cacheInsert (by decide) (by decide) _ _ fun x hx hxl => ?_
  rw [hg]
  exact h x hx (hxl.trans hl)

/-! ## The load's part of it (R179) -/

/-- The bytes of the lanes of a load that stand in a line. -/
theorem LoadPart.mem_bytesIn {l : LoadPart} {line b : Nat} :
    b ∈ l.bytesIn line ↔ ∃ x, x ∈ l.lanes ∧ ∃ p k, x.loc = some p ∧ k < l.width ∧ p + k = b ∧ b / 64 = line := by
  simp only [LoadPart.bytesIn, List.mem_flatMap]
  refine exists_congr fun x => and_congr_right fun _ => ?_
  cases x.loc with
  | none => simp
  | some p => simp [lineOf, ← exists_and_right, and_assoc]

/-- What a load waits for once a line has been read for it. -/
def LoadPart.taking (l : LoadPart) (s : State) (line : Nat) : LoadPart :=
  { l with
    got := (l.bytesIn line).foldl (fun m b => if (Sparse.find? m b).isSome then m else Sparse.put m b (s.homeByte s.gtc b)) l.got
    need := l.need.filter (· != line), time := max l.time s.gtc
    logged := l.logged ++ l.lanes.filterMap fun x => match x.loc with
      | some loc => if lineOf loc = line then some (x.lane, s.wordTime s.gtc loc) else none
      | none => none }

theorem LoadPart.find?_got_taking (l : LoadPart) (s : State) (line b : Nat) : Sparse.find? (l.taking s line).got b =
    (Sparse.find? l.got b).or (if b ∈ l.bytesIn line then some (s.homeByte s.gtc b) else none) :=
  Sparse.find?_foldl_putNew (s.homeByte s.gtc) (l.bytesIn line) l.got b

theorem LoadPart.mem_need_taking (l : LoadPart) (s : State) (line x : Nat) :
    x ∈ (l.taking s line).need ↔ x ∈ l.need ∧ x ≠ line := by
  simp [LoadPart.taking]

/-- The state but for the gang once a load has read a line. -/
def State.lineRead (s : State) (tile ctx line : Nat) (l : LoadPart) : State :=
  if l.keep.contains line then s.fillL1 tile ctx line else s.touchL2 line

theorem State.readLine_eq (s : State) (tile : Nat) (g : Gang) (id line : Nat) (l : LoadPart) : s.readLine tile g id line l =
    (s.lineRead tile g.ctx line l).setGang tile g.slot (g.modPend id fun p => { p with load := some (l.taking s line) }) := rfl

theorem State.lineRead_kept {s : State} {tile ctx line : Nat} {l : LoadPart} (h : line ∈ l.keep) :
    s.lineRead tile ctx line l = s.fillL1 tile ctx line := if_pos (List.contains_iff_mem.2 h)

theorem State.lineRead_passing {s : State} {tile ctx line : Nat} {l : LoadPart} (h : line ∉ l.keep) :
    s.lineRead tile ctx line l = s.touchL2 line := if_neg fun hc => h (List.contains_iff_mem.1 hc)

theorem State.homeByte_lineRead (s : State) (tile ctx line : Nat) (l : LoadPart) (now a : Nat) :
    (s.lineRead tile ctx line l).homeByte now a = s.homeByte now a := by
  by_cases h : line ∈ l.keep
  · rw [State.lineRead_kept h, State.homeByte_fillL1]
  · rw [State.lineRead_passing h, State.homeByte_touchL2]

/-- R233: a load that may read a line at home reads it. -/
theorem exec_loadHomeRead {s : State} {g : Gang} {p : Pend} {l : LoadPart} (hg : s.gang? s.subject.unit s.subject.slot = some g)
    (hp : g.pend.find? (fun p => p.id == s.subject.part) = some p) (hl : p.load = some l) (hn : s.subject.item ∈ l.need)
    (hm : (s.tile s.subject.unit).mayReadAt s.gtc s.subject.item l.since = true) (he : g.earlierLoad p.id s.subject.item = false)
    (hc : s.carries (s.subject.item * 64) = true) (ht : s.inTurn s.subject.item s.subject.unit = true) :
    exec .loadHomeRead s = .next (s.readLine s.subject.unit g p.id s.subject.item l) := by
  have hcond : (l.need.contains s.subject.item && (s.tile s.subject.unit).mayReadAt s.gtc s.subject.item l.since &&
      !g.earlierLoad p.id s.subject.item && s.carries (s.subject.item * 64) && s.inTurn s.subject.item s.subject.unit) = true := by
    simp [hn, hm, he, hc, ht]
  show execLoadHomeRead s = _
  unfold execLoadHomeRead onGang
  simp only [hg, hp, hl, hcond, if_true]

/-- R234: a line read for a load that keeps it leaves a lease at home and a copy in L1. -/
theorem State.lineRead_leases {s : State} {tile ctx line : Nat} {l : LoadPart} (hk : line ∈ l.keep) :
    ∃ e, Leased s line (s.ctx ctx).lease e ∧ ((s.lineRead tile ctx line l).home line).lease = max (s.home line).lease e ∧
      ((∀ x, x ∈ (s.tile tile).l1 → x.line = line → x.grant ≤ s.gtc) →
        ∃ x, x ∈ ((s.lineRead tile ctx line l).tile tile).l1 ∧ x.line = line ∧ x.grant = s.gtc ∧
          x.expiry = (if 2 ^ 48 ≤ line * 64 then e - 8 else e) ∧
          ((∀ q, q ∈ (s.tile tile).sq → q.line ≠ line) → x.bytes = s.homeBytes s.gtc (line * 64) 64)) := by
  rw [State.lineRead_kept hk]
  obtain ⟨hline, hgrant, hexp⟩ := (s.tile tile).overlay_keeps line (s.freshCopy tile ctx line)
  refine ⟨s.leaseEnd line (s.ctx ctx).lease, s.leased_leaseEnd _ _, ?_, fun hold => ?_⟩
  · rw [State.home_fillL1, State.home_grantLease, if_pos rfl]
  · refine ⟨_, s.mem_l1_fillL1 tile ctx line hold, hline, hgrant, ?_, fun hq => ?_⟩
    · rw [hexp]
      exact s.grantLease_snd line tile (s.ctx ctx).lease
    · rw [Tile.overlay_of_ne hq]; rfl

end Sys2Proof.Machine
end

section
/-!
PROOF. A load returns: its words, put together from its bytes, are written where their windows have ended (R98, R178, R179, R183).
-/

namespace Sys2Proof.Machine

open Sys2Proof.Claims

/-! ## One result in flight alone, written (R98, R13) -/

/-- A register reads what has been written to it. -/
theorem Gang.reads_write (g : Gang) (d : Dest) (x : Word) : reads (g.write d x) d x := by
  cases d with
  | vreg key =>
    show (g.setV (key / 32) (key % 32) x).vreg (key / 32) (key % 32) = x
    rw [Gang.vreg_setV_key, if_pos rfl]
  | sreg key =>
    show (g.setS key x).sreg key = x
    rw [Gang.sreg_setS, if_pos rfl]
  | adv => rfl

/-- A register that no result in flight is to write reads as before. -/
theorem Settled.reads {g h : Gang} (st : Settled g h) {d : Dest} {w : Word} (hd : ∀ p, p ∈ g.pend → d ∉ p.dests) (hr : reads g d w) :
    reads h d w := by
  cases d with
  | vreg key => exact (st.vreg _ _ (Nat.mod_lt _ (by decide)) (by rwa [Nat.div_add_mod'])).trans hr
  | sreg key => exact (st.sreg key hd).trans hr
  | adv => exact (st.adv hd).trans hr

/-- A result alone in flight, returned and with its windows ended, can be written from its first destination on. -/
theorem Gang.writable_sole {g : Gang} {p : Pend} {d : Dest} {ds : List Dest} (hg : g.pend = [p]) (hr : p.returned = true)
    (hp : p.dests = d :: ds) (hd : p.due d = true) : g.writable = some (p, d) := by
  have hb : g.before p d = false := by simp [Gang.before, hg]
  simp [Gang.writable, hg, hr, hp, hd, hb]

/-- A result's value written to a destination. -/
def Gang.writeValue (g : Gang) (p : Pend) (d : Dest) : Gang :=
  match p.vals.find? fun x => x.1 == d with
  | some (_, x) => if p.engine then (g.write d x).mark d x else g.write d x
  | none => g

/-- Over it the last window write that has waited for it (R13). -/
def Gang.writeAfter (g : Gang) (p : Pend) (d : Dest) : Gang :=
  match (p.after.filter fun x => x.1 == d).getLast? with
  | some (_, x) => g.write d x
  | none => g

theorem Gang.writeOne_eq (g : Gang) (p : Pend) (d : Dest) : g.writeOne p d =
    let h := (g.writeValue p d).writeAfter p d
    { h with
      pend := (h.pend.map fun q => if q.id = p.id then { q with dests := q.dests.filter (· != d) } else q).filter
        fun q => !(q.returned && q.dests.isEmpty) } := rfl

theorem Gang.writeValue_of_find {g : Gang} {p : Pend} {d : Dest} {x : Word} (he : p.engine = false)
    (hv : p.vals.find? (fun v => v.1 == d) = some (d, x)) : g.writeValue p d = g.write d x := by
  simp [Gang.writeValue, hv, he]

@[simp] theorem Gang.pend_writeAfter (g : Gang) (p : Pend) (d : Dest) : (g.writeAfter p d).pend = g.pend := by
  unfold Gang.writeAfter
  split
  · exact g.pend_write d _
  · rfl

/-- The register then reads the last window write that has waited, else the value. -/
theorem Gang.reads_writeAfter {g : Gang} {d : Dest} {x : Word} (p : Pend) (h : reads g d x) :
    reads (g.writeAfter p d) d (under p d x) := by
  unfold Gang.writeAfter under
  split
  · rename_i y e
    rw [e]
    exact Gang.reads_write g d y
  · rename_i e
    rw [e]
    exact h

/-- The first destination of a result alone in flight: it reads its value, or the last window write that waited for it, and is awaited
no more. -/
theorem Gang.writeOne_sole {g : Gang} {p : Pend} {d : Dest} {ds : List Dest} {x : Word} (hg : g.pend = [p]) (hr : p.returned = true)
    (he : p.engine = false) (hp : p.dests = d :: ds) (hn : d ∉ ds) (hv : p.vals.find? (fun v => v.1 == d) = some (d, x)) :
    reads (g.writeOne p d) d (under p d x) ∧ (g.writeOne p d).pend = if ds = [] then [] else [{ p with dests := ds }] := by
  have hf : (d :: ds).filter (· != d) = ds := by
    rw [List.filter_cons_of_neg (by simp), List.filter_eq_self]
    intro y hy
    simpa using fun h : y = d => hn (h ▸ hy)
  rw [Gang.writeOne_eq, Gang.writeValue_of_find he hv]
  refine ⟨?_, ?_⟩
  · have h := Gang.reads_writeAfter p (g.reads_write d x)
    cases d <;> exact h
  · simp only [Gang.pend_writeAfter, Gang.pend_write, hg, List.map_cons, List.map_nil, if_true, hp, hf, List.filter_cons,
      List.filter_nil, hr, Bool.true_and]
    cases ds <;> rfl

/-- A result alone in flight, returned and with its windows ended, is written whole. -/
theorem Gang.settleN_sole (val : Dest → Word) (ds : List Dest) : ∀ (g : Gang) (p : Pend), g.pend = [p] → p.returned = true →
    p.engine = false → p.dests = ds → ds ≠ [] → ds.Nodup → (∀ d, d ∈ ds → p.due d = true) →
    (∀ d, d ∈ ds → p.vals.find? (fun v => v.1 == d) = some (d, val d)) →
    (Gang.settleN ds.length g).pend = [] ∧ ∀ d, d ∈ ds → reads (Gang.settleN ds.length g) d (under p d (val d)) := by
  induction ds with
  | nil => intro g p _ _ _ _ h; exact absurd rfl h
  | cons d ds ih =>
    intro g p hg hr he hp _ hnd hdue hval
    obtain ⟨hn, hnd⟩ := List.nodup_cons.1 hnd
    have hstep : Gang.settleN (d :: ds).length g = Gang.settleN ds.length (g.writeOne p d) := by
      rw [List.length_cons, Gang.settleN, Gang.writable_sole hg hr hp (hdue d (List.mem_cons_self ..))]
    obtain ⟨hread, hpend⟩ := Gang.writeOne_sole hg hr he hp hn (hval d (List.mem_cons_self ..))
    rw [hstep]
    by_cases hds : ds = []
    · subst hds
      refine ⟨hpend, fun y hy => ?_⟩
      rw [List.mem_singleton.1 hy]
      exact hread
    · rw [if_neg hds] at hpend
      obtain ⟨hnil, hrest⟩ := ih (g.writeOne p d) { p with dests := ds } hpend hr he rfl hds hnd
        (fun y hy => hdue y (List.mem_cons_of_mem _ hy)) (fun y hy => hval y (List.mem_cons_of_mem _ hy))
      refine ⟨hnil, fun y hy => ?_⟩
      rcases List.mem_cons.1 hy with rfl | hy
      · refine (Gang.settled_settleN ds.length _).reads (fun q hq => ?_) hread
        rw [hpend, List.mem_singleton] at hq
        subst hq
        exact hn
      · exact hrest y hy

/-! ## The words of a load (R178) -/

/-- A value listed under a key that no other value has is found there. -/
theorem find?_of_nodup_keys {α β : Type} [DecidableEq α] {xs : List (α × β)} (hn : (xs.map Prod.fst).Nodup) {k : α} {v : β}
    (h : (k, v) ∈ xs) : xs.find? (fun x => x.1 == k) = some (k, v) := by
  induction xs with
  | nil => simp at h
  | cons x xs ih =>
    obtain ⟨hx, hn⟩ := List.nodup_cons.1 hn
    rcases List.mem_cons.1 h with rfl | h
    · simp
    · have hne : x.1 ≠ k := fun e => hx (e ▸ List.mem_map_of_mem h)
      rw [List.find?_cons_of_neg (by simpa using hne)]
      exact ih hn h

/-- The register that word `r` of a lane of a load goes to. -/
def LoadPart.key (l : LoadPart) (x : LaneAt) (r : Nat) : Dest :=
  if x.lane = 32 then .sreg (l.reg + r) else .vreg ((l.reg + r) * 32 + x.lane)

theorem LoadPart.key_inj {l : LoadPart} {x y : LaneAt} {r q : Nat} (hx : x.lane ≤ 32) (hy : y.lane ≤ 32) (h : l.key x r = l.key y q) :
    x.lane = y.lane ∧ r = q := by
  unfold LoadPart.key at h
  split at h <;> split at h
  · exact ⟨by omega, by simpa using h⟩
  · cases h
  · cases h
  · have := Dest.vreg.inj h
    omega

theorem LoadPart.mem_vals {l : LoadPart} {x : LaneAt} {r : Nat} (hx : x ∈ l.lanes) (hr : r < max 1 (l.width / 4)) :
    (l.key x r, l.word x r) ∈ l.vals :=
  List.mem_flatMap.2 ⟨x, hx, List.mem_map.2 ⟨r, List.mem_range.2 hr, rfl⟩⟩

theorem LoadPart.vals_keys (l : LoadPart) :
    l.vals.map Prod.fst = l.lanes.flatMap fun x => (List.range (max 1 (l.width / 4))).map (l.key x) := by
  simp only [LoadPart.vals, List.map_flatMap, List.map_map]
  rfl

/-- The registers that a load names are those of the words it writes. -/
theorem LoadPart.loadKeys_eq (l : LoadPart) : loadKeys l.reg l.width (l.lanes.map fun x => (x.lane, x.addr)) = l.vals.map Prod.fst := by
  rw [LoadPart.vals_keys, loadKeys, List.flatMap_map]
  rfl

/-- The lanes of a load write registers of their own, each word one. -/
theorem LoadPart.nodup_keys {l : LoadPart} (hn : (l.lanes.map LaneAt.lane).Nodup) (hl : ∀ x, x ∈ l.lanes → x.lane ≤ 32) :
    (l.vals.map Prod.fst).Nodup := by
  rw [LoadPart.vals_keys, List.Nodup, List.pairwise_flatMap]
  refine ⟨fun x hx => List.pairwise_map.2 (List.nodup_range.imp fun hne h => hne (LoadPart.key_inj (hl x hx) (hl x hx) h).2), ?_⟩
  refine (List.pairwise_map.1 hn).imp_of_mem fun {x y} hx hy hne => ?_
  rintro _ hdx _ hdy heq
  obtain ⟨r, -, rfl⟩ := List.mem_map.1 hdx
  obtain ⟨q, -, rfl⟩ := List.mem_map.1 hdy
  exact hne (LoadPart.key_inj (hl x hx) (hl y hy) heq).1

/-- Byte `k` of a lane of a load. -/
def LoadPart.byte (l : LoadPart) (x : LaneAt) (k : Nat) : Byte :=
  match x.loc with
  | some p => (Sparse.find? l.got (p + k)).getD 0
  | none => 0

theorem toNat_append_byte {n : Nat} (hi : BitVec n) (lo : Byte) : (hi ++ lo).toNat = hi.toNat * 256 + lo.toNat := by
  rw [BitVec.toNat_append, ← Nat.shiftLeft_add_eq_or_of_lt lo.isLt, Nat.shiftLeft_eq]

/-- Four bytes, lowest first, as a word. -/
theorem ofNat_natOfBytes_four (a b c d : Byte) : BitVec.ofNat 32 (natOfBytes [a, b, c, d]) = d ++ c ++ b ++ a := by
  have ha := a.isLt
  have hb := b.isLt
  have hc := c.isLt
  have hd := d.isLt
  refine BitVec.eq_of_toNat_eq ?_
  rw [BitVec.toNat_ofNat, toNat_append_byte, toNat_append_byte, toNat_append_byte]
  simp only [natOfBytes, List.foldr_cons, List.foldr_nil]
  omega

theorem take_drop_map_range {α : Type} (f : Nat → α) {n k m : Nat} (h : k + m ≤ n) :
    (((List.range n).map f).drop k).take m = (List.range m).map fun i => f (k + i) := by
  refine List.ext_getElem (by simp; omega) fun i _ _ => ?_
  simp

/-- A number below `2 ^ w`, extended as a load of `w` bits extends it. -/
theorem extended_eq {w : Nat} (b : BitVec w) (hw : 0 < w) (signed : Bool) :
    (if signed && decide (b.toNat ≥ 2 ^ (w - 1)) then BitVec.ofInt 32 ((b.toNat : Int) - 2 ^ w) else BitVec.ofNat 32 b.toNat) =
      if signed then b.signExtend 32 else b.setWidth 32 := by
  obtain ⟨n, rfl⟩ := Nat.exists_eq_add_of_lt hw
  cases signed with
  | false => exact BitVec.ofNat_toNat 32 b
  | true =>
    have hp : 2 ^ (0 + n + 1) = 2 * 2 ^ n := by rw [Nat.zero_add, Nat.pow_succ, Nat.mul_comm]
    simp only [Bool.true_and, if_true, BitVec.signExtend, BitVec.toInt_eq_toNat_cond, decide_eq_true_eq]
    by_cases hb : b.toNat < 2 ^ n
    · rw [if_neg (by simpa using hb), if_pos (by omega)]
      exact (BitVec.ofInt_natCast ..).symm
    · rw [if_pos (by simpa using hb), if_neg (by omega)]
      simp

theorem LoadPart.word_eq (l : LoadPart) (x : LaneAt) (r : Nat) :
    l.word x r =
      let n := natOfBytes ((((List.range l.width).map (l.byte x)).drop (4 * r)).take 4)
      if l.signed && decide (l.width < 4) && decide (n ≥ 2 ^ (8 * l.width - 1)) then BitVec.ofInt 32 (n - 2 ^ (8 * l.width))
      else BitVec.ofNat 32 n := rfl

theorem LoadPart.loadedWord_eq (l : LoadPart) (x : LaneAt) (r : Nat) :
    loadedWord l x r =
      if l.width = 1 then (if l.signed then (l.byte x 0).signExtend 32 else (l.byte x 0).setWidth 32)
      else if l.width = 2 then
        (if l.signed then (l.byte x 1 ++ l.byte x 0 : BitVec 16).signExtend 32 else (l.byte x 1 ++ l.byte x 0 : BitVec 16).setWidth 32)
      else l.byte x (4 * r + 3) ++ l.byte x (4 * r + 2) ++ l.byte x (4 * r + 1) ++ l.byte x (4 * r) := rfl

/-- R178: what a lane writes is its bytes, extended where they are fewer than a word's. -/
theorem LoadPart.word_eq_loadedWord {l : LoadPart} {x : LaneAt} {r : Nat} (hr : r < max 1 (l.width / 4)) (hw : l.width ∈ [1, 2, 4, 8, 16]) :
    l.word x r = loadedWord l x r := by
  have hwide : 4 ≤ l.width → l.width % 4 = 0 → l.word x r = loadedWord l x r := by
    intro h4 hm
    have hfit : 4 * r + 4 ≤ l.width := by
      rw [Nat.max_def] at hr
      split at hr <;> omega
    rw [LoadPart.word_eq, LoadPart.loadedWord_eq, if_neg (by omega : l.width ≠ 1), if_neg (by omega : l.width ≠ 2),
      ← ofNat_natOfBytes_four, take_drop_map_range _ hfit]
    simp [Nat.not_lt.2 h4, List.range_succ]
  have hr0 : l.width < 4 → r = 0 := fun h => by
    rw [Nat.div_eq_of_lt h] at hr
    omega
  simp only [List.mem_cons, List.not_mem_nil, or_false] at hw
  rcases hw with h | h | h | h | h
  · rw [LoadPart.word_eq, LoadPart.loadedWord_eq, if_pos h, ← extended_eq (l.byte x 0) (by decide), hr0 (by omega), h]
    simp [natOfBytes]
  · rw [LoadPart.word_eq, LoadPart.loadedWord_eq, if_neg (by omega : l.width ≠ 1), if_pos h,
      ← extended_eq (l.byte x 1 ++ l.byte x 0) (by decide), toNat_append_byte, hr0 (by omega), h]
    simp [natOfBytes, List.range_succ]
  all_goals exact hwide (by omega) (by omega)

/-! ## Entries of the replay log (R337, R338) -/

/-- Only entries of the replay log have been added, to tiles. -/
structure Staged (s t : State) : Prop where
  tiles : ∃ x, t = { s with tiles := x }
  tile : ∀ u, { t.tile u with stage := (s.tile u).stage, epoch := (s.tile u).epoch } = s.tile u

theorem Staged.refl (s : State) : Staged s s := ⟨⟨_, rfl⟩, fun _ => rfl⟩

theorem Staged.trans {s t u : State} (a : Staged s t) (b : Staged t u) : Staged s u where
  tiles := by
    obtain ⟨x, rfl⟩ := a.tiles
    obtain ⟨y, rfl⟩ := b.tiles
    exact ⟨y, rfl⟩
  tile := fun n => by rw [← a.tile n, ← b.tile n]

theorem Staged.switching {s t : State} (a : Staged s t) (u : Nat) : (t.tile u).switching = (s.tile u).switching := by
  rw [← a.tile u]

theorem Staged.l1 {s t : State} (a : Staged s t) (u : Nat) : (t.tile u).l1 = (s.tile u).l1 := by
  rw [← a.tile u]

theorem State.staged_stage (s : State) (tile ctx kind source payload : Nat) : Staged s (s.stage tile ctx kind source payload) := by
  unfold State.stage
  split
  · exact .refl s
  · refine ⟨⟨_, rfl⟩, fun u => ?_⟩
    rw [State.tile_modTile]
    split
    · subst_vars
      dsimp only
      split <;> rfl
    · rfl

theorem State.staged_stageAcquire (s : State) (g : Gang) (l : LoadPart) : Staged s (s.stageAcquire g l) := by
  unfold State.stageAcquire
  induction l.addrs generalizing s with
  | nil => exact .refl s
  | cons a as ih => exact ((s.staged_stage ..).trans (State.staged_stage ..)).trans (ih _)

/-- R183: the lines of a tile's L1 granted before an acquire's read dropped. -/
def State.invalidated (s : State) (tile time : Nat) : State := s.modTile tile fun t => { t with l1 := invalidateBefore t.l1 time }

/-- What the return of an acquire load does to its tile and log; another load leaves them. -/
def State.acquired (s : State) (tile : Nat) (g : Gang) (l : LoadPart) : State :=
  if l.acquire then (s.invalidated tile l.time).stageAcquire g l else s

theorem State.acquired_eq (s : State) (tile : Nat) (g : Gang) (l : LoadPart) : ∃ x, s.acquired tile g l = { s with tiles := x } := by
  unfold State.acquired
  split
  · obtain ⟨x, e⟩ := ((s.invalidated tile l.time).staged_stageAcquire g l).tiles
    exact ⟨x, e⟩
  · exact ⟨_, rfl⟩

theorem State.switching_acquired (s : State) (tile : Nat) (g : Gang) (l : LoadPart) :
    ((s.acquired tile g l).tile tile).switching = (s.tile tile).switching := by
  unfold State.acquired
  split
  · rw [(State.staged_stageAcquire _ g l).switching tile, State.invalidated, State.tile_modTile, if_pos rfl]
  · rfl

/-- R183: an acquire leaves in L1 only lines granted at its read or later. -/
theorem State.l1_acquired (s : State) (tile : Nat) (g : Gang) {l : LoadPart} (h : l.acquire = true) :
    ∀ x, x ∈ ((s.acquired tile g l).tile tile).l1 → l.time ≤ x.grant := by
  intro x hx
  rw [State.acquired, if_pos h, (State.staged_stageAcquire _ g l).l1 tile, State.invalidated, State.tile_modTile, if_pos rfl] at hx
  simpa using (List.mem_filter.1 hx).2

/-! ## The return -/

/-- The gang of a load whose words are known. -/
def Gang.delivered (g : Gang) (id : Nat) (l : LoadPart) : Gang := g.modPend id fun p => { p with vals := l.vals, returned := true }

theorem Gang.settled_modPend (g : Gang) (id : Nat) (f : Pend → Pend) (h : ∀ p, (f p).dests = p.dests) : Settled g (g.modPend id f) :=
  Gang.settled_pend _ _ fun q hq => by
    obtain ⟨p, hp, rfl⟩ := List.mem_map.1 hq
    refine ⟨p, hp, fun d hd => ?_⟩
    split at hd
    · rwa [h] at hd
    · exact hd

theorem Gang.settled_delivered (g : Gang) (id : Nat) (l : LoadPart) : Settled g (g.delivered id l) :=
  g.settled_modPend id _ fun _ => rfl

/-- A gang that the memory system has answered: its results are written, but not while its tile switches. -/
def Gang.answered (g : Gang) (switching : Bool) : Gang := if switching then g else g.settle

theorem Gang.settled_answered (g : Gang) (b : Bool) : Settled g (g.answered b) := by
  cases b
  · exact g.settled_settle
  · exact .refl g

theorem State.gang?_settleGang {s : State} {tile slot : Nat} {g : Gang} (h : s.gang? tile slot = some g) :
    (s.settleGang tile slot).gang? tile slot = some (g.answered (s.tile tile).switching.isSome) := by
  unfold State.settleGang Gang.answered
  split
  · exact h
  · rw [State.gang?_modGang, if_pos rfl, h]; rfl

theorem State.settleGang_eq (s : State) (tile slot : Nat) : ∃ x, s.settleGang tile slot = { s with gangs := x } := by
  unfold State.settleGang
  split
  · exact ⟨_, rfl⟩
  · exact ⟨_, rfl⟩

/-- A gang that has not ended keeps its slot. -/
theorem State.reap_of_live {s : State} {tile slot : Nat} {g : Gang} (h : s.gang? tile slot = some g) (he : g.ended = false) :
    s.reap tile slot = s := by
  unfold State.reap
  simp [h, he]

theorem Settled.ended {g h : Gang} (st : Settled g h) : h.ended = g.ended := by
  have e := congrArg Gang.ended st.core
  exact e

/-- The state with the answer of a load. -/
def State.loadReturned (s : State) (tile slot : Nat) (g : Gang) (id : Nat) (l : LoadPart) : State :=
  ((s.acquired tile g l).setGang tile slot (g.delivered id l)).settleGang tile slot

theorem State.gang?_loadReturned (s : State) (tile slot : Nat) (g : Gang) (id : Nat) (l : LoadPart) :
    (s.loadReturned tile slot g id l).gang? tile slot = some ((g.delivered id l).answered (s.tile tile).switching.isSome) := by
  rw [State.loadReturned, State.gang?_settleGang (State.gang?_setGang_same ..)]
  congr 2
  exact congrArg Option.isSome (s.switching_acquired tile g l)

/-- Beside the gang only the tiles change, as an acquire changes them. -/
theorem State.loadReturned_eq (s : State) (tile slot : Nat) (g : Gang) (id : Nat) (l : LoadPart) :
    ∃ x, s.loadReturned tile slot g id l = { s.acquired tile g l with gangs := x } := by
  obtain ⟨x, e⟩ := State.settleGang_eq ((s.acquired tile g l).setGang tile slot (g.delivered id l)) tile slot
  exact ⟨x, e⟩

theorem State.tile_loadReturned (s : State) (tile slot : Nat) (g : Gang) (id : Nat) (l : LoadPart) (u : Nat) :
    (s.loadReturned tile slot g id l).tile u = (s.acquired tile g l).tile u := by
  obtain ⟨x, e⟩ := s.loadReturned_eq tile slot g id l
  rw [e]; rfl

theorem State.homeByte_loadReturned (s : State) (tile slot : Nat) (g : Gang) (id : Nat) (l : LoadPart) (now a : Nat) :
    (s.loadReturned tile slot g id l).homeByte now a = s.homeByte now a := by
  obtain ⟨x, e⟩ := s.loadReturned_eq tile slot g id l
  obtain ⟨y, e'⟩ := s.acquired_eq tile g l
  rw [e, e']; rfl

/-- R179: a load with every line read returns. -/
theorem exec_loadReturn {s : State} {g : Gang} {p : Pend} {l : LoadPart} (hg : s.gang? s.subject.unit s.subject.slot = some g)
    (hp : g.pend.find? (fun p => p.id == s.subject.part) = some p) (hl : p.load = some l) (hr : p.returned = false) (hn : l.need = [])
    (hd : p.dests ≠ []) (he : g.ended = false) :
    exec .loadReturn s = .next (s.loadReturned s.subject.unit s.subject.slot g p.id l) := by
  have hlive : ((g.delivered p.id l).answered (s.tile s.subject.unit).switching.isSome).ended = false :=
    (Gang.settled_answered _ _).ended.trans he
  have hd' : p.dests.isEmpty = false := by simpa using hd
  show execLoadReturn s = _
  unfold execLoadReturn onGang
  simp only [hg, hp, hl, hr, hn, hd', List.isEmpty_nil, Bool.false_and, Bool.not_true, Bool.or_self, Bool.false_eq_true, if_false]
  exact congrArg _ (State.reap_of_live (s.gang?_loadReturned s.subject.unit s.subject.slot g p.id l) hlive)

/-- R178: a load alone in flight with its windows ended leaves its words in its registers, and nothing awaited. -/
theorem Gang.settle_delivered {g : Gang} {p : Pend} {l : LoadPart} (hg : g.pend = [p]) (he : p.engine = false) (hd : p.dests ≠ [])
    (hk : p.dests = l.vals.map Prod.fst) (hn : (p.dests).Nodup) (hdue : ∀ d, d ∈ p.dests → p.due d = true) :
    (g.delivered p.id l).settle.pend = [] ∧
      ∀ x r, x ∈ l.lanes → r < max 1 (l.width / 4) →
        reads (g.delivered p.id l).settle (l.key x r) (under p (l.key x r) (l.word x r)) := by
  have hpend : (g.delivered p.id l).pend = [{ p with vals := l.vals, returned := true }] := by
    simp [Gang.delivered, Gang.modPend, hg]
  have hfind : ∀ d v, (d, v) ∈ l.vals → l.vals.find? (fun x => x.1 == d) = some (d, v) := fun d v h =>
    find?_of_nodup_keys (hk ▸ hn) h
  have hval : ∀ d, d ∈ p.dests →
      l.vals.find? (fun x => x.1 == d) = some (d, ((l.vals.find? fun x => x.1 == d).map Prod.snd).getD 0) := by
    intro d hmem
    rw [hk] at hmem
    obtain ⟨⟨_, v⟩, hv, rfl⟩ := List.mem_map.1 hmem
    rw [hfind _ _ hv]; rfl
  obtain ⟨hnil, hreads⟩ := Gang.settleN_sole (fun d => ((l.vals.find? fun x => x.1 == d).map Prod.snd).getD 0) p.dests
    (g.delivered p.id l) { p with vals := l.vals, returned := true } hpend rfl he rfl hd hn hdue hval
  have hsettle : (g.delivered p.id l).settle = Gang.settleN p.dests.length (g.delivered p.id l) := by
    simp [Gang.settle, hpend]
  rw [hsettle]
  refine ⟨hnil, fun x r hx hr => ?_⟩
  have hmem := LoadPart.mem_vals hx hr
  have h := hreads (l.key x r) (hk ▸ List.mem_map_of_mem (f := Prod.fst) hmem)
  rw [hfind _ _ hmem] at h
  exact h

/-! ## Both events -/

/-- R116: a load that returns while its tile switches writes nothing yet. -/
theorem Gang.answered_switching (g : Gang) : g.answered true = g := rfl

/-- Settles O22: a load's read at home is the model's `readLine`, whose lease, copy and bytes the lemmas of the first part give; its
return settles the gang, and a result alone in flight is written whole. -/
theorem loadsComplete : Obligations.LoadsComplete := by
  refine ⟨fun s g p l hg hp hl hn htile hslot hm he hc ht => ?_, fun s g p l hg hp hl hr hn hd he => ?_⟩
  · refine ⟨_, g.modPend p.id fun q => { q with load := some (l.taking s s.subject.item) }, l.taking s s.subject.item,
      (exec_loadHomeRead hg hp hl hn hm he hc ht).trans (congrArg _ (s.readLine_eq ..)), ?_, rfl, l.mem_need_taking s s.subject.item,
      fun b v hb => ?_, fun x b k hx hb hk hline hnone => ?_, rfl, rfl, rfl, rfl, rfl, fun hkeep => ?_, fun hkeep => ?_, fun now a => ?_⟩
    · rw [hslot]
      exact State.gang?_setGang_same ..
    · rw [LoadPart.find?_got_taking, hb]; rfl
    · rw [LoadPart.find?_got_taking, hnone, if_pos (LoadPart.mem_bytesIn.2 ⟨x, hx, b, k, hb, hk, rfl, hline⟩)]; rfl
    · exact (congrArg (fun t : State => (t.home s.subject.item).lease) (State.lineRead_passing hkeep)).trans
        (congrArg Home.lease (s.home_touchL2 ..))
    · exact State.lineRead_leases hkeep
    · exact s.homeByte_lineRead s.subject.unit g.ctx s.subject.item l now a
  · have hst : Settled g ((g.delivered p.id l).answered (s.tile s.subject.unit).switching.isSome) :=
      (g.settled_delivered p.id l).trans (Gang.settled_answered _ _)
    refine ⟨_, _, exec_loadReturn hg hp hl hr hn hd he, s.gang?_loadReturned .., hst.slices, fun hsw => ?_, hst.pred, hst.rem, hst.fpst,
      hst.sreg, hst.vreg, s.homeByte_loadReturned _ _ g p.id l, fun hacq x hx => ?_, fun hsw hpend heng hkeys hnd hlane hdue => ?_⟩
    · rw [Option.isSome_iff_ne_none.2 hsw, Gang.answered_switching]
      exact ⟨fun _ => rfl, fun _ _ _ => rfl⟩
    · rw [State.tile_loadReturned] at hx
      exact s.l1_acquired s.subject.unit g hacq x hx
    · rw [hsw]
      have hvals : p.dests = l.vals.map Prod.fst := hkeys.trans l.loadKeys_eq
      obtain ⟨hnil, hreads⟩ := Gang.settle_delivered hpend heng hd hvals (hvals ▸ LoadPart.nodup_keys hnd hlane) hdue
      refine ⟨hnil, fun x r hx hr hw => ?_⟩
      have h := hreads x r hx hr
      rwa [LoadPart.word_eq_loadedWord hr hw] at h

end Sys2Proof.Machine
end

section
/-!
PROOF. Why O47 fails: a relock that completes takes what is held for its tiles (R14, R342), and where a tile that is awake holds a reply of
the host, which the statement does not exclude, the reply takes a matrix command of the cluster out of its reservation table (R215).
-/

namespace Sys2Proof.Machine

/-- A gang of tile 0 with nothing issued. -/
def declinedGang : Gang := { tile := 0, slot := 0, ctx := 0, nsl := 1, nv := 64, ns := 512, slices := [{ pc := 0x1000 }] }

/-- Tile 0 awake with a DECLINE held for the matrix command of that gang, which waits in the table of a cluster that relocks. The model
holds replies for a tile that is dormant or waking alone (R342), but the statement is about every state. -/
def heldDecline : State :=
  { State.reset with
    gangs := [(0, declinedGang)]
    tiles := [(0, { held := [.reply 2 { kind := 4, cause := 0x04, cls := 2 }] })]
    clusters := [(0, { relock := some 0x118, resv := [{ tile := 0, slot := 0, pri := 0, age := 0 }] })] }

theorem heldDecline_relock : (heldDecline.cluster 0).relock = some 0x118 := rfl

/-- No group of the cluster's tiles spills or refills. -/
theorem heldDecline_drained : ∀ u g x, g ∈ heldDecline.gangsOf u → x ∈ g.slices → x.wait ≠ .spill ∧ x.wait ≠ .refill := by
  intro u g x hg hx
  have hg : g = declinedGang := List.mem_singleton.1 (List.mem_filter.1 hg).1
  subst hg
  have hx : x = { pc := 0x1000 } := List.mem_singleton.1 hx
  subst hx
  decide

/-- With the relock the reservation goes. -/
theorem heldDecline_relocked {t : State} (h : exec .cclkRelockComplete heldDecline = .next t) : (t.cluster 0).resv = [] := by
  obtain ⟨u, hu, hr⟩ : ∃ u, exec .cclkRelockComplete heldDecline = .next u ∧ (u.cluster 0).resv = [] :=
    ⟨_, rfl, by decide +kernel⟩
  rw [hu] at h
  cases h
  exact hr

/-- Refutes O47: by its second part a completed relock changes nothing of the cluster but CCLK, whatever its tiles hold, while it asks
for `onlyWrites` where it speaks of memory; in `heldDecline` a held reply takes the cluster's one reservation away. -/
theorem not_powerControl : ¬ Obligations.PowerControl := by
  rintro ⟨-, hrelock, -⟩
  obtain ⟨t, ht, hc, -⟩ := (hrelock heldDecline 0x118 heldDecline_relock).2 fun ⟨u, g, x, _, hg, hx, hw⟩ =>
    hw.elim (heldDecline_drained u g x hg hx).1 (heldDecline_drained u g x hg hx).2
  have hkept := congrArg Cluster.resv hc
  exact absurd (hkept.symm.trans (heldDecline_relocked ht)) (by decide)

end Sys2Proof.Machine
end
